-- ==== Sys2Proof/Word.lean ====
section
/-! DEFINITION. The word types of the part: 64-bit g registers and symbol words, 32-bit fabric
tokens and instruction words, bytes. -/

namespace Sys2Proof

/-- A g register, s-register, symbol word or doubleword (R93, R96, R173). -/
abbrev Word := BitVec 64

/-- An instruction word, a fabric token's data, an FP32 bit pattern (R101, R113). -/
abbrev W32 := BitVec 32

/-- The smallest addressable unit of memory (R24, R71). -/
abbrev Byte := BitVec 8

end Sys2Proof
end

