-- ==== Sys2Proof/Machine/Flags.lean ====
section
/-! DEFINITION. The five sticky float flags (R97, R158) and how they gather. -/

namespace Sys2Proof.Machine

/-- The flags that one operation raises (R158). -/
structure FFlags where
  invalid : Bool := false
  divByZero : Bool := false
  overflow : Bool := false
  underflow : Bool := false
  inexact : Bool := false
  deriving DecidableEq, Repr

/-- No flag raised. -/
def FFlags.none : FFlags := {}

/-- The union of two sets of flags. -/
def FFlags.join (x y : FFlags) : FFlags :=
  { invalid := x.invalid || y.invalid, divByZero := x.divByZero || y.divByZero,
    overflow := x.overflow || y.overflow, underflow := x.underflow || y.underflow,
    inexact := x.inexact || y.inexact }

/-- The layout of R97: inexact [4], underflow [3], overflow [2], divide-by-zero [1], invalid [0]. -/
def FFlags.bits (x : FFlags) : BitVec 5 :=
  BitVec.ofBool x.inexact ++ BitVec.ofBool x.underflow ++ BitVec.ofBool x.overflow ++
    BitVec.ofBool x.divByZero ++ BitVec.ofBool x.invalid

/-- Sticky flags after an operation: it sets the flags it raises and never clears one (R97, R172). -/
def stick (sticky : BitVec 5) (x : FFlags) : BitVec 5 := sticky ||| x.bits

end Sys2Proof.Machine
end

