-- ==== Sys2Proof/Syntax.lean ====
section
/-! DEFINITION. The steps of the part: one constructor of Instr per row of the table of operations and
events. CP instructions carry their guard (R10) and the operand fields of R102; element ops carry the
fields of a context word (R118), trigger ops those of a trigger instruction (R132); the machine's other
steps name the unit they act on. -/

namespace Sys2Proof

/-- The guard fields [24:21] of an instruction word (R10). -/
structure Guard where
  neg : Bool
  p : BitVec 3
  deriving DecidableEq, Repr

/-- The guard 0000: the instruction always issues (R10). -/
def Guard.always : Guard := ⟨false, 0⟩

/-- A context word less its op field (R118). -/
structure ElWord where
  a : BitVec 3
  b : BitVec 3
  p : BitVec 3
  dN : BitVec 3
  dE : BitVec 3
  dS : BitVec 3
  dW : BitVec 3
  tag : BitVec 5
  tagMode : BitVec 2
  lact : BitVec 2
  cond : BitVec 3
  aux : BitVec 8
  imm : BitVec 16
  deriving DecidableEq, Repr

/-- A valid trigger instruction less its op field (R132). -/
structure TrWord where
  mask : BitVec 8
  value : BitVec 8
  head : BitVec 4
  tag : BitVec 5
  tagQ : BitVec 2
  tagEn : Bool
  setEn : Bool
  setIx : BitVec 3
  clrEn : Bool
  clrIx : BitVec 3
  deq : BitVec 4
  operand : BitVec 16
  deriving DecidableEq, Repr

/-- What an inbound UIO request asks (R23). -/
inductive UioKind where
  | read
  | write (data : List Byte)
  | atomic (op : BitVec 3) (data expected : Word)
  deriving DecidableEq, Repr

/-- An inbound UIO request: the partition whose apertures it addresses, its DPA and size in bytes (R23). -/
structure UioReq where
  part : Nat
  dpa : Nat
  size : Nat
  kind : UioKind
  deriving DecidableEq, Repr

/-- The data of a write to a register window: its size in bytes and its value (R322). -/
structure RegData where
  size : Nat
  v : Word
  deriving DecidableEq, Repr

/-- How the core monitor ends a call (R229): with results for g1 to g7, a refusal, or a return. -/
inductive MonitorAns where
  | complete (results : List (Nat × Word))
  | refuse
  | returnToOperator
  deriving DecidableEq, Repr

/-- Where an uncorrectable error occurs (the rows of R317). -/
inductive ErrAt where
  | leafCell (cell : Nat)
  | nodeCell (level index : Nat)
  | configActive (core : Nat) (q : BitVec 4)
  | configInactive (core launch entry : Nat)
  | icache (core : Nat)
  | contextState (core ctx : Nat)
  | elementState (core row col : Nat)
  | islandBank (core isl : Nat)
  | cleanLine (core line : Nat)
  | dirtyLine (part dpaLine : Nat)
  | cleanL2 (slice q : Nat)
  | frame (core frame : Nat)
  | spillFrame (slice frame : Nat)
  | dirEntry (part slot page : Nat)
  | staging (part plan : Nat)
  deriving DecidableEq, Repr

/-- Every row of the table of operations and events, one constructor each. -/
inductive Instr where
  -- the instructions of the control processor (R197 to R265)
  | add (c : Guard) (w : Bool) (d a b : BitVec 5)  -- R199
  | sub (c : Guard) (w : Bool) (d a b : BitVec 5)  -- R199
  | mul (c : Guard) (w : Bool) (d a b : BitVec 5)  -- R199
  | mulh (c : Guard) (w : Bool) (d a b : BitVec 5)  -- R199
  | mulhz (c : Guard) (w : Bool) (d a b : BitVec 5)  -- R199
  | div (c : Guard) (w : Bool) (d a b : BitVec 5)  -- R199
  | divz (c : Guard) (w : Bool) (d a b : BitVec 5)  -- R199
  | rem (c : Guard) (w : Bool) (d a b : BitVec 5)  -- R199
  | remz (c : Guard) (w : Bool) (d a b : BitVec 5)  -- R199
  | and (c : Guard) (w : Bool) (d a b : BitVec 5)  -- R199
  | or (c : Guard) (w : Bool) (d a b : BitVec 5)  -- R199
  | xor (c : Guard) (w : Bool) (d a b : BitVec 5)  -- R199
  | shl (c : Guard) (w : Bool) (d a b : BitVec 5)  -- R199
  | shr (c : Guard) (w : Bool) (d a b : BitVec 5)  -- R199
  | sar (c : Guard) (w : Bool) (d a b : BitVec 5)  -- R199
  | min (c : Guard) (w : Bool) (d a b : BitVec 5)  -- R199
  | max (c : Guard) (w : Bool) (d a b : BitVec 5)  -- R199
  | abs (c : Guard) (w : Bool) (d a : BitVec 5)  -- R199
  | clz (c : Guard) (w : Bool) (d a : BitVec 5)  -- R199
  | popc (c : Guard) (w : Bool) (d a : BitVec 5)  -- R199
  | sext (c : Guard) (w : Bool) (d a b : BitVec 5)  -- R199: b is the width code
  | zext (c : Guard) (w : Bool) (d a b : BitVec 5)  -- R199: b is the width code
  | sel (c : Guard) (d a b : BitVec 5) (k : BitVec 3)  -- R200
  | addi (c : Guard) (d a : BitVec 5) (imm : BitVec 11)  -- R201
  | andi (c : Guard) (d a : BitVec 5) (imm : BitVec 11)  -- R201
  | ori (c : Guard) (d a : BitVec 5) (imm : BitVec 11)  -- R201
  | xori (c : Guard) (d a : BitVec 5) (imm : BitVec 11)  -- R201
  | shli (c : Guard) (d a : BitVec 5) (n : BitVec 6)  -- R201
  | shri (c : Guard) (d a : BitVec 5) (n : BitVec 6)  -- R201
  | sari (c : Guard) (d a : BitVec 5) (n : BitVec 6)  -- R201
  | ldi (c : Guard) (d : BitVec 5) (imm : BitVec 32)  -- R202
  | ldiHi (c : Guard) (d : BitVec 5) (imm : BitVec 32)  -- R202
  | cmp (c : Guard) (w : Bool) (d : BitVec 3) (a b : BitVec 5) (cc : BitVec 3)  -- R203
  | cmpi (c : Guard) (d : BitVec 3) (cc : BitVec 3) (a : BitVec 5) (imm : BitVec 10)  -- R204
  | fcmp (c : Guard) (d : BitVec 3) (a b : BitVec 5) (cc : BitVec 3)  -- R205
  | pand (c : Guard) (d a b : BitVec 3)  -- R206
  | por (c : Guard) (d a b : BitVec 3)  -- R206
  | pxor (c : Guard) (d a b : BitVec 3)  -- R206
  | pnot (c : Guard) (d a : BitVec 3)  -- R206
  | fadd (c : Guard) (d a b : BitVec 5)  -- R208
  | fsub (c : Guard) (d a b : BitVec 5)  -- R208
  | fmul (c : Guard) (d a b : BitVec 5)  -- R208
  | fma (c : Guard) (d a b : BitVec 5)  -- R208
  | fmin (c : Guard) (d a b : BitVec 5)  -- R208
  | fmax (c : Guard) (d a b : BitVec 5)  -- R208
  | fabs (c : Guard) (d a : BitVec 5)  -- R208
  | fneg (c : Guard) (d a : BitVec 5)  -- R208
  | fdiv (c : Guard) (d a b : BitVec 5)  -- R208
  | fsqrt (c : Guard) (d a : BitVec 5)  -- R208
  | fexp2 (c : Guard) (d a : BitVec 5)  -- R208
  | flog2 (c : Guard) (d a : BitVec 5)  -- R208
  | frcp (c : Guard) (d a : BitVec 5)  -- R208
  | fcvt (c : Guard) (d a : BitVec 5) (src : BitVec 4) (sat : Bool) (dst : BitVec 4) (rm : BitVec 2)  -- R209
  | ftoi (c : Guard) (d a : BitVec 5) (z : Bool) (width : BitVec 2) (rm : BitVec 2)  -- R210
  | itof (c : Guard) (d a : BitVec 5) (z : Bool) (width : BitVec 2)  -- R211
  | nop (c : Guard)  -- R212
  | br (c : Guard) (off : BitVec 21)  -- R213
  | brl (c : Guard) (off : BitVec 21)  -- R213
  | jmp (c : Guard) (a : BitVec 5) (imm : BitVec 11)  -- R214
  | jmpl (c : Guard) (d a : BitVec 5) (imm : BitVec 11)  -- R214
  | loop (c : Guard) (a : BitVec 5) (imm : BitVec 11)  -- R215
  | ld (c : Guard) (d base : BitVec 5) (size : BitVec 2) (off : BitVec 9)  -- R216
  | ldz (c : Guard) (d base : BitVec 5) (size : BitVec 2) (off : BitVec 9)  -- R216
  | st (c : Guard) (d base : BitVec 5) (size : BitVec 2) (off : BitVec 9)  -- R216
  | ldx (c : Guard) (d a b : BitVec 5) (sh : BitVec 3) (z : Bool) (size : BitVec 2)  -- R217
  | stx (c : Guard) (d a b : BitVec 5) (sh : BitVec 3) (size : BitVec 2)  -- R217
  | prf (c : Guard) (wr : Bool) (base : BitVec 5) (off : BitVec 9)  -- R218
  | cln (c : Guard) (base : BitVec 5) (off : BitVec 9)  -- R218
  | fnc (c : Guard) (kind : BitVec 2) (scope : BitVec 3)  -- R221
  | aadd (c : Guard) (d a b : BitVec 5) (scope : BitVec 3)  -- R222
  | amin (c : Guard) (d a b : BitVec 5) (scope : BitVec 3)  -- R222
  | amax (c : Guard) (d a b : BitVec 5) (scope : BitVec 3)  -- R222
  | aand (c : Guard) (d a b : BitVec 5) (scope : BitVec 3)  -- R222
  | aor (c : Guard) (d a b : BitVec 5) (scope : BitVec 3)  -- R222
  | axch (c : Guard) (d a b : BitVec 5) (scope : BitVec 3)  -- R222
  | acas (c : Guard) (d a b : BitVec 5) (scope : BitVec 3)  -- R222
  | afadd (c : Guard) (d a b : BitVec 5) (scope : BitVec 3)  -- R222
  | bari (c : Guard) (bar b : BitVec 5)  -- R226
  | bara (c : Guard) (d bar : BitVec 5)  -- R226
  | barw (c : Guard) (bar b : BitVec 5)  -- R226
  | barq (c : Guard) (d bar : BitVec 5)  -- R226
  | gets (c : Guard) (d : BitVec 5) (sreg : BitVec 11)  -- R228
  | sets (c : Guard) (a : BitVec 5) (sreg : BitVec 11)  -- R228
  | sysc (c : Guard) (n : BitVec 11)  -- R229
  | eret (c : Guard)  -- R231
  | eretNext (c : Guard)  -- R231
  | trap (c : Guard) (k : BitVec 8)  -- R230
  | wfe (c : Guard) (d : BitVec 5) (n : BitVec 11)  -- R232
  | yield (c : Guard) (n : BitVec 11)  -- R233
  | talloc (c : Guard) (d : BitVec 4) (a b : BitVec 5) (fmt : BitVec 4) (pin : Bool)  -- R237
  | tview (c : Guard) (d a : BitVec 4) (b : BitVec 5)  -- R238
  | tld (c : Guard) (d : BitVec 5) (a : BitVec 4) (b : BitVec 5) (mode : BitVec 3) (z : Bool) (size : BitVec 2)  -- R239
  | tst (c : Guard) (d : BitVec 4) (a b : BitVec 5) (mode : BitVec 3) (size : BitVec 2)  -- R239
  | tshape (c : Guard) (d : BitVec 5) (a : BitVec 4)  -- R240
  | tstate (c : Guard) (d : BitVec 5) (a : BitVec 4)  -- R240
  | twait (c : Guard) (a : BitVec 4)  -- R241
  | tseal (c : Guard) (a : BitVec 4)  -- R241
  | ttouch (c : Guard) (a : BitVec 4)  -- R242
  | tadvKeep (c : Guard) (a : BitVec 4)  -- R242
  | tadvSpill (c : Guard) (a : BitVec 4)  -- R242
  | tpin (c : Guard) (a : BitVec 4)  -- R242
  | tpinUn (c : Guard) (a : BitVec 4)  -- R242
  | tdrop (c : Guard) (a : BitVec 4)  -- R242
  | xspan (c : Guard) (d a : BitVec 5)  -- R244
  | xlen (c : Guard) (d a : BitVec 5)  -- R244
  | xkind (c : Guard) (d a : BitVec 5)  -- R244
  | xarg (c : Guard) (d a : BitVec 5)  -- R244
  | xargH (c : Guard) (d : BitVec 4) (a : BitVec 5)  -- R244
  | xcopy (c : Guard) (a b : BitVec 5)  -- R244
  | xemit (c : Guard) (a : BitVec 5)  -- R245
  | xemitt (c : Guard) (a : BitVec 4)  -- R245
  | xopen (c : Guard)  -- R245
  | xclose (c : Guard)  -- R245
  | xcloseApp (c : Guard)  -- R245
  | xapply (c : Guard) (a b : BitVec 5)  -- R245
  | commit (c : Guard)  -- R184, R246
  | abort (c : Guard)  -- R246
  | xfail (c : Guard) (a : BitVec 5)  -- R246
  | trbc (c : Guard) (d a b : BitVec 5)  -- R248
  | trbcH (c : Guard) (d a : BitVec 4) (b : BitVec 5)  -- R248
  | trred (c : Guard) (d a : BitVec 5) (fmt op : BitVec 3)  -- R248
  | trgath (c : Guard) (d a : BitVec 5)  -- R248
  | trbar (c : Guard)  -- R248
  | cplan (c : Guard) (d a : BitVec 5)  -- R251
  | cfire (c : Guard) (a : BitVec 5)  -- R252
  | cwait (c : Guard) (d a b : BitVec 5)  -- R252
  | cdrop (c : Guard) (a : BitVec 5)  -- R252
  | csendS (c : Guard) (a : BitVec 4) (b : BitVec 5)  -- R249
  | csendR (c : Guard) (d : BitVec 4) (b : BitVec 5)  -- R249
  | sagen (c : Guard) (eng : BitVec 4) (a : BitVec 5)  -- R254
  | sagenTile (c : Guard) (eng a : BitVec 4) (b : BitVec 5)  -- R254
  | sagenPantry (c : Guard) (eng : BitVec 4) (entry : BitVec 10)  -- R254
  | sgo (c : Guard) (eng : BitVec 4)  -- R256
  | shalt (c : Guard) (eng : BitVec 4)  -- R256
  | shaltPush (c : Guard) (a : BitVec 5)  -- R256
  | swait (c : Guard) (eng : BitVec 4) (scope : BitVec 3)  -- R257
  | scnt (c : Guard) (d : BitVec 5) (eng : BitVec 4)  -- R257
  | smcast (c : Guard) (a b : BitVec 5)  -- R258
  | sbind (c : Guard) (eng a : BitVec 4) (slot : BitVec 5)  -- R255
  | sbindHost (c : Guard) (eng : BitVec 4)  -- R255
  | gload (c : Guard) (q : BitVec 4) (a : BitVec 5)  -- R260
  | gloadPantry (c : Guard) (q : BitVec 4) (entry : BitVec 10)  -- R260
  | gpatch (c : Guard) (q : BitVec 4) (a : BitVec 5)  -- R260
  | gpatchPantry (c : Guard) (q : BitVec 4) (entry : BitVec 10)  -- R260
  | gproof (c : Guard) (q : BitVec 4)  -- R261
  | gseed (c : Guard) (q : BitVec 4) (a b : BitVec 5)  -- R261
  | gdrain (c : Guard) (q : BitVec 4)  -- R262
  | gdrainOpen (c : Guard) (q : BitVec 4)  -- R262
  | gwait (c : Guard) (q : BitVec 4)  -- R262
  | gwaitIdle (c : Guard) (q : BitVec 4)  -- R262
  | gkill (c : Guard) (q : BitVec 4)  -- R263
  | gsave (c : Guard) (q : BitVec 4) (a : BitVec 5)  -- R263
  | gstall (c : Guard) (d a : BitVec 5)  -- R264
  | gstallFlags (c : Guard) (d : BitVec 5) (q : BitVec 4)  -- R264
  -- the element ops (R266 to R283)
  | eNop
  | eAdd (w : ElWord)
  | eSub (w : ElWord)
  | eMul (w : ElWord)
  | eMulh (w : ElWord)
  | eAnd (w : ElWord)
  | eOr (w : ElWord)
  | eXor (w : ElWord)
  | eShl (w : ElWord)
  | eShr (w : ElWord)
  | eSar (w : ElWord)
  | eMin (w : ElWord)
  | eMax (w : ElWord)
  | eCmp (w : ElWord)
  | eSel (w : ElWord)
  | eMov (w : ElWord)
  | eConst (w : ElWord)
  | eCnt (w : ElWord)
  | eAcc (w : ElWord)
  | eFadd (w : ElWord)
  | eFsub (w : ElWord)
  | eFmul (w : ElWord)
  | eFfma (w : ElWord)
  | eFmin (w : ElWord)
  | eFmax (w : ElWord)
  | eFcmp (w : ElWord)
  | eFacc (w : ElWord)
  | eCvt (w : ElWord)
  | eExp2 (w : ElWord)
  | eLog2 (w : ElWord)
  | eRcp (w : ElWord)
  | eRsq (w : ElWord)
  | eLd (w : ElWord)
  | eSt (w : ElWord)
  | eLdl (w : ElWord)
  | eOrdf (w : ElWord)
  | eOrdj (w : ElWord)
  | eSteer (w : ElWord)
  | eMerge (w : ElWord)
  | eTagchk (w : ElWord)
  | eSink (w : ElWord)
  -- the trigger ops (R285 to R288)
  | tMma (t : TrWord)
  | tMclr (t : TrWord)
  | tMdrain (t : TrWord)
  | tMscale (t : TrWord)
  | tAccrd (t : TrWord)
  | tDeq (t : TrWord)
  | tEnq (t : TrWord)
  | tPset (t : TrWord)
  | tPclr (t : TrWord)
  | tSig (t : TrWord)
  | tSeed (t : TrWord)
  | tTagset (t : TrWord)
  | tCnt (t : TrWord)
  | tMov (t : TrWord)
  | tCmp (t : TrWord)
  | tHalt (t : TrWord)
  -- the other steps of the part
  | launchLoad (part slot : Nat)  -- R177
  | preemptComplete (part : Nat)  -- R313
  | dvinvComplete (part : Nat)  -- R34
  | mapChangeComplete (part : Nat)  -- R44
  | firmwareCheck  -- R334
  | priTimeout (core eng : Nat)  -- R36
  | marginPlanTimer (bins : List (Nat × Nat))  -- R336
  | fenceCore (core : Nat)  -- R319
  | fenceSlice (slice : Nat)  -- R320
  | discoveryPass (part : Nat)  -- R179
  | placeGang (part slot cell : Nat)  -- R305, R306
  | operatorLoad (part slot op core : Nat)  -- R183
  | contextStart (core ctx : Nat)  -- R99, R316
  | steal (part slot cell core : Nat)  -- R308
  | commitStep (part : Nat)  -- R185
  | dvaRetry (core row col : Nat)  -- R32
  | pageArrival (core part slot page : Nat)  -- R80
  | faultLimitExpiry (part gang : Nat)  -- R81, R220
  | secondChanceClock (core : Nat)  -- R83
  | streamBurst (core eng : Nat)  -- R58, R61
  | streamComplete (core eng : Nat)  -- R63
  | pushUnit (push : Nat)  -- R48
  | spaceToken (core eng : Nat)  -- R48
  | proofWave (core : Nat) (q : BitVec 4)  -- R141
  | islandTask (core isl : Nat)  -- R149
  | scaleToken (core isl : Nat)  -- R151
  | planRunComplete (part plan : Nat)  -- R252
  | csendCopyDone (part gang src dst : Nat)  -- R249
  | yieldExpiry (core ctx : Nat)  -- R233
  | monitorEndCall (core ctx : Nat) (ans : MonitorAns)  -- R229
  | illegalEncoding (addr : Word)  -- R107, R93
  | writeOutEnd (part slot page : Nat)  -- R86
  | planJoin (part plan : Nat)  -- R251
  -- what the outside does, and events that the part takes within other steps
  | launch (part : Nat) (v : Word)  -- R323
  | preempt (part : Nat) (v : Word)  -- R312, R313
  | resume (part : Nat) (v : Word)  -- R312, R316
  | statusFree (part slot : Nat) (v : Word)  -- R324
  | dvinvPage (part : Nat) (v : Word)  -- R33, R34
  | dvinvLaunch (part : Nat) (v : Word)  -- R33, R34
  | dvinvPartition (part : Nat) (v : Word)  -- R33, R34
  | errstsClear (part : Nat) (v : Word)  -- R325
  | routeTableWrite (part granule : Nat) (v : Word)  -- R25
  | slcfgWrite (part slice : Nat) (v : Word)  -- R40
  | sliceMapCommit (part : Nat) (v : Word)  -- R43, R44
  | partitionCreate (part : Nat) (lo hi : Word)  -- R327
  | partitionDelete (part : Nat) (lo : Word)  -- R327
  | bootgo (v : Word)  -- R334
  | msixUnmask (vec : Nat)  -- R326
  | registerWrite (bar off : Nat) (d : RegData)  -- R321, R322
  | reset  -- R337
  | uioRequest (req : UioReq)  -- R23
  | translationCompletion (pasid page : Nat) (rd wr : Bool)  -- R36
  | pageGroupResponse (pasid page : Nat) (ok : Bool)  -- R36
  | atsInvalidateRequest (pasid page : Nat)  -- R37
  | getVersion  -- R335
  | getCapabilities  -- R335
  | negotiateAlgorithms  -- R335
  | getDigests  -- R335
  | getCertificate  -- R335
  | challenge (nonce : Nat)  -- R335
  | getMeasurements (index : Nat)  -- R335
  | portDown (port : Nat)  -- R329
  | portUp (port : Nat) (x16 fast : Bool)  -- R22, R329
  | thermalAlarm (bins : List (Nat × Nat))  -- R6
  | marginAlarm (unit : Nat) (bins : List (Nat × Nat))  -- R336
  | uncorrectableError (at_ : ErrAt)  -- R317
  | correctedError (core array : Nat)  -- R317, R319
  | pageTableWalk (core part slot : Nat) (dva : Word) (write : Bool)  -- R28
  | sttMiss (core part slot page : Nat) (write : Bool)  -- R77
  | streamFault (core eng : Nat)  -- R68
  | wfeTimeout (core ctx : Nat)  -- R232
  deriving DecidableEq, Repr

end Sys2Proof
end

