-- ==== Sys2Proof/Machine/WordChecks.lean ====
section
/-! DEFINITION. The checks that depend on an instruction word alone: the decode checks of R107 for CP
instructions, and the field rules of R266, R132 and R285 for the words of element and trigger ops. -/

namespace Sys2Proof.Machine

/-- A guard of 1000, negate with p0, is reserved (R10). -/
def guardOk (c : Guard) : Bool := !(c.neg && c.p == 0)

/-- A scope code below 6 (R106). -/
def scopeOk (s : BitVec 3) : Bool := decide (s.toNat < 6)

/-- FCVT: formats 0 to 9; saturate zero from float to integer, rounding zero between integers (R209). -/
def fcvtOk (src : BitVec 4) (sat : Bool) (dst : BitVec 4) (rm : BitVec 2) : Bool :=
  decide (src.toNat < 10) && decide (dst.toNat < 10) &&
    (if src.toNat < 5 then (decide (5 ≤ dst.toNat) || rm == 0)
     else (decide (5 ≤ dst.toNat) || !sat))

/-- The op and format pairs of R51, with TRRED's codes (fmt 0 int32, 1 z16, 2 fp32, 3 bf16) (R248). -/
def trredOk (fmt op : BitVec 3) : Bool :=
  match op.toNat with
  | 0 => fmt == 0 || fmt == 2 || fmt == 3
  | 1 | 2 => decide (fmt.toNat < 4)
  | 3 | 4 | 5 => fmt == 0
  | _ => false

/-- A quadrant mask that names one quadrant, a half or the full grid (R114, R260). -/
def regionMaskOk (q : BitVec 4) : Bool :=
  [1, 2, 4, 8, 3, 12, 5, 10, 15].contains q.toNat

/-- A quadrant mask of exactly one quadrant (R259). -/
def oneQuadOk (q : BitVec 4) : Bool := [1, 2, 4, 8].contains q.toNat

/-- A quadrant mask that is not zero (R234). -/
def maskOk (q : BitVec 4) : Bool := q != 0

/-- The modes and sizes of TLD: modes 0 to 4, sizes 0 to 2 (R239). -/
def tldOk (mode : BitVec 3) (size : BitVec 2) : Bool := decide (mode.toNat < 5) && size != 3

/-- The modes and sizes of TST: as TLD, without mode 1 (R239). -/
def tstOk (mode : BitVec 3) (size : BitVec 2) : Bool := decide (mode.toNat < 5) && mode != 1 && size != 3

/-- The element size in bytes of a format code, 0 for nq4 and reserved codes (R71). -/
def fmtSize (f : Nat) : Nat :=
  match f with
  | 0 | 3 | 5 | 6 => 1
  | 1 | 4 | 7 | 8 => 2
  | 2 | 9 => 4
  | _ => 0

/-- How an op's row uses a source field (R266). -/
inductive Use where
  | none | required | optional | queue | optQueue
  deriving DecidableEq, Repr

/-- The row of an element op (R266 to R283): its code, its sources, the conditions listed, how many low
aux bits it names, whether imm16 has a meaning of its own and how many low bits of it count, whether the
local register action must be 1, and whether it makes ordering tokens. -/
structure ElRow where
  code : Nat
  a : Use
  b : Use
  p : Use
  conds : List Nat
  auxBits : Nat
  ownImm : Bool
  immBits : Nat
  mustWriteL : Bool
  ordering : Bool
  deriving DecidableEq, Repr

/-- A source field against its row: unused fields hold 7, required ones do not (R266). -/
def useOk (u : Use) (s : BitVec 3) : Bool :=
  match u with
  | .none => s == 7
  | .required => s != 7
  | .optional => true
  | .queue => decide (s.toNat < 4)
  | .optQueue => decide (s.toNat < 4) || s == 7

/-- Pass drives: codes 2 to 5 (R120). -/
def isPass (d : BitVec 3) : Bool := decide (2 ≤ d.toNat) && decide (d.toNat ≤ 5)

/-- Conditional drives: codes 6 and 7 (R120). -/
def isCondDrive (d : BitVec 3) : Bool := d == 6 || d == 7

/-- The drives of a word in the order N, E, S, W. -/
def drivesOf (w : ElWord) : List (BitVec 3) := [w.dN, w.dE, w.dS, w.dW]

/-- What a single op's row adds to the shared checks (R271, R274, R275, R276, R281, R282, R283). -/
def elExtraOk (code : Nat) (w : ElWord) : Bool :=
  match code with
  | 0x10 => decide (w.a.toNat < 4) || decide (w.b.toNat < 4) || decide (w.p.toNat < 4)
  | 0x1B => decide (w.aux.toNat < 10)
  | 0x1C | 0x1D | 0x1E | 0x1F => w.imm == 0
  | 0x20 | 0x21 =>
    let f := w.aux.toNat / 8
    decide (f < 10) && decide (fmtSize f = 2 ^ w.cond.toNat)
  | 0x22 => decide (w.aux.toNat / 8 = 2) && w.cond == 2
  | 0x25 => (drivesOf w).any isCondDrive
  | 0x27 => w.imm != 31
  | 0x28 => (drivesOf w).all (· == 0) && w.lact == 0
  | _ => true

/-- The word-level checks of R266, R267, R268, R280 and R134 on an element op's word, all of kind 2. -/
def elWordOk (r : ElRow) (w : ElWord) : Bool :=
  useOk r.a w.a && useOk r.b w.b && useOk r.p w.p &&
  r.conds.contains w.cond.toNat &&
  decide (w.aux.toNat < 2 ^ r.auxBits) &&
  (if r.ownImm then decide (w.imm.toNat < 2 ^ r.immBits) && w.a != 4 && w.b != 4 && w.p != 4
   else w.imm == 0 || w.a == 4 || w.b == 4 || w.p == 4) &&
  (!r.mustWriteL || w.lact == 1) &&
  ((drivesOf w).any isPass || decide (w.a.toNat < 4) || decide (w.b.toNat < 4) || decide (w.p.toNat < 4)) &&
  (!((drivesOf w).any isCondDrive) || w.p != 7) &&
  (if r.ordering then w.tagMode == 2 && w.tag == 31 else !(w.tagMode == 2 && w.tag == 31)) &&
  elExtraOk r.code w

/-- The row of e.add. -/
def rowAdd : ElRow := ⟨0x01, .required, .required, .none, [0], 0, false, 0, false, false⟩

/-- The row of e.sub. -/
def rowSub : ElRow := ⟨0x02, .required, .required, .none, [0], 0, false, 0, false, false⟩

/-- The row of e.mul. -/
def rowMul : ElRow := ⟨0x03, .required, .required, .none, [0], 0, false, 0, false, false⟩

/-- The row of e.mulh. -/
def rowMulh : ElRow := ⟨0x04, .required, .required, .none, [0, 1], 0, false, 0, false, false⟩

/-- The row of e.and. -/
def rowAnd : ElRow := ⟨0x05, .required, .required, .none, [0], 0, false, 0, false, false⟩

/-- The row of e.or. -/
def rowOr : ElRow := ⟨0x06, .required, .required, .none, [0], 0, false, 0, false, false⟩

/-- The row of e.xor. -/
def rowXor : ElRow := ⟨0x07, .required, .required, .none, [0], 0, false, 0, false, false⟩

/-- The row of e.shl. -/
def rowShl : ElRow := ⟨0x08, .required, .required, .none, [0], 0, false, 0, false, false⟩

/-- The row of e.shr. -/
def rowShr : ElRow := ⟨0x09, .required, .required, .none, [0], 0, false, 0, false, false⟩

/-- The row of e.sar. -/
def rowSar : ElRow := ⟨0x0A, .required, .required, .none, [0], 0, false, 0, false, false⟩

/-- The row of e.min. -/
def rowMin : ElRow := ⟨0x0B, .required, .required, .none, [0, 1], 0, false, 0, false, false⟩

/-- The row of e.max. -/
def rowMax : ElRow := ⟨0x0C, .required, .required, .none, [0, 1], 0, false, 0, false, false⟩

/-- The row of e.cmp. -/
def rowCmp : ElRow := ⟨0x0D, .required, .required, .none, [0, 1, 2, 3, 4, 5], 0, false, 0, false, false⟩

/-- The row of e.sel. -/
def rowSel : ElRow := ⟨0x0E, .required, .required, .required, [0], 0, false, 0, false, false⟩

/-- The row of e.mov. -/
def rowMov : ElRow := ⟨0x0F, .required, .none, .none, [0], 0, false, 0, false, false⟩

/-- The row of e.const. -/
def rowConst : ElRow := ⟨0x10, .optQueue, .optQueue, .optQueue, [0, 1, 2], 0, true, 16, false, false⟩

/-- The row of e.cnt. -/
def rowCnt : ElRow := ⟨0x11, .queue, .none, .none, [0], 0, true, 16, true, false⟩

/-- The row of e.acc. -/
def rowAcc : ElRow := ⟨0x12, .required, .none, .optional, [0], 0, false, 0, true, false⟩

/-- The row of e.fadd. -/
def rowFadd : ElRow := ⟨0x13, .required, .required, .none, [0], 0, false, 0, false, false⟩

/-- The row of e.fsub. -/
def rowFsub : ElRow := ⟨0x14, .required, .required, .none, [0], 0, false, 0, false, false⟩

/-- The row of e.fmul. -/
def rowFmul : ElRow := ⟨0x15, .required, .required, .none, [0], 0, false, 0, false, false⟩

/-- The row of e.ffma. -/
def rowFfma : ElRow := ⟨0x16, .required, .required, .required, [0], 0, false, 0, false, false⟩

/-- The row of e.fmin. -/
def rowFmin : ElRow := ⟨0x17, .required, .required, .none, [0], 0, false, 0, false, false⟩

/-- The row of e.fmax. -/
def rowFmax : ElRow := ⟨0x18, .required, .required, .none, [0], 0, false, 0, false, false⟩

/-- The row of e.fcmp. -/
def rowFcmp : ElRow := ⟨0x19, .required, .required, .none, [0, 1, 2, 3, 4, 5], 0, false, 0, false, false⟩

/-- The row of e.facc. -/
def rowFacc : ElRow := ⟨0x1A, .required, .none, .optional, [0], 0, false, 0, true, false⟩

/-- The row of e.cvt. -/
def rowCvt : ElRow := ⟨0x1B, .required, .none, .none, [0, 1, 2, 3, 4, 5, 6, 7], 5, false, 0, false, false⟩

/-- The row of e.exp2. -/
def rowExp2 : ElRow := ⟨0x1C, .required, .none, .none, [0], 0, false, 0, false, false⟩

/-- The row of e.log2. -/
def rowLog2 : ElRow := ⟨0x1D, .required, .none, .none, [0], 0, false, 0, false, false⟩

/-- The row of e.rcp. -/
def rowRcp : ElRow := ⟨0x1E, .required, .none, .none, [0], 0, false, 0, false, false⟩

/-- The row of e.rsq. -/
def rowRsq : ElRow := ⟨0x1F, .required, .none, .none, [0], 0, false, 0, false, false⟩

/-- The row of e.ld. -/
def rowLd : ElRow := ⟨0x20, .required, .none, .optional, [0, 1, 2], 8, true, 16, false, false⟩

/-- The row of e.st. -/
def rowSt : ElRow := ⟨0x21, .required, .required, .optional, [0, 1, 2], 8, true, 16, false, false⟩

/-- The row of e.ldl. -/
def rowLdl : ElRow := ⟨0x22, .required, .none, .optional, [0, 1, 2], 8, true, 16, false, false⟩

/-- The row of e.ordf. -/
def rowOrdf : ElRow := ⟨0x23, .queue, .none, .none, [0], 0, false, 0, false, true⟩

/-- The row of e.ordj. -/
def rowOrdj : ElRow := ⟨0x24, .queue, .queue, .optQueue, [0], 0, false, 0, false, true⟩

/-- The row of e.steer. -/
def rowSteer : ElRow := ⟨0x25, .required, .none, .required, [0], 0, false, 0, false, false⟩

/-- The row of e.merge. -/
def rowMerge : ElRow := ⟨0x26, .queue, .queue, .required, [0], 0, false, 0, false, false⟩

/-- The row of e.tagchk. -/
def rowTagchk : ElRow := ⟨0x27, .required, .none, .none, [0, 1], 0, true, 5, false, false⟩

/-- The row of e.sink. -/
def rowSink : ElRow := ⟨0x28, .optional, .optional, .optional, [0], 0, false, 0, false, false⟩

/-- The rows of the 40 ops that fire, by op code (R270 to R283). -/
def elRow (code : Nat) : Option ElRow :=
  match code with
  | 0x01 => some rowAdd
  | 0x02 => some rowSub
  | 0x03 => some rowMul
  | 0x04 => some rowMulh
  | 0x05 => some rowAnd
  | 0x06 => some rowOr
  | 0x07 => some rowXor
  | 0x08 => some rowShl
  | 0x09 => some rowShr
  | 0x0A => some rowSar
  | 0x0B => some rowMin
  | 0x0C => some rowMax
  | 0x0D => some rowCmp
  | 0x0E => some rowSel
  | 0x0F => some rowMov
  | 0x10 => some rowConst
  | 0x11 => some rowCnt
  | 0x12 => some rowAcc
  | 0x13 => some rowFadd
  | 0x14 => some rowFsub
  | 0x15 => some rowFmul
  | 0x16 => some rowFfma
  | 0x17 => some rowFmin
  | 0x18 => some rowFmax
  | 0x19 => some rowFcmp
  | 0x1A => some rowFacc
  | 0x1B => some rowCvt
  | 0x1C => some rowExp2
  | 0x1D => some rowLog2
  | 0x1E => some rowRcp
  | 0x1F => some rowRsq
  | 0x20 => some rowLd
  | 0x21 => some rowSt
  | 0x22 => some rowLdl
  | 0x23 => some rowOrdf
  | 0x24 => some rowOrdj
  | 0x25 => some rowSteer
  | 0x26 => some rowMerge
  | 0x27 => some rowTagchk
  | 0x28 => some rowSink
  | _ => none

/-- Trigger ops that read a head token (R285 to R287). -/
def trReadsHead (op : Nat) (operand : BitVec 16) : Bool :=
  match op with
  | 0x01 | 0x04 | 0x05 | 0x0C | 0x0E => true
  | 0x0F => !operand.getLsbD 6
  | _ => false

/-- Operand bits that an op's row does not name are zero, and a tag it sets is not 31 (R285 to R288). -/
def trOperandOk (op : Nat) (x : BitVec 16) : Bool :=
  let n := x.toNat
  let tag := n / 8 % 32
  match op with
  | 0x01 | 0x06 | 0x10 => n == 0
  | 0x02 => decide (n < 2)
  | 0x03 => decide (n < 64) && n / 2 != 31
  | 0x04 => decide (n < 16)
  | 0x05 => decide (n < 256) && tag != 31
  | 0x07 | 0x0C => decide (n < 256) && n / 4 % 2 == 0 && tag != 31
  | 0x08 | 0x09 => decide (n < 256)
  | 0x0A => decide (n < 64) && (n / 32 == 0 || n % 32 == 0)
  | 0x0B => n / 4 % 2 == 0 && tag != 31
  | 0x0D => true
  | 0x0E => decide (n < 8) && (n / 4 == 0 || n % 4 == 0)
  | 0x0F => decide (n / 8 % 8 < 6) && (n / 64 % 2 == 1 || n / 128 == 0)
  | _ => false

/-- The queue bit of side code 0 N, 1 E, 2 S, 3 W in a mask ordered N [3], E [2], S [1], W [0] (R132). -/
def maskHas (m : BitVec 4) (side : Nat) : Bool := m.getLsbD (3 - side)

/-- The word-level checks of R132 and R285 on a valid trigger instruction. -/
def trWordOk (op : Nat) (t : TrWord) : Bool :=
  decide (1 ≤ op) && decide (op ≤ 16) &&
  (t.deq &&& ~~~t.head) == 0 &&
  (!t.tagEn || maskHas t.head t.tagQ.toNat) &&
  (!trReadsHead op t.operand || t.head != 0) &&
  trOperandOk op t.operand

end Sys2Proof.Machine
end

