-- ==== Sys2Proof/Machine/Float.lean ====
section
/-! DEFINITION. Number formats and exact arithmetic (R154 to R172): values as exact dyadic numbers, one
rounding at the end, and the flags each operation raises. -/

namespace Sys2Proof.Machine

/-! ### Formats (R155) -/

/-- A float format: exponent and mantissa widths, bias, whether it has infinities, and the bit patterns of
its largest finite value and its canonical NaN (R155). -/
structure FloatFmt where
  expBits : Nat
  manBits : Nat
  bias : Nat
  hasInf : Bool
  maxFinite : Nat
  canonNaN : Nat
  deriving DecidableEq, Repr

def fp32 : FloatFmt := ⟨8, 23, 127, true, 0x7F7FFFFF, 0x7FC00000⟩
def bf16 : FloatFmt := ⟨8, 7, 127, true, 0x7F7F, 0x7FC0⟩
def fp16 : FloatFmt := ⟨5, 10, 15, true, 0x7BFF, 0x7E00⟩
def e5m2 : FloatFmt := ⟨5, 2, 15, true, 0x7B, 0x7E⟩
def e4m3 : FloatFmt := ⟨4, 3, 7, false, 0x7E, 0x7F⟩

/-- The width of a float format in bits. -/
def FloatFmt.width (f : FloatFmt) : Nat := 1 + f.expBits + f.manBits

/-- The float format of a format code (R154). -/
def floatFmt (code : Nat) : Option FloatFmt :=
  match code with
  | 5 => some e4m3
  | 6 => some e5m2
  | 7 => some fp16
  | 8 => some bf16
  | 9 => some fp32
  | _ => none

/-- The width and signedness of an integer format code (R154). -/
def intFmt (code : Nat) : Option (Nat × Bool) :=
  match code with
  | 0 => some (8, true)
  | 1 => some (16, true)
  | 2 => some (32, true)
  | 3 => some (8, false)
  | 4 => some (16, false)
  | _ => none

/-! ### Values -/

/-- The value of a float: a NaN (signalling or quiet), an infinity, or exactly ±m·2^e (R155, R156). -/
inductive FVal where
  | nan (signalling : Bool)
  | inf (neg : Bool)
  | fin (neg : Bool) (m : Nat) (e : Int)
  deriving DecidableEq, Repr

/-- The value of a bit pattern (R155, R156). -/
def FloatFmt.value (f : FloatFmt) (x : Nat) : FVal :=
  let neg := x / 2 ^ (f.expBits + f.manBits) % 2 == 1
  let ex := x / 2 ^ f.manBits % 2 ^ f.expBits
  let man := x % 2 ^ f.manBits
  if f.hasInf && ex == 2 ^ f.expBits - 1 then
    if man = 0 then .inf neg else .nan (decide (man < 2 ^ (f.manBits - 1)))
  else if !f.hasInf && ex == 2 ^ f.expBits - 1 && man == 2 ^ f.manBits - 1 then .nan false
  else if ex = 0 then .fin neg man (1 - f.bias - f.manBits)
  else .fin neg (2 ^ f.manBits + man) ((ex : Int) - f.bias - f.manBits)

/-- The number of bits of a natural number; 0 for 0. -/
def bitLen (n : Nat) : Nat := if n = 0 then 0 else n.log2 + 1

/-- m·2^s when s is not negative, the integer part otherwise. -/
def shiftNat (m : Nat) (s : Int) : Nat :=
  if 0 ≤ s then m * 2 ^ s.toNat else m / 2 ^ (-s).toNat

/-! ### Rounding (R157) -/

/-- Drop s low bits of m in a mode; `sticky` says that the exact value lies strictly between m and m + 1.
Answers the rounded quotient and whether anything was lost. Modes: 0 RN, 1 RZ, 2 RU, 3 RD (R106). -/
def roundShift (mode : Nat) (neg : Bool) (m s : Nat) (sticky : Bool) : Nat × Bool :=
  let q := m / 2 ^ s
  let r := m % 2 ^ s
  let lost := r != 0 || sticky
  let up :=
    match mode with
    | 0 => if s = 0 then false
           else decide (2 ^ (s - 1) < r) || (r == 2 ^ (s - 1) && (sticky || q % 2 == 1))
    | 1 => false
    | 2 => lost && !neg
    | _ => lost && neg
  (if up then q + 1 else q, lost)

/-- The sign bit of a format. -/
def signBit (f : FloatFmt) (neg : Bool) : Nat := if neg then 2 ^ (f.expBits + f.manBits) else 0

/-- The infinity of a format; the NaN 0x7F for E4M3 (R157). -/
def infBits (f : FloatFmt) (neg : Bool) : Nat :=
  if f.hasInf then signBit f neg + (2 ^ f.expBits - 1) * 2 ^ f.manBits else f.canonNaN

/-- An overflowed result: saturated, or by mode (R157, R160). -/
def overflowBits (f : FloatFmt) (mode : Nat) (neg sat : Bool) : Nat :=
  let toInf := match mode with
    | 0 => true
    | 1 => false
    | 2 => !neg
    | _ => neg
  if sat || !toInf then signBit f neg + f.maxFinite else infBits f neg

/-- The lowest exponent of a normal value's leading bit. -/
def FloatFmt.emin (f : FloatFmt) : Int := 1 - (f.bias : Int)

/-- Deliver the exact value ±(m + δ)·2^e, where 0 < δ < 1 if `sticky` and δ = 0 otherwise: rounded once to the
format in a mode, with the range limits of R157 and the flags of R158. -/
def roundTo (f : FloatFmt) (mode : Nat) (sat neg : Bool) (m : Nat) (e : Int) (sticky : Bool) : Nat × FFlags :=
  if m = 0 && !sticky then (signBit f neg, .none)
  else
    let len := bitLen m
    let prec := f.manBits + 1
    -- round as though the exponent range were unbounded
    let (q, lost) := roundShift mode neg m (len - prec) sticky
    let q := if len < prec then q * 2 ^ (prec - len) else q
    let qe : Int := e + len - prec            -- weight of q's last bit
    let (q, qe) := if q = 2 ^ prec then (2 ^ (prec - 1), qe + 1) else (q, qe)
    if qe + (prec - 1 : Nat) < f.emin then
      -- subnormal: rounded once, at the subnormal precision
      let last : Int := f.emin - (f.manBits : Int)
      let (r, lost) :=
        if e < last then roundShift mode neg m (last - e).toNat sticky
        else (m * 2 ^ (e - last).toNat, sticky)
      (signBit f neg + r, { underflow := lost && decide (r < 2 ^ f.manBits), inexact := lost })
    else
      let bits := (qe + f.manBits + f.bias).toNat * 2 ^ f.manBits + (q - 2 ^ f.manBits)
      if bits ≤ f.maxFinite then (signBit f neg + bits, { inexact := lost })
      else (overflowBits f mode neg sat, { overflow := true, inexact := true })

/-- RN to FP32 of an exact dyadic value. -/
def rn32 (neg : Bool) (m : Nat) (e : Int) (sticky : Bool) : Nat × FFlags := roundTo fp32 0 false neg m e sticky

/-! ### Arithmetic on FP32 (R156, R158, R159, R166) -/

/-- Invalid if an operand is a signalling NaN (R156). -/
def sigFlag (xs : List FVal) : FFlags := { invalid := xs.any fun x => x == .nan true }

/-- Whether an operand is a NaN. -/
def isNaN (x : FVal) : Bool := match x with
  | .nan _ => true
  | _ => false

/-- The canonical NaN with the flags given (R156). -/
def nanResult (fl : FFlags) : Nat × FFlags := (fp32.canonNaN, fl)

/-- A signed integer from a sign and a magnitude. -/
def signed (neg : Bool) (m : Nat) : Int := if neg then -(m : Int) else m

/-- The exact sum of two dyadic values, with IEEE's sign of a zero sum when rounding RN. -/
def exactAdd (n1 : Bool) (m1 : Nat) (e1 : Int) (n2 : Bool) (m2 : Nat) (e2 : Int) : Bool × Nat × Int :=
  let e := min e1 e2
  let s := signed n1 (m1 * 2 ^ (e1 - e).toNat) + signed n2 (m2 * 2 ^ (e2 - e).toNat)
  if s = 0 then (n1 && n2, 0, e) else (decide (s < 0), s.natAbs, e)

/-- RN(x + y) of two FP32 values (R208). -/
def addVal (x y : FVal) : Nat × FFlags :=
  match x, y with
  | .nan _, _ | _, .nan _ => nanResult (sigFlag [x, y])
  | .inf a, .inf b => if a = b then (infBits fp32 a, .none) else nanResult { invalid := true }
  | .inf a, _ | _, .inf a => (infBits fp32 a, .none)
  | .fin n1 m1 e1, .fin n2 m2 e2 =>
    let (n, m, e) := exactAdd n1 m1 e1 n2 m2 e2
    rn32 n m e false

/-- A value with its sign inverted, NaNs unchanged. -/
def negVal (x : FVal) : FVal :=
  match x with
  | .nan s => .nan s
  | .inf n => .inf (!n)
  | .fin n m e => .fin (!n) m e

/-- Whether a value is a zero. -/
def isZero (x : FVal) : Bool := match x with
  | .fin _ m _ => m == 0
  | _ => false

/-- Whether a value is an infinity. -/
def isInf (x : FVal) : Bool := match x with
  | .inf _ => true
  | _ => false

/-- The sign of a value; false for a NaN. -/
def signOf (x : FVal) : Bool := match x with
  | .nan _ => false
  | .inf n => n
  | .fin n _ _ => n

/-- RN(x · y) (R208). -/
def mulVal (x y : FVal) : Nat × FFlags :=
  match x, y with
  | .nan _, _ | _, .nan _ => nanResult (sigFlag [x, y])
  | .fin n1 m1 e1, .fin n2 m2 e2 => rn32 (n1 != n2) (m1 * m2) (e1 + e2) false
  | _, _ =>
    if isZero x || isZero y then nanResult { invalid := true }
    else (infBits fp32 (signOf x != signOf y), .none)

/-- RN(x · y + z), one rounding; 0 × ∞ is invalid even when z is a quiet NaN (R159, R208, R272). -/
def fmaVal (x y z : FVal) : Nat × FFlags :=
  let zeroInf := (isZero x && isInf y) || (isInf x && isZero y)
  if zeroInf then nanResult { invalid := true }
  else if isNaN x || isNaN y || isNaN z then nanResult (sigFlag [x, y, z])
  else
    let ps := signOf x != signOf y
    if isInf x || isInf y then
      match z with
      | .inf a => if a = ps then (infBits fp32 ps, .none) else nanResult { invalid := true }
      | _ => (infBits fp32 ps, .none)
    else
      match x, y, z with
      | _, _, .inf a => (infBits fp32 a, .none)
      | .fin _ m1 e1, .fin _ m2 e2, .fin n3 m3 e3 =>
        let (n, m, e) := exactAdd ps (m1 * m2) (e1 + e2) n3 m3 e3
        rn32 n m e false
      | _, _, _ => nanResult {}

/-- The correctly rounded quotient (R159), with R158's flags. -/
def divVal (x y : FVal) : Nat × FFlags :=
  let s := signOf x != signOf y
  match x, y with
  | .nan _, _ | _, .nan _ => nanResult (sigFlag [x, y])
  | .inf _, .inf _ => nanResult { invalid := true }
  | .inf _, .fin _ _ _ => (infBits fp32 s, .none)
  | .fin _ _ _, .inf _ => (signBit fp32 s, .none)
  | .fin _ m1 e1, .fin _ m2 e2 =>
    if m2 = 0 then
      if m1 = 0 then nanResult { invalid := true } else (infBits fp32 s, { divByZero := true })
    else
      let k := 64 + bitLen m2
      let n := m1 * 2 ^ k
      rn32 s (n / m2) (e1 - e2 - k) (n % m2 != 0)

/-- The integer square root, bit by bit from bit b - 1 down, starting from r. -/
def isqrtFrom (n : Nat) : Nat → Nat → Nat
  | 0, r => r
  | b + 1, r => let r' := r + 2 ^ b; isqrtFrom n b (if r' * r' ≤ n then r' else r)

/-- The integer part of the square root. -/
def isqrt (n : Nat) : Nat := isqrtFrom n (n.log2 / 2 + 1) 0

/-- The correctly rounded square root; −0 and +Inf give themselves (R158, R159). -/
def sqrtVal (x : FVal) : Nat × FFlags :=
  match x with
  | .nan _ => nanResult (sigFlag [x])
  | .inf neg => if neg then nanResult { invalid := true } else (infBits fp32 false, .none)
  | .fin neg m e =>
    if m = 0 then (signBit fp32 neg, .none)
    else if neg then nanResult { invalid := true }
    else
      let k : Int := 64 + e % 2                 -- makes e - k even
      let n := m * 2 ^ k.toNat
      let r := isqrt n
      rn32 false r ((e - k) / 2) (r * r != n)

/-- x < y for values that are no NaN, with −0 less than +0 when `zeros` is set (R51, R166). -/
def ltVal (zeros : Bool) (x y : FVal) : Bool :=
  match x, y with
  | .inf a, .inf b => a && !b
  | .inf a, _ => a
  | _, .inf b => !b
  | .fin n1 m1 e1, .fin n2 m2 e2 =>
    let e := min e1 e2
    let a := signed n1 (m1 * 2 ^ (e1 - e).toNat)
    let b := signed n2 (m2 * 2 ^ (e2 - e).toNat)
    decide (a < b) || (zeros && a == 0 && b == 0 && n1 && !n2)
  | _, _ => false

/-- Equality of values that are no NaN; both zeros are equal (R155). -/
def eqVal (x y : FVal) : Bool := !ltVal false x y && !ltVal false y x

/-- The minimum or maximum in a format, by bit patterns: the canonical NaN if either is a NaN, −0 below +0
(R51, R166). -/
def minMax (f : FloatFmt) (max : Bool) (x y : Nat) : Nat × FFlags :=
  let a := f.value x
  let b := f.value y
  if isNaN a || isNaN b then (f.canonNaN, sigFlag [a, b])
  else if max then (if ltVal true a b then y else x, .none)
  else (if ltVal true b a then y else x, .none)

/-- FCMP's six conditions: EQ, NE, LT, LE, UN, ORD; invalid only for a signalling NaN (R166, R205). -/
def fcmpVal (cc : Nat) (x y : FVal) : Bool × FFlags :=
  let un := isNaN x || isNaN y
  let fl := sigFlag [x, y]
  let r := match cc with
    | 0 => !un && eqVal x y
    | 1 => un || !eqVal x y
    | 2 => !un && ltVal false x y
    | 3 => !un && !ltVal false y x
    | 4 => un
    | _ => !un
  (r, fl)

/-- The FP32 value of a word's low half (R207). -/
def v32 (x : W32) : FVal := fp32.value x.toNat

/-! ### Conversions (R160 to R162) -/

/-- A value of a float format to another float format (R160): NaN, infinity, then finite. -/
def floatToFloat (d : FloatFmt) (sat : Bool) (mode : Nat) (v : FVal) : Nat × FFlags :=
  match v with
  | .nan s => (d.canonNaN, { invalid := s })
  | .inf neg =>
    if sat then (signBit d neg + d.maxFinite, .none)
    else if d.hasInf then (infBits d neg, .none) else (d.canonNaN, { invalid := true })
  | .fin neg m e => roundTo d mode sat neg m e false

/-- The range of an integer destination (R161). -/
def intRange (width : Nat) (isSigned : Bool) : Int × Int :=
  if isSigned then (-(2 ^ (width - 1) : Int), 2 ^ (width - 1) - 1) else (0, 2 ^ width - 1)

/-- A value to an integer of a width, in a mode (R161). -/
def floatToInt (width : Nat) (isSigned : Bool) (mode : Nat) (v : FVal) : Int × FFlags :=
  let (lo, hi) := intRange width isSigned
  match v with
  | .nan _ => (0, { invalid := true })
  | .inf neg => (if neg then lo else hi, { invalid := true })
  | .fin neg m e =>
    let (q, lost) := if 0 ≤ e then (m * 2 ^ e.toNat, false) else roundShift mode neg m (-e).toNat false
    let r := signed neg q
    if r < lo then (lo, { invalid := true })
    else if hi < r then (hi, { invalid := true })
    else (r, { inexact := lost })

/-- An exact integer to a float format (R162). -/
def intToFloat (d : FloatFmt) (sat : Bool) (mode : Nat) (n : Int) : Nat × FFlags :=
  roundTo d mode sat (decide (n < 0)) n.natAbs 0 false

/-- An integer to an integer destination: the low bits, or the nearer bound with overflow (R162). The answer
is the bit pattern. -/
def intToInt (width : Nat) (isSigned sat : Bool) (n : Int) : Nat × FFlags :=
  let (lo, hi) := intRange width isSigned
  let pat (x : Int) : Nat := (x % (2 ^ width : Int)).toNat
  if lo ≤ n ∧ n ≤ hi then (pat n, .none)
  else if sat then (pat (if n < lo then lo else hi), { overflow := true })
  else (pat n, .none)

/-- The integer that a bit pattern of a width stands for. -/
def intOf (width : Nat) (isSigned : Bool) (x : Nat) : Int :=
  let x := x % 2 ^ width
  if isSigned && decide (2 ^ (width - 1) ≤ x) then (x : Int) - 2 ^ width else x

/-- The bit pattern of an integer at a width. -/
def patOf (width : Nat) (n : Int) : Nat := (n % (2 ^ width : Int)).toNat

/-- FCVT's conversion of the low bits of a source, to a bit pattern of the destination's width (R209). A
float converted to its own format is unchanged, less NaNs and their flags. -/
def convertBits (src dst : Nat) (sat : Bool) (mode : Nat) (x : Nat) : Nat × FFlags :=
  match floatFmt src, floatFmt dst, intFmt src, intFmt dst with
  | some f, some d, _, _ =>
    let x := x % 2 ^ f.width
    if src = dst then
      match f.value x with
      | .nan s => (f.canonNaN, { invalid := s })
      | _ => (x, .none)
    else floatToFloat d sat mode (f.value x)
  | some f, none, _, some (w, sg) =>
    let (n, fl) := floatToInt w sg mode (f.value (x % 2 ^ f.width))
    (patOf w n, fl)
  | none, some d, some (w, sg), _ => intToFloat d sat mode (intOf w sg x)
  | none, none, some (w, sg), some (w', sg') => intToInt w' sg' sat (intOf w sg x)
  | _, _, _, _ => (0, .none)

/-! ### NQ4 (R163, R164) -/

/-- The codebook levels in units of 1/256 (R163). -/
def nq4Level (code : Nat) : Int :=
  ([-256, -184, -136, -100, -70, -43, -20, 0, 18, 37, 57, 80, 106, 137, 179, 256] : List Int).getD code 0

/-- The scalar value of an NQ4 element: RN((l · (b + 1) / 65536) · S) (R164). -/
def nq4Value (code blockScale : Nat) (super : W32) : Nat × FFlags :=
  let l := nq4Level code * (blockScale + 1)
  mulVal (.fin (decide (l < 0)) l.natAbs (-16)) (v32 super)

/-! ### The four functions (R167 to R171) -/

/-- The finite FP32 value of a rounded result, as a dyadic (used for the inner steps, which stay in range). -/
def stepVal (r : Nat × FFlags) : FVal := fp32.value r.1

/-- An exact dyadic value. -/
def dy (neg : Bool) (m : Nat) (e : Int) : FVal := .fin neg m e

/-- T[i] = RN(2^(i/64)) (R168). -/
def exp2Table : List Nat :=
  [0x3F800000, 0x3F8164D2, 0x3F82CD87, 0x3F843A29, 0x3F85AAC3, 0x3F871F62, 0x3F88980F, 0x3F8A14D5, 0x3F8B95C2, 0x3F8D1ADF, 0x3F8EA43A, 0x3F9031DC, 0x3F91C3D3, 0x3F935A2B, 0x3F94F4F0, 0x3F96942D] ++
  [0x3F9837F0, 0x3F99E046, 0x3F9B8D3A, 0x3F9D3EDA, 0x3F9EF532, 0x3FA0B051, 0x3FA27043, 0x3FA43516, 0x3FA5FED7, 0x3FA7CD94, 0x3FA9A15B, 0x3FAB7A3A, 0x3FAD583F, 0x3FAF3B79, 0x3FB123F6, 0x3FB311C4] ++
  [0x3FB504F3, 0x3FB6FD92, 0x3FB8FBAF, 0x3FBAFF5B, 0x3FBD08A4, 0x3FBF179A, 0x3FC12C4D, 0x3FC346CD, 0x3FC5672A, 0x3FC78D75, 0x3FC9B9BE, 0x3FCBEC15, 0x3FCE248C, 0x3FD06334, 0x3FD2A81E, 0x3FD4F35B] ++
  [0x3FD744FD, 0x3FD99D16, 0x3FDBFBB8, 0x3FDE60F5, 0x3FE0CCDF, 0x3FE33F89, 0x3FE5B907, 0x3FE8396A, 0x3FEAC0C7, 0x3FED4F30, 0x3FEFE4BA, 0x3FF28177, 0x3FF5257D, 0x3FF7D0DF, 0x3FFA83B3, 0x3FFD3E0C]

/-- L[j] = RN(log2((48 + j)/64)) (R169). -/
def log2Table : List Nat :=
  [0xBED47FCC, 0xBEC544C0, 0xBEB6587B, 0xBEA7B7DE, 0xBE995FF7, 0xBE8B4E03, 0xBE7AFEC5, 0xBE5FE33D, 0xBE4544C0, 0xBE2B1EE1, 0xBE116D6E, 0xBDF058D7, 0xBDBEB025, 0xBD8DD995, 0xBD3B9CA6, 0xBCBA1F74] ++
  [0x00000000, 0x3CB73CB4, 0x3D35D69C, 0x3D8759C5, 0x3DB31FB8, 0x3DDE4212, 0x3E0462C4, 0x3E19574F, 0x3E2E00D2, 0x3E42615F, 0x3E567AF1, 0x3E6A4F72, 0x3E7DE0B6, 0x3E88983F, 0x3E92203D, 0x3E9B8926] ++
  [0x3EA4D3C2, 0x3EAE00D2, 0x3EB7110E, 0x3EC0052B, 0x3EC8DDD4, 0x3ED19BB0, 0x3EDA3F60, 0x3EE2C97D, 0x3EEB3A9F, 0x3EF39355, 0x3EFBD42B, 0x3F01FED4, 0x3F060828, 0x3F0A0650, 0x3F0DF989, 0x3F11E20F]

/-- EXP2 of an FP32 pattern (R168). -/
def exp2Bits (x : W32) : Nat × FFlags :=
  match v32 x with
  | .nan s => nanResult { invalid := s }
  | .inf neg => (if neg then 0 else infBits fp32 false, .none)
  | .fin neg m e =>
    if m = 0 then (0x3F800000, .none)
    else
    -- n := floor(x), f := x - n, exactly, in units of 2^e' with e' at most -6
    let e' : Int := min e (-6)
    let u : Int := signed neg (m * 2 ^ (e - e').toNat)
    let one : Int := 2 ^ (-e').toNat
    if 128 * one ≤ u then (infBits fp32 false, { overflow := true, inexact := true })
    else if u < -150 * one then (0, { underflow := true, inexact := true })
    else
      let n := u.fdiv one
      let f := (u - n * one).toNat
      let step := (2 ^ (-e' - 6).toNat : Nat)
      let i := f / step
      let r : FVal := dy false (f % step) e'
      let t1 := stepVal (mulVal (v32 0x3E75FDF0) r)
      let t2 := stepVal (addVal (v32 0x3F317218) t1)
      let t3 := stepVal (mulVal r t2)
      let p := stepVal (addVal (dy false 1 0) t3)
      let ti := fp32.value (exp2Table.getD i 0)
      match stepVal (mulVal ti p) with
      | .fin _ mm me =>
        let (bits, fl) := rn32 false mm (me + n) false
        let exact := f == 0 && !fl.inexact
        (bits, { fl with inexact := !exact,
                         underflow := !exact && decide (bits < 0x00800000) })
      | _ => nanResult {}

/-- x = 2^ex · y with 1 ≤ y < 2, as y's 24-bit mantissa over 2^23 (R167). -/
def normalise (m : Nat) (e : Int) : Nat × Int :=
  let len := bitLen m
  (m * 2 ^ (24 - len), e + len - 1)

/-- LOG2 of an FP32 pattern (R169). -/
def log2Bits (x : W32) : Nat × FFlags :=
  match v32 x with
  | .nan s => nanResult { invalid := s }
  | .inf neg => if neg then nanResult { invalid := true } else (infBits fp32 false, .none)
  | .fin neg m e =>
    if m = 0 then (infBits fp32 true, { divByZero := true })
    else if neg then nanResult { invalid := true }
    else
      let (y, ex) := normalise m e                     -- y / 2^23 in [1, 2)
      let pow2 := y == 2 ^ 23
      -- y / 2^24 in [0.75, 1.5) after the halving
      let (y, ex) := if 3 * 2 ^ 22 ≤ y then (y, ex + 1) else (2 * y, ex)
      let j := y / 2 ^ 18 - 48
      let z : FVal := dy false (y - (48 + j) * 2 ^ 18) (-24)
      let q := stepVal (divVal (dy false 64 0) (dy false (48 + j) 0))
      let l := fp32.value (log2Table.getD j 0)
      let u := stepVal (mulVal z q)
      let w4 := stepVal (addVal (v32 0x3EF6384F) (stepVal (mulVal u (v32 0xBEB8AA3B))))
      let w3 := stepVal (addVal (v32 0xBF38AA3B) (stepVal (mulVal u w4)))
      let w2 := stepVal (addVal (v32 0x3FB8AA3B) (stepVal (mulVal u w3)))
      let t := stepVal (mulVal u w2)
      let s := stepVal (addVal l t)
      let (bits, _) := addVal (dy (decide (ex < 0)) ex.natAbs 0) s
      (bits, { inexact := !pow2 })

/-- RCP of an FP32 pattern (R170). -/
def rcpBits (x : W32) : Nat × FFlags :=
  match v32 x with
  | .nan s => nanResult { invalid := s }
  | .inf neg => (signBit fp32 neg, .none)
  | .fin neg m e =>
    if m = 0 then (infBits fp32 neg, { divByZero := true })
    else
      let (y, ex) := normalise m e
      let j := (y - 2 ^ 23) / 2 ^ 17
      let yv : FVal := dy false y (-23)
      let vj := stepVal (divVal (dy false 128 0) (dy false (129 + 2 * j) 0))
      let d := stepVal (fmaVal (negVal yv) vj (dy false 1 0))
      let a1 := stepVal (addVal (dy false 1 0) d)
      let a2 := stepVal (fmaVal d a1 (dy false 1 0))
      let v := stepVal (mulVal d a2)
      match stepVal (fmaVal vj v vj) with
      | .fin _ mm me =>
        let (bits, fl) := rn32 neg mm (me - ex) false
        let exact := y == 2 ^ 23 && !fl.overflow
        (bits, { fl with inexact := !exact,
                         underflow := !exact && decide (bits % 2 ^ 31 < 0x00800000) })
      | _ => nanResult {}

/-- RSQ of an FP32 pattern (R171). -/
def rsqBits (x : W32) : Nat × FFlags :=
  match v32 x with
  | .nan s => nanResult { invalid := s }
  | .inf neg => if neg then nanResult { invalid := true } else (0, .none)
  | .fin neg m e =>
    if m = 0 then (infBits fp32 neg, { divByZero := true })
    else if neg then nanResult { invalid := true }
    else
      let (y, ex) := normalise m e
      let (y, ex) := if ex % 2 = 0 then (y, ex) else (2 * y, ex - 1)    -- y / 2^23 in [1, 4)
      let j := y / 2 ^ 17 - 64
      let yv : FVal := dy false y (-23)
      -- W[j] = RN(1 / sqrt((129 + 2j) / 128)): the root of 128 / (129 + 2j)
      let n := 128 * 2 ^ 160 / (129 + 2 * j)
      let root := isqrt n
      let wj := fp32.value (rn32 false root (-80) true).1
      let g := stepVal (mulVal yv wj)
      let d := stepVal (fmaVal (negVal g) wj (dy false 1 0))
      let h := stepVal (addVal (v32 0x3EC00000) (stepVal (mulVal (v32 0x3EA00000) d)))
      let q := stepVal (fmaVal d h (v32 0x3F000000))
      let v := stepVal (mulVal d q)
      match stepVal (fmaVal wj v wj) with
      | .fin _ mm me =>
        let (bits, _) := rn32 false mm (me - ex / 2) false
        let exact := y == 2 ^ 23 && mm * 2 ^ 24 == 2 ^ ((-me).toNat + 24)
        (bits, { inexact := !exact })
      | _ => nanResult {}

end Sys2Proof.Machine
end

