-- ==== Sys2Proof/Config.lean ====
section
/-! DEFINITION. What the spec leaves open, as constants without a body: nothing in Lean can evaluate them, so
whatever is proved holds for every value. Each is named in the assumption log. -/

namespace Sys2Proof.Config

/-- A free 64-bit value, by the model's counter of free values. -/
opaque freeWord : Nat → Word

/-- Whether an SLH-DSA-SHA2-192s signature over the first bytes verifies under the key fused in the part (R334). -/
opaque slhDsaVerifies : List Byte → Bool

/-- The signature of the part's identity key over a message (R335). -/
opaque slhDsaSign : List Byte → List Byte

/-- The bytes of an SPDM response whose contents the spec leaves to SPDM 1.3, by request and negotiated state (R335). -/
opaque spdmAnswer : Nat → List Nat → List Byte

/-- The digest of what a measurement index names (R335); the ROM, monitor and fuse bytes are not in the spec. -/
opaque measurement : Nat → List Byte → List Byte

/-- A placement of an Unkar graph in a region (R332): the element of each node and the pass elements of each edge in
order, as row·64 + column, the cycle table, which a graph does not hold, and the element of the native image that each node
stands for: the assembler numbers the nodes, and the spec does not say how (R333). -/
structure UnkarMap where
  nodes : List Nat
  home : List Nat
  chains : List (List Nat)
  gates : List Word
  deriving DecidableEq, Repr

/-- The placement that the loader finds for an Unkar graph in a region, by graph and mask of quadrants, none where it finds
none: the spec gives no method (R332). -/
opaque unkarMap : List Word → Nat → Option UnkarMap

/-- The element a peer part contributes to run k of a plan: PBR ID, plan key, run, element index (R250, R252). -/
opaque peerElement : Nat → Nat → Nat → Nat → W32

/-- How many tree cycles a knead takes, and the writing of its result, by the counter of free values; R189 bounds both. -/
opaque kneadTime : Nat → Nat

/-- How many core cycles a transfer of the pager takes, by the counter of free values (R78, R79). -/
opaque pagerTime : Nat → Nat

/-- The bin that the margin planner keeps or chooses where no input names one (R336). -/
opaque planBin : Nat → Nat

/-- How a port trains at bring-up, by port and the counter of free values: whether its width is x16 and its speed 64 GT/s,
none where it stays down (R22, R337). -/
opaque portTraining : Nat → Nat → Option (Bool × Bool)

/-- When and how the monitor ends the call of a context, by core cycle and context; none while it still works (R229). -/
opaque monitorAnswer : Nat → Nat → Option MonitorAns

/-- Whether the peers of a plan have come as far as this part waits for, by core cycle, plan and run: joined for run 0, fired the
run for any other (R251, R252). -/
opaque peersReady : Nat → Nat → Nat → Bool

/-- Whether the descriptor of a listed part is found to differ from this part's, by core cycle and plan (R251). -/
opaque peersDiffer : Nat → Nat → Bool

/-- Which line of a full cache set, or entry of a full walker cache, gives way: by the clock and what comes in (R32, R40). -/
opaque evictWay : Nat → Nat → Nat

/-- Which way of a full TLB or STT set an entry replaces, by the counter of free values (R32, R76). -/
opaque replaceWay : Nat → Nat

/-- A byte of the island state of a quadrant's section in a save image, of what the section records and its place in the
64 bytes (R315; log 34). -/
opaque islandByte : List Nat → Nat → Byte

end Sys2Proof.Config
end

