-- ==== Sys2Proof/Machine/Tab.lean ====
section
/-! DEFINITION. Sparse tables: sorted lists of keys and values, and the byte memory in its canonical form. -/

namespace Sys2Proof.Machine

/-- A sparse table: keys strictly rising. -/
abbrev Tab (α : Type) := List (Nat × α)

/-- The entry at a key. -/
def tget? {α : Type} (t : Tab α) (k : Nat) : Option α :=
  match t with
  | [] => none
  | (k', v) :: r => if k' = k then some v else tget? r k

/-- The entry at a key, or what an unlisted key stands for. -/
def tgetD {α : Type} (t : Tab α) (k : Nat) (d : α) : α := (tget? t k).getD d

/-- Write the entry at a key, keeping the keys sorted. -/
def tset {α : Type} (t : Tab α) (k : Nat) (v : α) : Tab α :=
  match t with
  | [] => [(k, v)]
  | (k', v') :: r =>
    if k < k' then (k, v) :: (k', v') :: r
    else if k = k' then (k, v) :: r
    else (k', v') :: tset r k v

/-- Remove the entry at a key. -/
def tdel {α : Type} (t : Tab α) (k : Nat) : Tab α := t.filter fun e => e.1 != k

/-- Change the entry at a key. -/
def tupd {α : Type} (t : Tab α) (k : Nat) (d : α) (f : α → α) : Tab α := tset t k (f (tgetD t k d))

/-- Memory: bytes by address (Host.Cell's shape). -/
abbrev Memory := List (Nat × Byte)

/-- What an unlisted address reads as (DESIGN CHOICE, log 3): the spec gives memory no contents at power-on.
Scratchpad bytes and tile padding that nothing has written do read as zero (R71, R77). -/
def unlistedByte : Byte := 0

/-- Keys strictly rise from a lower bound on, and no entry equals what an unlisted address reads as. -/
def Memory.wfFrom (lo : Nat) (m : Memory) : Bool :=
  match m with
  | [] => true
  | (k, v) :: r => decide (lo ≤ k) && v != unlistedByte && Memory.wfFrom (k + 1) r

/-- The canonical form of memory. -/
def Memory.wf (m : Memory) : Bool := Memory.wfFrom 0 m

/-- One byte of memory. -/
def mget (m : Memory) (a : Nat) : Byte := tgetD m a unlistedByte

/-- Write one byte, keeping the canonical form. -/
def mset (m : Memory) (a : Nat) (b : Byte) : Memory :=
  match m with
  | [] => if b = unlistedByte then [] else [(a, b)]
  | (k, v) :: r =>
    if a < k then (if b = unlistedByte then (k, v) :: r else (a, b) :: (k, v) :: r)
    else if a = k then (if b = unlistedByte then r else (a, b) :: r)
    else (k, v) :: mset r a b

/-- The bytes at n addresses from a on. -/
def mgetN (m : Memory) (a : Nat) : Nat → List Byte
  | 0 => []
  | n + 1 => mget m a :: mgetN m (a + 1) n

/-- Write a list of bytes from a on. -/
def msetN (m : Memory) (a : Nat) (bs : List Byte) : Memory :=
  match bs with
  | [] => m
  | b :: r => msetN (mset m a b) (a + 1) r

/-- A little-endian number from its bytes (R71, R93). -/
def ofBytes (bs : List Byte) : Nat :=
  match bs with
  | [] => 0
  | b :: r => b.toNat + 256 * ofBytes r

/-- The n low bytes of a number, little-endian. -/
def toBytes (x : Nat) : Nat → List Byte
  | 0 => []
  | n + 1 => BitVec.ofNat 8 (x % 256) :: toBytes (x / 256) n

/-- A little-endian number in memory. -/
def mread (m : Memory) (a n : Nat) : Nat := ofBytes (mgetN m a n)

/-- Write the n low bytes of a number. -/
def mwrite (m : Memory) (a n x : Nat) : Memory := msetN m a (toBytes x n)

/-- Insert an element before the first that it comes before. -/
def insertBy {α : Type} (before : α → α → Bool) (x : α) (l : List α) : List α :=
  match l with
  | [] => [x]
  | y :: r => if before y x then y :: insertBy before x r else x :: y :: r

/-- Sort a list. -/
def sortBy {α : Type} (before : α → α → Bool) (l : List α) : List α := l.foldr (insertBy before) []

/-- Replace the element at an index of a list; nothing beyond its end. -/
def lset {α : Type} (l : List α) (i : Nat) (x : α) : List α := l.set i x

end Sys2Proof.Machine
end

