-- ==== Sys2Proof/Machine/State.lean ====
section
/-! DEFINITION. The state of the part as plain data: everything the spec gives the machine, and the model's own
fields (each marked MODEL). Tables are sparse: an entry not listed stands for the blank record named beside it. -/

namespace Sys2Proof.Machine

/-- Why exec stops. step raises none of these: it focuses only agents that exist. -/
inductive Fault where
  /-- Raised by an instruction of the CP when the focus names no context, as where an agenda lists one as an event. Safe:
  no such step exists on the part. -/
  | noContext
  /-- Raised by an element or trigger op when the focus names no element, as where an agenda lists one as an event. Safe:
  no such step exists on the part. -/
  | noElement
  deriving DecidableEq, Repr

/-- Why exec has no meaning for an instruction. -/
inductive Refusal where
  /-- Raised by the dispatch for an instruction that has no meaning yet, by its mnemonic. Safe. -/
  | notModelled (mnemonic : String)
  deriving DecidableEq, Repr

/-! ### Directions and tokens -/

/-- The four sides, in the order of R120: N, E, S, W. -/
inductive Dir where
  | n | e | s | w
  deriving DecidableEq, Repr

/-- A token (R113). -/
structure Tok where
  data : W32
  tag : BitVec 5
  /-- The core cycle from which it can be a head token (R116). -/
  arr : Nat := 0
  /-- The engine of the quadrant, 0 to 3, whose slot it takes up in its consumer's buffer (R66). -/
  eng : Option Nat := none
  deriving DecidableEq, Repr

/-- A FIFO of 4 tokens: an input queue of an element or an exit queue (R64, R113). -/
structure Queue where
  toks : List Tok := []
  /-- One more than the core cycle of the last dequeue, 0 for none: a freed slot is free only from the next
  core cycle (R116). -/
  popAt : Nat := 0
  deriving DecidableEq, Repr

/-- An entry port, or an island's decoder port, as its crossbar sees it (R60, R124). -/
structure InPort where
  /-- The token that an entry port holds at its head until GKILL: its tag has no valid channel-table entry (R124). The engine that
  sent it counts it among its held words, as it keeps its slot. -/
  head : Option Tok := none
  /-- One more than the core cycle in which the port last carried a word, 0 for none, and the words carried in it (R60). -/
  at_ : Nat := 0
  n : Nat := 0
  deriving DecidableEq, Repr

/-! ### Contexts (R92 to R99) -/

/-- What a context is doing (R184, R313). -/
inductive CtxStatus where
  | free | placed | running | committed | halted
  deriving DecidableEq, Repr

/-- A handle register (R94). The tile's state is read live from the tile. -/
structure Handle where
  bound : Bool := false
  atom : Word := 0
  /-- Whether TVIEW made it: the handle is a view (R238, R240). -/
  view : Bool := false
  vrow : BitVec 7 := 0
  vcol : BitVec 7 := 0
  pcols : BitVec 7 := 0
  deriving DecidableEq, Repr

/-- A symbol of a result log, with what R184 must know of a TILE atom's origin. -/
structure LogSym where
  word : Word
  trusted : Bool
  deriving DecidableEq, Repr

/-- A line of a store log (R219): the target line, the DPA line it was made under, the masked bytes. -/
structure LogLine where
  line : Nat
  dpaLine : Nat
  /-- The DVA lines under which its stores were made, for the invalidations of R34: aliases share the line. -/
  dvaLines : List Nat
  bytes : Tab Byte
  /-- Whether its page is device-ordered, and whether it is normal (R27). -/
  ordered : Bool
  cached : Bool
  deriving DecidableEq, Repr

/-- Why an access or an instruction waits: for a page, by the tile address of the byte accessed, 0 where it is for several pages or
for frames (R80); for a store-log line, by the line (R220); a GSEED at a port, by its key (R261); for the end of a hold of its
application, without issuing (R190); an SMCAST for its push engine, with the push record it has read, the base and the index base of
it, and its subscriptions, each with the core cycle in which it was loaded (R258). -/
inductive WaitWhy where
  | page (at_ : Nat)
  | storeLog (line : Nat)
  | other
  | seed (port : Nat)
  | held
  | mcast (record : List Word) (base idxBase : Word) (subs : List (Nat × Nat))
  deriving DecidableEq, Repr

/-- Whether a wait counts toward the fault limit (R81, R220). -/
def WaitWhy.counts (w : WaitWhy) : Bool := match w with | .page _ => true | .storeLog _ => true | _ => false

/-- Whether a wait is one for a store-log line (R220). -/
def WaitWhy.isLog (w : WaitWhy) : Bool := match w with | .storeLog _ => true | _ => false

/-- What an SMCAST that waits has fixed: record, base, index base, subscriptions (R258). -/
def WaitWhy.mcast? (w : WaitWhy) : Option (List Word × Word × Word × List (Nat × Nat)) :=
  match w with | .mcast r b i l => some (r, b, i, l) | _ => none

/-- A wait at an instruction boundary and the core cycle in which it began (R198, R235). -/
structure Wait where
  why : WaitWhy
  since : Nat
  deriving DecidableEq, Repr

/-- A reduction context. An unlisted context is free and holds zeros (log 2). -/
structure Ctx where
  status : CtxStatus := .free
  /-- The gang's key (partition and gang.id) and this member's rank. -/
  gang : Nat := 0
  rank : Nat := 0
  pc : Word := 0
  g : Vector Word 32 := Vector.replicate 32 0
  p : BitVec 8 := 0
  h : Vector Handle 16 := Vector.replicate 16 {}
  trapCause : Word := 0
  trapPc : Word := 0
  trapAddr : Word := 0
  trapVec : Word := 0
  fxFlags : BitVec 5 := 0
  fxMode : BitVec 2 := 0
  handler : Bool := false
  event : Bool := false
  log : List LogSym := []
  slog : List LogLine := []
  preReq : Bool := false
  /-- The physical quadrants of the region it holds, in the order nw, ne, sw, se (R52, R114). -/
  quads : List Nat := []
  /-- The image that the last GLOAD of its region loaded, by key (R315, R361). -/
  lastLoad : Option Nat := none
  /-- YIELD n: not chosen before this core cycle; YIELD 0: passed over once (R233). -/
  yieldUntil : Nat := 0
  yieldTurn : Bool := false
  wait : Option Wait := none
  /-- The service number of a SYSC that the monitor handles (R229). -/
  sysc : Option (BitVec 11) := none
  /-- Whether it has issued an instruction since it was placed (R313). -/
  issued : Bool := false
  deriving DecidableEq, Repr

/-! ### Gangs -/

/-- A gang collective that a member has issued (R247). -/
structure Coll where
  /-- 0 TRBC, 1 TRBC.h, 2 TRRED, 3 TRGATH, 4 TRBAR. -/
  kind : Nat
  op : Nat := 0
  fmt : Nat := 0
  value : Word := 0
  root : Word := 0
  hsrc : Option Handle := none
  /-- The destination register. -/
  dst : Nat := 0
  deriving DecidableEq, Repr

/-- A CSEND that waits (R249). -/
structure Csend where
  rank : Nat
  partner : Nat
  sends : Bool
  tile : Nat
  /-- The copy runs. -/
  copying : Bool := false
  /-- The pages that the sender's copy has brought over, and the tile address whose page the copy waits for at this member (R77,
  R81, R249). -/
  pages : Nat := 0
  at_ : Option Nat := none
  deriving DecidableEq, Repr

/-- Where a configuration image came from (R361). -/
inductive ImgSrc where
  | pantry
  | device (dva : Word)
  deriving DecidableEq, Repr

/-- A resolved window (R128). -/
structure Win where
  valid : Bool := false
  isDva : Bool := false
  /-- DVA window: the resolved base. TILE window: the byte offset within the tile. -/
  base : Word := 0
  extent : Nat := 0
  /-- TILE window: the handle bound. -/
  handle : Handle := {}
  deriving DecidableEq, Repr

/-- The count of a gate on one cycle (R129, R135): its element (region-relative), the queue on which the cycle
comes in and the side on which it goes out, its bound. -/
structure Gate where
  row : Nat
  col : Nat
  inSide : Dir
  outSide : Dir
  bound : Nat
  count : Int := 0
  deriving DecidableEq, Repr

/-- A rectangle, region-relative (R130). -/
structure Rect where
  row0 : Nat
  col0 : Nat
  rows : Nat
  cols : Nat
  deriving DecidableEq, Repr

/-- A pattern record (R130). -/
structure PatRec where
  trig : Bool
  rects : List Rect
  words : List Word
  deriving DecidableEq, Repr

/-- A configuration image (R125 to R130), parsed. -/
structure ImgData where
  row0 : Nat := 0
  col0 : Nat := 0
  rows : Nat := 32
  cols : Nat := 32
  ii : Nat := 1
  c : Nat := 1
  ccid : Nat := 0
  chan : List (BitVec 16) := []
  wins : List (Word × Word) := []
  gates : List Word := []
  recs : List PatRec := []
  deriving DecidableEq, Repr

/-- A loaded image: one region's loaded state (R115, R117, R126 to R141). Keyed by core and lowest quadrant. -/
structure Image where
  quads : List Nat
  ctx : Nat
  img : ImgData
  src : ImgSrc
  patches : List (Nat × ImgSrc) := []
  wins : List Win := []
  gates : List Gate := []
  flags : BitVec 5 := 0
  /-- Whether the latest proof wave has completed, and when it started (R141). -/
  proved : Bool := false
  waveFrom : Nat := 0
  /-- The core cycle at which the word counter stood at 0 (R115). -/
  counterBase : Int := 0
  portsOpen : Bool := true
  /-- The ports as they were before a checkpoint closed them (R314, R315), and whether the next proof wave leaves them
  as they are: that of a resume (R316; log 44). -/
  wasOpen : Bool := true
  keepPorts : Bool := false
  killed : Bool := false
  /-- The region is active: from a proof wave until a GLOAD, GKILL or release (R140). -/
  active : Bool := false
  /-- Configuration errors met in this image (R317). -/
  errors : Nat := 0
  deriving DecidableEq, Repr

/-! ### Fabric elements and islands -/

/-- A memory access whose firing has happened and that is not performed yet (R278, R279). -/
structure MemPend where
  word : ElWord
  /-- 0 ld, 1 st, 2 ldl. -/
  op : Nat
  off : Int
  /-- A's value, and the value to store. -/
  aval : W32
  value : W32
  /-- The tokens that wait with it: each side, the data or none for the result, and the tag. -/
  outs : List (Dir × Option W32 × BitVec 5)
  since : Nat
  /-- Page and store-log waits count toward the fault limit; a wait for a tile's state does not (R279). -/
  why : WaitWhy
  dva : Bool
  /-- Its result is still to be written to the local register, and to the previous-result register (R122, R267). -/
  setL : Bool
  setP : Bool
  deriving DecidableEq, Repr

/-- A fabric element (R113). An unlisted element holds e.nop in every word. -/
structure Elem where
  trig : Bool := false
  words : List Word := []
  qN : Queue := {}
  qE : Queue := {}
  qS : Queue := {}
  qW : Queue := {}
  lreg : W32 := 0
  prev : W32 := 0
  stallOp : W32 := 0
  stallSp : W32 := 0
  preds : BitVec 8 := 0
  halted : Bool := false
  /-- MODEL: one more than the core cycle in which it last acted. -/
  acted : Nat := 0
  /-- The accesses of the memory ops that have fired and are not performed yet, in the order of their firings (R278). -/
  mem : List MemPend := []
  deriving DecidableEq, Repr

/-- The class and scales of a bank's last task (R148, R152). -/
structure Latch where
  cls : Nat := 0
  sA : W32 := 0
  sB : W32 := 0
  deriving DecidableEq, Repr

/-- An entry of an island's issue queue (R148). -/
inductive IslOp where
  | task (header : W32) (tag : BitVec 5)
  | clear (bank : Bool)
  | drain (bank : Bool) (tag : BitVec 5)
  | read (bank : Bool) (i j : Nat) (row col : Nat) (side : Dir) (tag : BitVec 5)
  deriving DecidableEq, Repr

/-- A word in the B decoder: operand data or a scale token (R151). -/
inductive BWord where
  | data (t : Tok)
  | scale (reg : Nat) (v : W32)
  deriving DecidableEq, Repr

/-- The running task of an island (R149). -/
structure Run where
  header : W32
  k : Nat := 0
  started : Bool := false
  /-- The channels of A's and B's words. -/
  tagA : BitVec 5 := 0
  tagB : BitVec 5 := 0
  /-- The words of the k-step in the making, each with its channel. -/
  stepA : List (W32 × BitVec 5) := []
  stepB : List (W32 × BitVec 5) := []
  /-- NQ4: the partial sums P of the current block, by i·128 + j. -/
  part : Tab W32 := []
  deriving DecidableEq, Repr

/-- A matrix island (R144 to R153). -/
structure Island where
  queue : List IslOp := []
  bufA : List Tok := []
  bufB : List BWord := []
  scaleHeld : Bool := false
  /-- k-steps of the current A packet still to begin, and data words of the k-step that has begun still to come; both 0: the
  next word is a header (R146). -/
  aLeft : Nat := 0
  aStep : Nat := 0
  /-- NQ4 weight tiles: the one loading or complete first (R146). -/
  weights : List (List Tok) := []
  bank0 : Tab W32 := []
  bank1 : Tab W32 := []
  lat0 : Option Latch := none
  lat1 : Option Latch := none
  run : Option Run := none
  /-- Elements sent of the drain under way, per trigger element, and its bank; none: no drain has begun. -/
  drainPos : List Nat := []
  drainBank : Bool := false
  /-- The bank of the last task that latched (R315). -/
  lastBank : Bool := false
  deriving DecidableEq, Repr

/-! ### Stream and push engines -/

inductive EngSt where
  | idle | loaded | running | faulted
  deriving DecidableEq, Repr

/-- Where a stream record came from (R315). -/
inductive RecSrc where
  | pantry (entry : Nat)
  | device (dpa : Nat)
  | tile (page : Nat) (off : Nat)
  deriving DecidableEq, Repr

/-- A run of pages in an engine's address generator (R32): the first 4 KiB page of the DVA, the pages, the DPA, the memory
type, and whether the engine may write there. -/
structure PRun where
  page : Nat
  count : Nat
  dpa : Nat
  mtype : Nat
  write : Bool
  deriving DecidableEq, Repr

/-- A stream engine (R52 to R69). -/
structure Engine where
  st : EngSt := .idle
  ctx : Nat := 0
  /-- The core cycle in which its program was loaded, by which an SMCAST that waits knows its subscriptions again (R258). -/
  loadedAt : Nat := 0
  record : List Word := []
  src : RecSrc := .pantry 0
  srcBase : Word := 0
  dstBase : Word := 0
  idxBase : Word := 0
  ext : List Nat := [1, 1, 1, 1]
  str : List Int := [0, 0, 0, 0]
  count : Nat := 0
  /-- The extents are known: not those of a handle still to be read (R57). -/
  extOk : Bool := true
  slot0 : Option Handle := none
  slot1 : Option Handle := none
  /-- The handle registers that the slots were bound from (R315). -/
  reg0 : Nat := 0
  reg1 : Nat := 0
  hostOk : Bool := false
  /-- Up to 16 patched runs (R32). -/
  runs : List PRun := []
  n : Nat := 0
  /-- Words read toward memory and not yet written, each with its element offset in bytes: the bursts in the making
  (R61). -/
  gather : List (Int × Nat) := []
  /-- Words read and not yet accepted by a port or island: they stand in held slots (R66). -/
  held : List Tok := []
  /-- Linked mode: the address of the current node, and whether a zero link ended the list (R58). -/
  node : Word := 0
  ended : Bool := false
  /-- The receive buffer behind an exit port (R64), or a subscription's buffer (R47). -/
  rbuf : List Word := []
  /-- Words of other exit ports or tags that stand in the receive buffer, as the programs that took them left them: port, tag,
  words (R64). -/
  left : List (BitVec 10 × BitVec 5 × List Word) := []
  /-- Subscription: words popped of the current unit, and space tokens still to go up the tree (R48). -/
  popped : Nat := 0
  tokens : Nat := 0
  /-- Subscription of a resumed push: words still to come that it had before the checkpoint (R49). -/
  skip : Nat := 0
  /-- A recorded stream fault: trap code, kind, address (R68). -/
  fault : Option (Nat × Nat × Word) := none
  /-- When it began to wait for a page, a store-log line or a translation (R68, R81, R36). -/
  wait : Option Wait := none
  /-- The endpoint and the host page whose translation it waits for, and whether for write access (R36). -/
  hostWait : Option (Nat × Nat × Bool) := none
  deriving DecidableEq, Repr

/-- A push engine (R46 to R49). An unlisted push engine serves no push. -/
structure Push where
  gang : Nat
  ctx : Nat
  record : List Word
  base : Word
  idxBase : Word := 0
  /-- Linked mode: the current node, and whether the list has ended (R58). -/
  node : Word := 0
  ended : Bool := false
  /-- Words sent, the words of a unit, the declared count. -/
  n : Nat
  unit : Nat
  count : Nat
  permits : Nat
  /-- The subscriptions (engine keys) whose programs still run, and the space tokens of each at the joins (R48). -/
  subs : List (Nat × Nat)
  deriving DecidableEq, Repr

/-! ### Tile space -/

/-- The authoritative location of a page (R73). -/
inductive Loc where
  | none
  | scratch (core frame : Nat)
  | spill (slice frame : Nat)
  | backing
  | moving
  deriving DecidableEq, Repr

/-- A directory entry with the page's data, which the model holds once (R73, R74; log 11). -/
structure DirEnt where
  sealed : Bool := false
  head : Bool := false
  pinned : Bool := false
  loc : Loc := .none
  wcore : Nat := 0
  wctx : Nat := 0
  /-- The rank of the writer context in its gang, which names the core that now runs it (R77). -/
  wrank : Nat := 0
  pages : Nat := 0
  refs : Nat := 0
  backSlot : Option Nat := none
  backed : Bool := false
  copies : BitVec 64 := 0
  owner : Nat := 0
  /-- An uncorrectable error took the data: TILE_FAULT kind 7 (R91, R317). -/
  lost : Bool := false
  data : Memory := []
  deriving DecidableEq, Repr

inductive TileSt where
  | empty | filling | ready | draining
  deriving DecidableEq, Repr

/-- A tile (R86): the state belongs to the tile. Keyed by its first page. -/
structure Tile where
  fmt : Nat
  rows : Nat
  cols : Nat
  st : TileSt
  declared : Nat := 0
  received : Nat := 0
  deriving DecidableEq, Repr

/-- An STT entry (R76), keyed by core and page. -/
structure SttEnt where
  sealed : Bool
  openHere : Bool
  remote : Bool
  core : Nat
  frame : Nat
  referenced : Bool := true
  pinned : Bool := false
  filling : Bool := false
  deriving DecidableEq, Repr

/-- What a scratchpad frame holds (R83, R85, R305). -/
inductive Frame where
  | page (key : Nat) (pins : List Nat)
  | reserved (ctx : Nat)
  deriving DecidableEq, Repr

/-- What a spill frame holds (R75, R84), with the order in which it was spilled. -/
inductive Spill where
  | page (key order : Nat)
  | directory
  deriving DecidableEq, Repr

/-- A transfer of the pager in flight: the page, its source, the core it goes to (R77 to R80). -/
structure Xfer where
  page : Nat
  from_ : Loc
  core : Nat
  open_ : Bool
  /-- The core cycle in which it ends: the spec gives typical times only, so a free value (R78, R79; log 6). -/
  due : Nat
  /-- The cores with a unit whose miss waits for it: their STTs are filled when it ends (R77). -/
  needs : List Nat
  deriving DecidableEq, Repr

/-! ### Launches, the row, applications -/

/-- A cell of the leaf row that holds a symbol (R173). An unlisted present cell is free. -/
structure Cell where
  word : Word
  slot : Nat
  deriving DecidableEq, Repr

/-- An endpoint of a launch record (R303). -/
structure Endp where
  present : Bool := false
  addr : Word := 0
  out : Bool := false
  extent : Nat := 0
  deriving DecidableEq, Repr

/-- An operator of a pantry (R360). -/
structure Oper where
  gang : Nat := 1
  /-- 0 none, 1 quad, 2 half.n, 3 half.w, 4 full. -/
  grid : Nat := 0
  effects : Bool := false
  entry : Word := 0
  trapVec : Word := 0
  code : List W32 := []
  deriving DecidableEq, Repr

/-- A grid image of a pantry: the native doublewords and the base of a patch (R360). -/
structure GridEnt where
  base : Nat := 0
  words : List Word := []
  deriving DecidableEq, Repr

/-- A tile of a pantry (R360). -/
structure TileEnt where
  fmt : Nat
  rows : Nat
  cols : Nat
  data : List Byte
  deriving DecidableEq, Repr

/-- A pantry image, parsed (R360). -/
structure Pantry where
  ops : Tab Oper := []
  streams : Tab (List Word) := []
  grids : Tab GridEnt := []
  unkar : Tab (List Word) := []
  tiles : Tab TileEnt := []
  expr : List Word := []
  deriving DecidableEq, Repr

/-- A launch slot (R303, R324). -/
structure Launch where
  /-- 0 free, 1 loading, 2 running, 3 pre-empted, 4 done, 5 stopped (R324). -/
  state : Nat := 0
  fault : Nat := 0
  detail : Nat := 0
  /-- A pre-empt named it while it was loading (R312). -/
  preWanted : Bool := false
  record : Word := 0
  limit : Nat := 0
  gap : Nat := 0
  cls : Nat := 0
  faultLimit : Nat := 20
  root : Option Nat := none
  backing : Nat := 0
  backSlots : Nat := 0
  pasid : Nat := 0
  ends : List Endp := []
  pantry : Pantry := {}
  /-- The next page number to allocate; page 0 is never allocated (R70). -/
  nextPage : Nat := 1
  /-- Backing slots in use (R84). -/
  backUsed : List Nat := []
  /-- The first discovery pass has checked its form (R178). -/
  checked : Bool := false
  /-- It has ended, and so many bytes of its result have been written: the next ones wait for a translation of endpoint 0 (R36,
  R195). -/
  ending : Option Nat := none
  deriving DecidableEq, Repr

/-- Where a marked application stands (R182, R307). -/
inductive RaSt where
  /-- marked, with no entry in a queue (the queue was full) -/
  | marked
  /-- in the RA queue of a core -/
  | queued (core : Nat)
  | placed (gang : Nat)
  /-- its commit is accepted: the result and whether it comes from the tree or XFAIL -/
  | accepted
  /-- its growing commit waits under R192 -/
  | waiting
  deriving DecidableEq, Repr

/-- A reducible application that is marked and not committed (R179, R180). -/
structure RA where
  part : Nat
  slot : Nat
  /-- The leaf index of its `(` cell. -/
  cell : Nat
  agePass : Nat
  ageCell : Nat
  st : RaSt
  /-- Tick at which it was queued or requeued, and whether it may be stolen at once (R308). -/
  since : Nat := 0
  fast : Bool := false
  /-- Consecutive abandonments under R81, R220 and R311. -/
  strikes : Nat := 0
  eccStrikes : Nat := 0
  /-- The accepted result (R184). -/
  result : List Word := []
  /-- The gang whose commit is accepted or waiting, 0 for a tree-side reduction (R181). -/
  gang : Nat := 0
  /-- The gang that last ran it: a restarted gang's gang.id is new (R96). -/
  lastGang : Nat := 0
  /-- A reduction without publication of the store logs: XFAIL, an unhandled trap, R181 (R246, R310). -/
  failed : Bool := false
  /-- The rank whose code a failed reduction carries, and the tree cycle in which it reached the tree (R246, R310). -/
  failRank : Nat := 0
  failAt : Nat := 0
  /-- Held by a knead until this tree cycle begins (R190). -/
  heldUntil : Nat := 0
  /-- The tree cycle in which it was accepted: it enters no step of that cycle (R185, R190). -/
  accAt : Nat := 0
  /-- The checkpointed gang to be resumed, if any (R314, R316). -/
  saved : Option Nat := none
  deriving DecidableEq, Repr

/-- How an abandoned gang's application goes on: it is requeued, or it reduces to ⊥ with a code (R81, R246). -/
inductive Ending where
  | requeue
  | reduce (code : Nat)
  deriving DecidableEq, Repr

/-- A gang: the placed members of one application's operator (R305). Keyed by partition and gang.id. -/
structure Gang where
  part : Nat
  slot : Nat
  op : Nat
  ra : Nat
  effects : Bool
  /-- Context keys in rank order. -/
  members : List Nat
  colls : List (Option Coll) := []
  ncoll : List Nat := []
  csends : List Csend := []
  commits : List Bool := []
  /-- Whether its members have started (R99, R306). -/
  started : Bool := false
  /-- The core cycle in which it was halted to be checkpointed (R314). -/
  closing : Option Nat := none
  /-- It is abandoned, and ends so once the stores that have fired are performed (R279). -/
  ending : Option Ending := none
  deriving DecidableEq, Repr

/-- A checkpointed member (R314, R315): what its save image holds. -/
structure Saved where
  ctx : Ctx
  images : List (Nat × Image)
  elems : List (Nat × Elem)
  engines : List (Nat × Engine)
  islands : List (Nat × Island)
  /-- Barrier number, expected, arrivals, phase. -/
  bars : List (Nat × BitVec 6 × BitVec 6 × Bool)
  /-- The handle registers through which it held a pin. -/
  pins : List Nat
  /-- First page and page count of the save image. -/
  page : Nat
  npages : Nat
  deriving DecidableEq, Repr

/-- A checkpointed gang. -/
structure SavedGang where
  gang : Gang
  members : List Saved
  pushes : List (Nat × Push)
  deriving DecidableEq, Repr

/-- A named barrier (R225). An unlisted barrier is free. -/
structure Barrier where
  gang : Option Nat := none
  expected : BitVec 6 := 0
  arrivals : BitVec 6 := 0
  phase : Bool := false
  deriving DecidableEq, Repr

/-- A collective plan (R250 to R252). Keyed by partition and plan number. -/
structure Plan where
  gang : Nat
  /-- The launch of its gang, which its runs go through even when the gang has been retired (R246). -/
  launch : Nat
  /-- The rank of the member that issued CPLAN. -/
  rank : Nat
  key : Nat
  kind : Nat
  op : Nat
  fmt : Nat
  n : Nat
  parts : List Nat
  pos : Nat
  root : Nat
  src : Word
  dst : Word
  die : Nat
  blocks : Nat
  /-- The listed parts whose ports, paths and blocks are reserved, in ascending PBR ID (R251). -/
  reserved : Nat := 0
  /-- Every listed part has joined (R251). -/
  joined : Bool := false
  /-- CPLAN has written its number. -/
  claimed : Bool := false
  fires : Nat := 0
  done : Nat := 0
  /-- The run that a staging error poisoned (R317). -/
  poisoned : Option Nat := none
  /-- The plan has ended: later fires are discarded, and a CWAIT for a later run waits (R252). -/
  dropped : Bool := false
  /-- Its CDROP at this part has released it. -/
  released : Bool := false
  deriving DecidableEq, Repr

/-! ### Partitions, cores, the device -/

/-- A partition and its register window (R321 to R329). -/
structure Part where
  clusters : BitVec 16 := 0
  ports : BitVec 32 := 0
  routes : Tab Word := []
  /-- SLCFG as written, and the split in force (R40). -/
  slcfg : Tab Word := []
  split : Tab Word := []
  /-- SLMAP as staged, the current map, the map of the generation before (R42 to R44). -/
  slmap : Tab Byte := []
  map : List Nat := []
  oldMap : List Nat := []
  gen : BitVec 8 := 0
  slBusy : Bool := false
  slRejected : Bool := false
  launchRefused : Bool := false
  launchSlot : BitVec 2 := 0
  preBusy : Bool := false
  preMask : BitVec 4 := 0
  /-- The core cycle by which the contexts of a pre-empted launch halt, until they have halted (R312, R313). -/
  preHalt : Option Nat := none
  dvinv : Option Word := none
  /-- The applications whose accepted commits hold logged lines that were translated before the invalidation (R34). -/
  dvinvRas : List Nat := []
  errsts : BitVec 4 := 0
  caps : List Word := []
  created : Nat := 0
  passes : Nat := 0
  /-- A pass is due; the row has changed since the last pass (R179). -/
  passDue : Bool := false
  rowDirty : Bool := false
  /-- Cells have been freed since the waiting commits were last tried (R185). -/
  cellsFreed : Bool := false
  /-- The bin that the tree follows in this core cycle (R3, R4, R336), and the core cycles that the core whose clock it follows has
  had: two are one tree cycle. -/
  pace : Nat := 0
  ticks : Nat := 0
  /-- The tree cycle with whose beginning the latest commit step or rebalance ends (R185, R189, R194). -/
  stepEnd : Nat := 0
  /-- The launch slots whose commits that step applies (R193). -/
  stepOf : List Nat := []
  deriving DecidableEq, Repr

/-- What each core keeps outside its contexts and fabric. -/
structure Core where
  /-- The context that issued last (R309). -/
  last : Nat := 7
  /-- The hand of the second-chance clock (R83). -/
  hand : Nat := 0
  /-- Frames held back for the gang first in order that cannot start (R307). -/
  framesHeld : Nat := 0
  /-- Powered hours of its uncorrectable errors, and of corrected errors with their array (R319). -/
  uncorrected : List Nat := []
  corrected : List (Nat × Nat) := []
  bin : Nat := 0
  /-- The bin in force in this core cycle: the bin chosen takes its place between two core cycles (R336). -/
  pace : Nat := 0
  /-- Core cycles that the core has not had because its bin is lower than the nominal one (R4): its own count of core
  cycles is the clock less these. -/
  lost : Nat := 0
  /-- Store-log lines freed in a core cycle, and one more than that cycle: they can be taken in the next (R220). -/
  logFreed : Nat := 0
  logFreedAt : Nat := 0
  /-- A stop of placement on the core (R319). -/
  fenced : Bool := false
  /-- Operators whose microprogram is resident: (partition, slot, pantry index) (R183). -/
  code : List (Nat × Nat × Nat) := []
  deriving DecidableEq, Repr

/-- A TLB entry: a leaf, tagged with partition and launch slot (R32). -/
structure TlbEnt where
  core : Nat
  part : Nat
  slot : Nat
  /-- DVA divided by the page size, the page size as a power of two, the DPA of the page. -/
  vpage : Nat
  bits : Nat
  dpa : Nat
  writable : Bool
  mtype : Nat
  /-- D is known to be set in the table. -/
  dirty : Bool
  deriving DecidableEq, Repr

/-- A pointer entry that a cluster's page-table walker caches: the level of the entry, the DVA above that level's shift,
the table it points to (R32). -/
structure PtcEnt where
  cluster : Nat
  part : Nat
  slot : Nat
  lvl : Nat
  vpage : Nat
  table : Nat
  deriving DecidableEq, Repr

/-- An image in a core's configuration cache: its words, and in the descriptor store its header, tables and rectangles. It
is named by launch, source and entry, and stored once with the list of its target regions (R140, R183). -/
structure CfgEnt where
  core : Nat
  launch : Nat
  src : ImgSrc
  entry : Nat
  targets : List (List Nat)
  img : ImgData
  deriving DecidableEq, Repr

/-- An entry of the address translation cache (R36). -/
structure AtcEnt where
  pasid : Nat
  page : Nat
  readable : Bool
  writable : Bool
  deriving DecidableEq, Repr

/-- A CXL port (R22). -/
structure Port where
  up : Bool := false
  x16 : Bool := false
  fast : Bool := false
  deriving DecidableEq, Repr

/-- What the translation cache has asked of the host, or will: for a partition, the PASID, the page, whether to write, and
since when (R36). -/
structure HostReq where
  part : Nat
  pasid : Nat
  page : Nat
  write : Bool
  since : Nat := 0
  deriving DecidableEq, Repr

/-- What the part sends to the outside. -/
inductive Msg where
  /-- an MSI-X message (R326) -/
  | msix (vec : Nat)
  /-- the answer to an inbound UIO request: data, or a refusal (R23, R318) -/
  | uioData (d : List Byte)
  | uioDone
  | uioUnsupported
  | uioAbort
  /-- a Translation Request, a Page Request, an Invalidate Completion (R36, R37) -/
  | transRequest (pasid page : Nat) (write : Bool)
  | pageRequest (pasid page : Nat) (write : Bool)
  | invalComplete (pasid page : Nat)
  /-- an SPDM response: request code, contents (R335) -/
  | spdm (code : Nat) (data : List Byte)
  /-- a UIO write of 8 bytes to a trigger word of a peer part: its PBR ID, the word, the data (R25, R252) -/
  | peerTrigger (pbr word : Nat) (data : List Byte)
  /-- a notice to the peers of a plan: joined, fired, dropped (R251, R252) -/
  | plan (what key run : Nat) (peers : List Nat)
  deriving DecidableEq, Repr

/-- The device as a whole (R1 to R6, R22, R334 to R337). -/
structure Device where
  /-- The fuse word: grade 0 Q64, 1 Q60, 2 Q48; fused-off cores and slices (R1, R335). -/
  grade : Nat := 0
  fusedCores : BitVec 64 := 0
  fusedSlices : BitVec 64 := 0
  /-- Fenced cores and slices (R319, R320). -/
  fencedCores : BitVec 64 := 0
  fencedSlices : BitVec 64 := 0
  stepping : BitVec 8 := 0
  pbr : Nat := 0
  /-- The PBR IDs that are peer parts; any other is a GFAM device (R22, R25). -/
  peers : List Nat := []
  monitor : BitVec 16 := 0
  bootsts : BitVec 2 := 0
  fwLen : Nat := 0
  staging : Memory := []
  /-- The firmware image that runs, as measured (R335). -/
  firmware : List Byte := []
  ports : Tab Port := []
  alarms : Nat := 0
  planHour : Nat := 0
  /-- The bins of the current margin plan (R335). -/
  plan : List (Nat × Nat) := []
  /-- Doubleword 1 of the definitions PDEF(p) as last written (R327). -/
  pdef : Tab Word := []
  /-- MSI-X: masked vectors and pending bits (R326). -/
  masked : BitVec 96 := 0
  pending : BitVec 96 := 0
  atc : List AtcEnt := []
  /-- Outstanding translation requests and page request groups (R36). -/
  transReqs : List HostReq := []
  pageReqs : List HostReq := []
  /-- Page requests that wait for a group of their partition to be free, oldest first (R36). -/
  pageWait : List HostReq := []
  /-- SPDM: the requests answered since the last GET_VERSION (R335). -/
  spdm : List Nat := []
  /-- MODEL: the messages sent, newest first. -/
  sent : List Msg := []
  deriving DecidableEq, Repr

/-- MODEL: what the outside world does: an event of the table, a write of host memory by the host (R35, R300), the masking
of an MSI-X vector (R326), the end of a plan by a peer (R252). -/
inductive Outside where
  | event (i : Instr)
  | hostWrite (pasid addr : Nat) (data : List Byte)
  | maskVector (vec : Nat)
  /-- a peer's CDROP ends a plan at this part (R252) -/
  | planDrop (part plan : Nat)
  deriving DecidableEq, Repr

/-- MODEL: an item of the agenda: a context issues, an element takes its core cycle, an event of the part or of
the outside world comes about, or the core cycle ends. -/
inductive Item where
  | cp (core ctx : Nat)
  /-- a context that waits tries again, without a turn: what it asked for stays asked for (R80, R309) -/
  | retry (core ctx : Nat)
  | element (core row col : Nat)
  | event (i : Instr)
  | outside (o : Outside)
  | advance
  deriving DecidableEq, Repr

/-- MODEL: which agent acts: none, a context (by key), or an element (by key). -/
inductive Focus where
  | none
  | ctx (k : Nat)
  | elem (k : Nat)
  deriving DecidableEq, Repr

/-- The state. Keys: context core·8 + number; element core·4096 + row·64 + col; quadrant core·4 + q; engine
core·16 + number; island core·8 + number; L2 line slice·2^60 + q (R42); barrier core·32 + number; frame core·4096 + index; spill frame
slice·6144 + index; push engine slice·2 + number; launch partition·4 + slot; gang partition·65536 + gang.id; tile
page (partition·4 + slot)·2^37 + page; plan partition·8192 + number; exit port
((core·4 + quadrant)·4 + edge)·32 + k; scale register (core·4 + q)·16 + number; STT core·2^44 + page key. -/
structure State where
  dev : Device := {}
  parts : Tab Part := []
  launches : Tab Launch := []
  /-- Device memory by target: PBR ID·2^52 + DPA in the target, or (4096 + partition)·2^52 + offset in the pinned
  aperture (R24, R25). A store log also names (8192 + partition)·2^52 + offset in the trigger aperture and
  (16384 + PBR ID)·2^52 + offset in a peer's (log 18). -/
  mem : Memory := []
  /-- Poisoned lines (R318). -/
  poison : List Nat := []
  /-- Host memory: PASID·2^64 + host address (R35). -/
  host : Memory := []
  row : Tab Cell := []
  ras : Tab RA := []
  nextRa : Nat := 1
  gangs : Tab Gang := []
  saved : Tab SavedGang := []
  ctxs : Tab Ctx := []
  cores : Tab Core := []
  bars : Tab Barrier := []
  plans : Tab Plan := []
  dir : Tab DirEnt := []
  tiles : Tab Tile := []
  stt : Tab SttEnt := []
  frames : Tab Frame := []
  spills : Tab Spill := []
  spillNo : Nat := 0
  xfers : List Xfer := []
  tlb : List TlbEnt := []
  /-- The images in the configuration caches, the last used first (R140). -/
  cfg : List CfgEnt := []
  /-- The pointer entries that the walkers cache (R32). -/
  ptc : List PtcEnt := []
  /-- Lines resident in the L1D of a core and whether dirty: core·2^70 + line of the DPA (R39, R218). -/
  l1d : Tab Bool := []
  /-- Lines that a core holds in L1D with write ownership, by line (R218). -/
  owners : Tab Nat := []
  /-- Lines that the cache parts of the slices hold and whether dirty, by slice and q (R40, R42). -/
  l2 : Tab Bool := []
  engines : Tab Engine := []
  exits : Tab Queue := []
  /-- Entry ports by the key of the exit port beside them, and islands' decoder ports (R60, R124). -/
  inPorts : Tab InPort := []
  pushes : Tab Push := []
  images : Tab Image := []
  elems : Tab Elem := []
  scales : Tab W32 := []
  islands : Tab Island := []
  /-- MODEL: what the outside does, each event with the core cycle from which it comes about (log 4). -/
  inputs : List (Nat × Outside) := []
  /-- MODEL: nominal core cycles since reset (R4), the agenda, which agent acts, the counter of free values. -/
  clock : Nat := 0
  agenda : List Item := []
  focus : Focus := .none
  freeCtr : Nat := 0
  deriving DecidableEq, Repr

/-- The part right after reset (R334, R337): BOOTSTS reads 0, no partition is defined, nothing is loaded. Values
the spec does not state are zero (log 2). -/
def State.reset : State := {}

end Sys2Proof.Machine
end

