-- ==== Sys2Proof/Machine/Operands.lean ====
section
/-! DEFINITION. Operands of CP instructions: the records of the state by key, register reads and writes with the
hard-wired g0 and p0 (R93), guards (R10), immediates, branch targets (R103), memory-form addresses (R216, R217). -/

namespace Sys2Proof.Machine

/-! ### Records by key -/

/-- A context's record (log 2: an unlisted context holds zeros). -/
def State.ctx (s : State) (k : Nat) : Ctx := tgetD s.ctxs k {}

/-- Write a context's record. -/
def State.setCtx (s : State) (k : Nat) (x : Ctx) : State := { s with ctxs := tset s.ctxs k x }

/-- Change a context's record. -/
def State.updCtx (s : State) (k : Nat) (f : Ctx → Ctx) : State := s.setCtx k (f (s.ctx k))

/-- The blank gang, for a key that names none. -/
def Gang.blank : Gang := { part := 0, slot := 0, op := 0, ra := 0, effects := false, members := [] }

/-- A gang's record. -/
def State.gang (s : State) (g : Nat) : Gang := tgetD s.gangs g Gang.blank

/-- Write a gang's record. -/
def State.setGang (s : State) (g : Nat) (x : Gang) : State := { s with gangs := tset s.gangs g x }

/-- A launch slot's record, by partition·4 + slot. -/
def State.launch (s : State) (l : Nat) : Launch := tgetD s.launches l {}

/-- Write a launch slot's record. -/
def State.setLaunch (s : State) (l : Nat) (x : Launch) : State := { s with launches := tset s.launches l x }

/-- A partition's record; a partition that is not defined reads as blank (R321). -/
def State.part (s : State) (p : Nat) : Part := tgetD s.parts p {}

/-- Change a partition's record. -/
def State.updPart (s : State) (p : Nat) (f : Part → Part) : State := { s with parts := tset s.parts p (f (s.part p)) }

/-- A core's record. -/
def State.core (s : State) (c : Nat) : Core := tgetD s.cores c {}

/-- Change a core's record. -/
def State.updCore (s : State) (c : Nat) (f : Core → Core) : State := { s with cores := tset s.cores c (f (s.core c)) }

/-- The core and number of a context key. -/
def coreOf (k : Nat) : Nat := k / 8

/-- The quadrant of grid coordinates: 0 nw, 1 ne, 2 sw, 3 se. -/
def quadOf (row col : Nat) : Nat := row / 32 * 2 + col / 32

/-- The quadrant of an element key on its core. -/
def elemQuad (k : Nat) : Nat := quadOf (k % 4096 / 64) (k % 64)

/-- The key and record of the image loaded in a quadrant of a core. -/
def State.imageAt (s : State) (core q : Nat) : Option (Nat × Image) :=
  s.images.find? fun i => i.1 / 4 == core && i.2.quads.contains q

/-- Send a message to the outside. -/
def State.send (s : State) (m : Msg) : State := { s with dev := { s.dev with sent := m :: s.dev.sent } }

/-- The gang of a context. -/
def State.gangOf (s : State) (k : Nat) : Gang := s.gang (s.ctx k).gang

/-- The launch key of a context. -/
def State.launchOf (s : State) (k : Nat) : Nat := (s.gangOf k).part * 4 + (s.gangOf k).slot

/-- Whether the context runs an operator declared `effects`; any other is restartable (R219). -/
def State.effects (s : State) (k : Nat) : Bool := (s.gangOf k).effects

/-- The operator a context runs. -/
def State.oper (s : State) (k : Nat) : Oper := tgetD (s.launch (s.launchOf k)).pantry.ops (s.gangOf k).op {}

/-- The core cycles that a core has had: those of the nominal clock less the ones its lower bin did not give it (R4). -/
def State.cyc (s : State) (core : Nat) : Nat := s.clock - (s.core core).lost

/-- The same, of the core that an element key lies on. -/
def State.cycE (s : State) (k : Nat) : Nat := s.cyc (k / 4096)

/-- Whether a clock of r cycles in every 27 nominal core cycles has one at the nominal cycle t (R4). -/
def rateEdge (r t : Nat) : Bool := t * r / 27 != (t + 1) * r / 27

/-- Whether a core's clock gives it a core cycle at this nominal one: in bin b, 27 − b of every 27 (R4, R328). -/
def State.hasEdge (s : State) (core : Nat) : Bool := rateEdge (27 - (s.core core).pace) s.clock

/-- Whether a core is present: not fused off and not fenced (R1, R173, R319). -/
def State.corePresent (s : State) (c : Nat) : Bool :=
  decide (c < 64) && !s.dev.fusedCores.getLsbD c && !s.dev.fencedCores.getLsbD c

/-- The cores of a partition that are present, ascending (R173, R327). -/
def State.partCores (s : State) (p : Nat) : List Nat :=
  (List.range 64).filter fun c => (s.part p).clusters.getLsbD (c / 4) && s.corePresent c

/-- The bin of the core whose clock a partition's tree is to follow: the slowest of its present cores (R3, R4, R328). Which bin the
tree follows where the cores stand in different bins the spec does not say (DESIGN CHOICE, log 54). -/
def State.slowest (s : State) (p : Nat) : Nat := (s.partCores p).foldl (fun b c => Nat.max b (s.core c).bin) 0

/-- The core cycles, of every 27 nominal ones, of the core whose clock a partition's tree follows in this core cycle. -/
def State.treeRate (s : State) (p : Nat) : Nat := 27 - (s.part p).pace

/-- Whether that core has a core cycle at a nominal one. -/
def State.treeCore (s : State) (p t : Nat) : Bool := rateEdge (s.treeRate p) t

/-- The number of the tree cycle of a partition that is under way, from 1 on: two core cycles of the core it follows are one
tree cycle, in every bin and across a change of bin (R3, R4). -/
def State.treeNow (s : State) (p : Nat) : Nat := ((s.part p).ticks + (if s.treeCore p s.clock then 1 else 0) + 1) / 2

/-- Whether a tree cycle of a partition begins now. -/
def State.treeEdge (s : State) (p : Nat) : Bool := s.treeCore p s.clock && (s.part p).ticks % 2 == 0

/-- Whether a tree cycle of a partition begins at the next nominal core cycle, the bins staying as they are. -/
def State.treeNext (s : State) (p : Nat) : Bool :=
  s.treeCore p (s.clock + 1) && ((s.part p).ticks + if s.treeCore p s.clock then 1 else 0) % 2 == 0

/-- Microseconds since the partition was created (R96), a partial one rounded down (DESIGN CHOICE: R96 does not say; log 6). -/
def State.tick (s : State) (p : Nat) : Nat := (s.clock - (s.part p).created) / 2700

/-- Powered hours: 2.7·10^9 core cycles are a second (R3, R328). -/
def State.hours (s : State) : Nat := s.clock / 9720000000000

/-! ### Registers (R93) -/

/-- Read a g register: g0 reads as zero. -/
def Ctx.rg (x : Ctx) (r : BitVec 5) : Word := if r = 0 then 0 else x.g[r.toNat]'(by have := r.isLt; omega)

/-- Write a g register: a write to g0 is discarded. -/
def Ctx.wg (x : Ctx) (r : BitVec 5) (v : Word) : Ctx :=
  if r = 0 then x else { x with g := x.g.set r.toNat v (by have := r.isLt; omega) }

/-- Read a p register: p0 reads as true. -/
def Ctx.rp (x : Ctx) (r : BitVec 3) : Bool := if r = 0 then true else x.p.getLsbD r.toNat

/-- One bit of a byte replaced. -/
def setBit8 (p : BitVec 8) (i : Nat) (v : Bool) : BitVec 8 :=
  if v then p ||| BitVec.ofNat 8 (2 ^ i) else p &&& ~~~(BitVec.ofNat 8 (2 ^ i))

/-- Write a p register: a write to p0 is discarded. -/
def Ctx.wp (x : Ctx) (r : BitVec 3) (v : Bool) : Ctx := if r = 0 then x else { x with p := setBit8 x.p r.toNat v }

/-- Read an h register (R94). -/
def Ctx.rh (x : Ctx) (r : BitVec 4) : Handle := x.h[r.toNat]'(by have := r.isLt; omega)

/-- Write an h register. -/
def Ctx.wh (x : Ctx) (r : BitVec 4) (v : Handle) : Ctx := { x with h := x.h.set r.toNat v (by have := r.isLt; omega) }

/-- Whether the guard lets the instruction issue (R10). -/
def Ctx.guardHolds (x : Ctx) (c : Guard) : Bool := x.rp c.p != c.neg

/-! ### Immediates, targets and addresses -/

/-- A B-form target: the branch's own address plus 4·sext(offset) (R103). -/
def branchTarget (pc : Word) (off : BitVec 21) : Word := pc + (off.signExtend 64) * 4

/-- An I-form jump target: g[a] with bits [1:0] ignored, plus 4·sext(imm11) (R103). -/
def jumpTarget (a : Word) (imm : BitVec 11) : Word := (a &&& ~~~(3 : Word)) + (imm.signExtend 64) * 4

/-- The bytes of an M-form or TLD size code: 1, 2, 4, 8 (R102). -/
def sizeBytes (size : BitVec 2) : Nat := 2 ^ size.toNat

/-- The address of an M-form: g[base] + sext(off)·size (R216). -/
def memAddr (base : Word) (size : BitVec 2) (off : BitVec 9) : Word :=
  base + (off.signExtend 64) * BitVec.ofNat 64 (sizeBytes size)

/-- The address of LDX and STX: g[a] + (g[b] shifted left by fn[5:3]), mod 2^64 (R217). -/
def indexAddr (a b : Word) (sh : BitVec 3) : Word := a + (b <<< sh.toNat)

/-- The low n bits of a value sign-extended to 64 bits; n is 8, 16, 32 or 64. -/
def sextN (n : Nat) (v : Word) : Word := (v.truncate n).signExtend 64

/-- The low n bits of a value, the rest zero. -/
def zextN (n : Nat) (v : Word) : Word := (v.truncate n).zeroExtend 64

/-- A loaded value extended to 64 bits (R216). -/
def extendLoad (zero : Bool) (bytes : Nat) (v : Word) : Word := if zero then zextN (8 * bytes) v else sextN (8 * bytes) v

/-- A result of a W-bit integer operation as written: W = 32 is sign-extended (R199). -/
def putW (w : Bool) (v : Nat) : Word := if w then (BitVec.ofNat 32 v).signExtend 64 else BitVec.ofNat 64 v

/-- The width of an integer operation (R199). -/
def widthW (w : Bool) : Nat := if w then 32 else 64

/-- An operand of an integer operation, its low W bits as a number. -/
def getW (w : Bool) (v : Word) : Nat := v.toNat % 2 ^ widthW w

/-- The signed reading of a W-bit number. -/
def signW (w : Bool) (n : Nat) : Int := if n < 2 ^ (widthW w - 1) then n else (n : Int) - 2 ^ widthW w

/-- A number reduced to W bits. -/
def wrapW (w : Bool) (n : Int) : Nat := (n % (2 ^ widthW w : Int)).toNat

end Sys2Proof.Machine
end

