-- ==== Sys2Proof/Machine/DevMem.lean ====
section
/-! DEFINITION. Device memory: the device physical map (R24, R25, R41), the homes of lines and the cache parts of
the slices (R40, R42), the page-table walk (R26 to R30), the TLB (R32), store logs (R219, R220), poison (R318), trigger
writes (R252), and the two accesses that the CP, memory elements and engines share. Every access is performed at once
(log 5). -/

namespace Sys2Proof.Machine

/-- Where a device physical address lies (R24, R25): a byte of a target, a trigger word of this part or of a peer, or
nowhere: reserved, beyond the granted capacity, unroutable. -/
inductive Target where
  | mem (key : Nat)
  | trig (word : Nat)
  | peer (pbr word : Nat)
  | hole
  deriving DecidableEq, Repr

/-- The split in force of a slice; SLCFG's reset value before any is committed (R40). -/
def Part.splitOf (p : Part) (slice : Nat) : Word := tgetD p.split slice 0x400

/-- Pinned MiB, spill MiB of a split (R40). -/
def pinnedMiB (w : Word) : Nat := (w.extractLsb' 0 4).toNat
def spillMiB (w : Word) : Nat := (w.extractLsb' 8 4).toNat

/-- The smallest pinned size among the slices of the current map, in MiB (R41). -/
def Part.smallestPinned (p : Part) : Nat :=
  match p.map with
  | [] => 0
  | x :: r => r.foldl (fun m y => Nat.min m (pinnedMiB (p.splitOf y))) (pinnedMiB (p.splitOf x))

/-- The pinned capacity granted to the partition, in bytes: D × P MiB (R41). -/
def Part.pinnedCap (p : Part) : Nat := p.map.length * p.smallestPinned * 2 ^ 20

/-- Whether some port of a mask is up (R25). -/
def State.anyUp (s : State) (mask : BitVec 32) : Bool :=
  (List.range 32).any fun i => mask.getLsbD i && (tgetD s.dev.ports i {}).up

/-- Where an offset in a granule of a peer part lies: the peer's pinned aperture at 0, its trigger aperture at
0x1_0000_0000 (R25); what the peer refuses under R23 lies nowhere. The spec does not say how an access that a peer
refuses ends: DESIGN CHOICE, log 61. -/
def peerTarget (pbr off : Nat) : Option Target :=
  if off < 0x30000000 then some (.mem (pbr * 2 ^ 52 + off))
  else if 0x100000000 ≤ off ∧ off < 0x100010000 then some (.peer pbr ((off - 0x100000000) / 8))
  else none

/-- Where a DPA of a partition lies; none for a reserved DPA, an offset beyond the granted capacity, or an
unroutable granule: DVA_FAULT kind 4 (R24, R25). A peer part is addressed by the offset in the granule. Which address a GFAM
device sees the rules do not say: the model addresses it by the whole DPA, so that two granules of one PBR ID are distinct memory
(DESIGN CHOICE, log 75). -/
def State.resolve (s : State) (p dpa : Nat) : Option Target :=
  if dpa < 2 ^ 51 then
    let e := tgetD (s.part p).routes (dpa / 2 ^ 40) 0
    let pbr := (e.extractLsb' 51 12).toNat
    if e.getLsbD 63 && s.anyUp (e.extractLsb' 0 32) then
      (if s.dev.peers.contains pbr then peerTarget pbr (dpa % 2 ^ 40) else some (.mem (pbr * 2 ^ 52 + dpa)))
    else none
  else if dpa - 2 ^ 51 < 0x30000000 then
    if dpa - 2 ^ 51 < (s.part p).pinnedCap then some (.mem ((4096 + p) * 2 ^ 52 + (dpa - 2 ^ 51))) else none
  else if 2 ^ 51 + 0x100000000 ≤ dpa ∧ dpa < 2 ^ 51 + 0x100010000 then
    some (.trig ((dpa - (2 ^ 51 + 0x100000000)) / 8))
  else none

/-! ### Homes of lines and the cache parts of the slices (R40 to R42) -/

/-- Where a line of the fabric window is placed: slot, the quotient q, slice, set and tag (R42). -/
structure LineHome where
  slot : Nat
  q : Nat
  slice : Nat
  set : Nat
  tag : Nat
  deriving DecidableEq, Repr

/-- The placement of a cacheable line of a physical address under the current map, none while the map is empty (R42). -/
def Part.lineHome (p : Part) (dpa : Nat) : Option LineHome :=
  if p.map.isEmpty then none
  else
    let l := dpa / 64
    let q := l / p.map.length
    some ⟨l % p.map.length, q, p.map.getD (l % p.map.length) 0, q % 2 ^ 12, q / 2 ^ 12⟩

/-- The slice and the pinned line of line n of the pinned aperture (R41). -/
def Part.pinnedHome (p : Part) (n : Nat) : Option (Nat × Nat) :=
  if p.map.isEmpty then none else some (p.map.getD (n % p.map.length) 0, n / p.map.length)

/-- The slice that is the home of a DPA's line, in its cache part or its pinned part (R41, R42). -/
def Part.sliceOf (p : Part) (dpa : Nat) : Option Nat :=
  if dpa < 2 ^ 51 then (p.lineHome dpa).map (·.slice) else (p.pinnedHome ((dpa - 2 ^ 51) / 64)).map (·.1)

/-- The ways of a slice's cache part: 4 for every MiB that is neither pinned nor spill (R40). -/
def Part.l2Ways (p : Part) (slice : Nat) : Nat :=
  4 * (12 - pinnedMiB (p.splitOf slice) - spillMiB (p.splitOf slice))

/-- The key of a line in the cache part of a slice. -/
def l2Key (slice q : Nat) : Nat := slice * 2 ^ 60 + q

/-- A set of a cache with so many ways takes a line: a full one gives up a way the spec does not name, a free value
(log 12). `same` says which listed lines are of that set. -/
def fillWay (t : Tab Bool) (key ways now : Nat) (same : Nat → Bool) (dirty : Bool) : Tab Bool :=
  let set := t.filter fun e => same e.1
  if (tget? t key).isSome ∨ set.length < ways then tset t key (dirty || tgetD t key false)
  else tset (tdel t ((set.getD (Config.evictWay now key % ways) (key, false)).1)) key dirty

/-- The line of a DPA in the cache part of its home slice: brought in by an access that L1D does not serve, dirty after a
write; a slice with no cache part forwards the request uncached, and pinned lines lie in the pinned part (R27, R40). -/
def State.l2Touch (s : State) (p dpa : Nat) (dirty : Bool) : State :=
  match (s.part p).lineHome dpa with
  | none => s
  | some h =>
    let ways := (s.part p).l2Ways h.slice
    if 2 ^ 51 ≤ dpa ∨ ways = 0 then s
    else
      { s with l2 := fillWay s.l2 (l2Key h.slice h.q) ways s.clock (fun k => k / 2 ^ 60 == h.slice && k % 2 ^ 12 == h.set) dirty }

/-! ### The walk -/

/-- The index shift, the index width and the table alignment of a level (R26), as powers of two. -/
def lvlShift (l : Nat) : Nat := match l with | 4 => 39 | 3 => 30 | 2 => 21 | 1 => 16 | _ => 12
def lvlBits (l : Nat) : Nat := match l with | 4 => 9 | 3 => 9 | 2 => 9 | 1 => 5 | _ => 4
def lvlAlign (l : Nat) : Nat := match l with | 1 => 8 | 0 => 7 | _ => 12

/-- A leaf as the walk finds it. -/
structure Leaf where
  dpa : Nat
  bits : Nat
  writable : Bool
  mtype : Nat
  deriving DecidableEq, Repr

/-- The fault kind of a table entry at a level, 0 for none (R28). -/
def entryKind (e : Word) (l : Nat) (write : Bool) : Nat :=
  let a := (e.extractLsb' 7 45).toNat * 2 ^ 7
  if !e.getLsbD 0 then 1
  else if e.extractLsb' 52 12 != 0 || e.extractLsb' 3 2 == 3 then 3
  else if !e.getLsbD 1 && (l == 0 || e.getLsbD 2) then 3
  else if e.getLsbD 1 && l == 4 then 5
  else if e.getLsbD 1 && a % 2 ^ lvlShift l != 0 then 3
  else if e.getLsbD 1 && write && !e.getLsbD 2 then 2
  else 0

/-- The walker of a core's cluster takes a pointer entry of level L4, L3 or L2 into its cache of 64; a full one gives up an
entry the spec does not name, a free value (R32; log 12). -/
def State.ptcFill (s : State) (core launch dva l table : Nat) : State :=
  if l < 2 then s
  else
    let e : PtcEnt := ⟨core / 4, launch / 4, launch % 4, l, dva / 2 ^ lvlShift l, table⟩
    let rest := s.ptc.filter (· != e)
    let mine := rest.filter fun o => o.cluster == core / 4
    if mine.length < 64 then { s with ptc := e :: rest }
    else { s with ptc := e :: rest.erase (mine.getD (Config.evictWay s.clock dva % 64) e) }

/-- Where a walk starts: at the table that the lowest cached pointer of its DVA names, else at the root, L4 (R28, R32). -/
def State.walkStart (s : State) (core launch dva root : Nat) : Nat × Nat :=
  let at_ := fun (l : Nat) => s.ptc.find? fun o => o.cluster == core / 4 && o.part * 4 + o.slot == launch && o.lvl == l
    && o.vpage == dva / 2 ^ lvlShift l
  match [2, 3, 4].findSome? at_ with
  | some o => (o.lvl - 1, o.table)
  | none => (4, root)

/-- The walk from a level down (R28, R30): the leaf and the state with A, and D on a write, set; or the kind. Each table
read goes through L2; the walker's cache takes the pointers read. An entry in a poisoned line is read as it stands: DESIGN CHOICE,
R318 names no walker, log 69. -/
def State.walkFrom (s : State) (core launch dva : Nat) (write : Bool) (l table : Nat) : Except Nat (State × Leaf) :=
  let p := launch / 4
  match s.resolve p table with
  | some (.mem base) =>
    let off := 8 * (dva / 2 ^ lvlShift l % 2 ^ lvlBits l)
    let at_ := base + off
    let e : Word := BitVec.ofNat 64 (mread s.mem at_ 8)
    let kind := entryKind e l write
    let a := (e.extractLsb' 7 45).toNat * 2 ^ 7
    if kind != 0 then .error kind
    else if e.getLsbD 1 then
      let e' := e ||| (if write then 0x60 else 0x20)
      .ok (({ s with mem := mwrite s.mem at_ 8 e'.toNat } : State).l2Touch p (table + off) true,
           ⟨a, lvlShift l, e.getLsbD 2, (e.extractLsb' 3 2).toNat⟩)
    else
      match l with
      | 0 => .error 3
      | l' + 1 =>
        if a % 2 ^ lvlAlign l' != 0 then .error 3
        else ((s.l2Touch p (table + off) false).ptcFill core launch dva (l' + 1) a).walkFrom core launch dva write l' a
  | _ => .error 4

/-- The walk of a DVA for a launch, by the walker of a core's cluster (R26, R28, R32). -/
def State.walk (s : State) (core launch : Nat) (dva : Word) (write : Bool) : Except Nat (State × Leaf) :=
  if dva.extractLsb' 48 16 != 0 then .error 7
  else
    match (s.launch launch).root with
    | none => .error 1
    | some t =>
      let b := s.walkStart core launch dva.toNat t
      s.walkFrom core launch dva.toNat write b.1 b.2

/-- The TLB entry of a core that translates an access; a write needs one known to be writable and dirty (R32). -/
def State.tlbHit (s : State) (core launch : Nat) (dva : Word) (write : Bool) : Option TlbEnt :=
  s.tlb.find? fun e => e.core == core && e.part * 4 + e.slot == launch && dva.toNat / 2 ^ e.bits == e.vpage
    && (!write || (e.writable && e.dirty))

/-- Fill the TLB with a leaf: 64 sets of 4 ways, the set taken from the low bits of the page number (DESIGN CHOICE: the
spec names no index), a full set replaces a way the spec does not name (R32; log 12). -/
def State.tlbFill (s : State) (core launch : Nat) (dva : Word) (write : Bool) (f : Leaf) : State :=
  let e : TlbEnt := ⟨core, launch / 4, launch % 4, dva.toNat / 2 ^ f.bits, f.bits, f.dpa, f.writable, f.mtype, write⟩
  let rest := s.tlb.filter fun o => !(o.core == core && o.part == e.part && o.slot == e.slot
    && o.bits == e.bits && o.vpage == e.vpage)
  let set := rest.filter fun o => o.core == core && o.vpage % 64 == e.vpage % 64
  if set.length < 4 then { s with tlb := e :: rest }
  else { s with tlb := e :: rest.erase (set.getD (Config.replaceWay s.freeCtr % 4) e), freeCtr := s.freeCtr + 1 }

/-- An access after translation: its DPA, where that lies, the memory type. -/
structure Xlat where
  dpa : Nat
  target : Target
  mtype : Nat
  deriving DecidableEq, Repr

/-- The DPA that a leaf gives, and where it lies: a hole is DVA_FAULT kind 4 of the access, whose walk has set A and D
(R24, R28). -/
def State.xlatOf (s : State) (launch : Nat) (dva : Word) (base bits mtype : Nat) : Xlat :=
  let dpa := base + dva.toNat % 2 ^ bits
  ⟨dpa, (s.resolve (launch / 4) dpa).getD .hole, mtype⟩

/-- Translate a DVA for a core (R26, R32): a launch with no root table has no DVA space, whatever the TLB holds; TLB, then
the walk; the fault kind of R29 otherwise. -/
def State.translate (s : State) (core launch : Nat) (dva : Word) (write : Bool) : Except Nat (State × Xlat) :=
  if dva.extractLsb' 48 16 != 0 then .error 7
  else if (s.launch launch).root.isNone then .error 1
  else
    match s.tlbHit core launch dva write with
    | some e => .ok (s, s.xlatOf launch dva e.dpa e.bits e.mtype)
    | none =>
      match s.walk core launch dva write with
      | .error k => .error k
      | .ok (s', f) => .ok (s'.tlbFill core launch dva write f, s'.xlatOf launch dva f.dpa f.bits f.mtype)

/-- Translate every page of a DVA range for a program (R32); the first kind and address otherwise. What the walks set in
the tables stays (R30). -/
def State.rangeOk (s : State) (core launch : Nat) (lo : Word) (write : Bool) : Nat → Except (State × Nat × Word) State
  | 0 => .ok s
  | n + 1 =>
    match s.translate core launch lo write with
    | .error kind => .error (s, kind, lo)
    | .ok (s1, x) =>
      if x.target = .hole then .error (s1, 4, lo)
      else s1.rangeOk core launch ((lo &&& ~~~(0xFFF : Word)) + 0x1000) write n

/-! ### Store logs and plain bytes -/

/-- The logged byte of a context at a target address (R219). -/
def Ctx.logged (x : Ctx) (a : Nat) : Option Byte :=
  match x.slog.find? fun l => l.line == a / 64 with
  | none => none
  | some l => tget? l.bytes (a % 64)

/-- The bytes a context sees: its log merged over memory (R219, R295). -/
def State.viewN (s : State) (x : Ctx) (a : Nat) : Nat → List Byte
  | 0 => []
  | n + 1 => (match x.logged a with | some b => b | none => mget s.mem a) :: s.viewN x (a + 1) n

/-- Masked bytes added to a log line. -/
def putBytes (t : Tab Byte) (off : Nat) (bs : List Byte) : Tab Byte :=
  match bs with
  | [] => t
  | b :: r => putBytes (tset t off b) (off + 1) r

/-- A store added to a log: to its line, or as a new line at the end (R219). -/
def logPut (log : List LogLine) (l : LogLine) (off : Nat) (bs : List Byte) : List LogLine :=
  match log with
  | [] => [{ l with bytes := putBytes [] off bs }]
  | m :: r =>
    if m.line = l.line then
      { m with bytes := putBytes m.bytes off bs, dvaLines := (m.dvaLines ++ l.dvaLines).eraseDups } :: r
    else m :: logPut r l off bs

/-- The store-log lines of a core, of 4,096, that a store cannot take in this core cycle: those in use, and those freed in
it (R220). -/
def State.logLines (s : State) (core : Nat) : Nat :=
  s.ctxs.foldl (fun n e => if coreOf e.1 = core then n + e.2.slog.length else n)
    (if (s.core core).logFreedAt = s.clock + 1 then (s.core core).logFreed else 0)

/-- Lines of a core's store logs are freed (R220). -/
def State.freeLines (s : State) (core n : Nat) : State :=
  if n = 0 then s
  else s.updCore core fun c =>
    { c with logFreed := n + (if c.logFreedAt = s.clock + 1 then c.logFreed else 0), logFreedAt := s.clock + 1 }

/-- The line that a store waits for, if it waits for a store-log line and began to before a time (R220). -/
def Wait.lineBefore (w : Option Wait) (t : Nat) : Option Nat :=
  match w with
  | some ⟨.storeLog line, since⟩ => if since < t then some line else none
  | _ => none

/-- The context and the line of every store of a core that waits for a store-log line and began to before a time (R220). -/
def State.logWaiters (s : State) (core since : Nat) : List (Nat × Nat) :=
  s.ctxs.filterMap (fun e => if coreOf e.1 = core then (Wait.lineBefore e.2.wait since).map (e.1, ·) else none)
    ++ s.engines.filterMap (fun e => if e.1 / 16 = core then (Wait.lineBefore e.2.wait since).map (e.2.ctx, ·) else none)
    ++ s.elems.filterMap fun e =>
      match (if e.1 / 4096 = core then e.2.mem.head? else none), s.imageAt core (elemQuad e.1) with
      | some m, some i => (Wait.lineBefore (some ⟨m.why, m.since⟩) since).map (i.2.ctx, ·)
      | _, _ => none

/-- The store-log lines that stores of a core wait for since before a time: stores of one context to one line need one, and none
where its log has taken the line meanwhile (R219, R220). -/
def State.logAhead (s : State) (core since : Nat) : Nat :=
  (((s.logWaiters core since).filter fun w => !(s.ctx w.1).slog.any fun l => l.line == w.2).eraseDups).length

/-- Whether a store that began to wait at a time may take a store-log line: more lines are free than stores that wait before it
need (R220). -/
def State.logRoom (s : State) (core since : Nat) : Bool := decide (s.logLines core + s.logAhead core since < 4096)

/-- When a context's own store began to wait, now if it does not. -/
def State.logSince (s : State) (w : Option Wait) : Nat :=
  match w with
  | some ⟨.storeLog _, since⟩ => since
  | _ => s.clock

/-- Whether some of n bytes lie in a poisoned line (R318). -/
def State.poisonedIn (s : State) (a n : Nat) : Bool := s.poison.any fun l => decide (64 * l < a + n) && decide (a < 64 * l + 64)

/-- Write bytes to a target; every line whose 64 bytes are all written loses its poison (R318). -/
def State.put (s : State) (a : Nat) (bs : List Byte) : State :=
  { s with
    mem := msetN s.mem a bs
    poison := s.poison.filter fun l => !(decide (a ≤ 64 * l) && decide (64 * l + 64 ≤ a + bs.length)) }

/-- A UIO write of 8 bytes to a trigger word of a peer part (R25, R252). -/
def State.sendPeer (s : State) (pbr word : Nat) (bs : List Byte) : State :=
  { s with dev := { s.dev with sent := .peerTrigger pbr word bs :: s.dev.sent } }

/-- One fire of a plan at this part; none when the number is not reserved (R252). -/
def State.firePlan (s : State) (part m : Nat) : Option State :=
  match tget? s.plans (part * 8192 + m) with
  | none => none
  | some pl =>
    if pl.dropped then some s
    else
      some { s with
        plans := tset s.plans (part * 8192 + m) { pl with fires := pl.fires + 1 }
        dev := { s.dev with sent := .plan 1 pl.key (pl.fires + 1) pl.parts :: s.dev.sent } }

/-- Why a device access is not performed. -/
inductive AccErr where
  /-- DVA_FAULT of a kind (R29) -/
  | dva (kind : Nat)
  /-- a poisoned line (R318) -/
  | poisoned
  /-- no store-log line is free: the line that the store needs (R220) -/
  | logWait (line : Nat)
  deriving DecidableEq, Repr

/-- A read on behalf of a context within one line, once translated (R216, R295, R318): what the context sees of it. Only
pinned and pooled memory is read: a read at a trigger aperture, of this part or of a peer, is DVA_FAULT kind 4 (R216;
log 18). -/
def State.readAt (s : State) (k : Nat) (x : Xlat) (n : Nat) : Except (State × AccErr) (State × List Byte) :=
  match x.target with
  | .mem key =>
    if s.poison.contains (key / 64) then .error (s, .poisoned)
    else .ok (s, s.viewN (s.ctx k) key n)
  | _ => .error (s, .dva 4)

/-- A read on behalf of a context within one line (R216, R295). One that is not performed keeps what its walk set in the
tables (R30). -/
def State.devRead (s : State) (k : Nat) (a : Word) (n : Nat) : Except (State × AccErr) (State × List Byte) :=
  match s.translate (coreOf k) (s.launchOf k) a false with
  | .error kind => .error (s, .dva kind)
  | .ok (s', x) => s'.readAt k x n

/-- A logged store of a restartable context (R219, R220); `w` is the wait it has been in. -/
def State.logStore (s : State) (k : Nat) (w : Option Wait) (a : Word) (x : Xlat) (key : Nat) (bs : List Byte) :
    Except (State × AccErr) State :=
  let c := s.ctx k
  let l : LogLine := ⟨key / 64, x.dpa / 64, [a.toNat / 64], [], x.mtype == 2, x.mtype == 0⟩
  if c.slog.any (fun m => m.line == l.line) || s.logRoom (coreOf k) (s.logSince w) then
    .ok (s.setCtx k { c with slog := logPut c.slog l (key % 64) bs })
  else .error (s, .logWait l.line)

/-- A write that is performed, within one line, once translated: an 8-byte store to the trigger aperture of a partition is a
trigger write, to a peer's a UIO write of that peer (R25, R216, R252). -/
def State.performAt (s : State) (part : Nat) (x : Xlat) (bs : List Byte) : Except (State × AccErr) State :=
  match x.target with
  | .hole => .error (s, .dva 4)
  | .trig m =>
    if bs.length != 8 then .error (s, .dva 4)
    else
      match s.firePlan part m with
      | none => .error (s, .dva 4)
      | some s' => .ok s'
  | .peer pbr m => if bs.length != 8 then .error (s, .dva 4) else .ok (s.sendPeer pbr m bs)
  | .mem key => .ok (s.put key bs)

/-- A write on behalf of a context within one line, once translated: logged for a restartable one, performed for an `effects` one
(R219, R295); what could not be performed is not logged. -/
def State.writeAt (s : State) (k : Nat) (w : Option Wait) (a : Word) (x : Xlat) (bs : List Byte) : Except (State × AccErr) State :=
  if s.effects k then s.performAt (s.gangOf k).part x bs
  else
    match x.target with
    | .hole => .error (s, .dva 4)
    | .trig m =>
      if bs.length != 8 || (s.firePlan (s.gangOf k).part m).isNone then .error (s, .dva 4)
      else s.logStore k w a x ((8192 + (s.gangOf k).part) * 2 ^ 52 + 8 * m) bs
    | .peer pbr m =>
      if bs.length != 8 then .error (s, .dva 4) else s.logStore k w a x ((16384 + pbr) * 2 ^ 52 + 8 * m) bs
    | .mem key => s.logStore k w a x key bs

/-- A write on behalf of a context within one line (R216, R295). -/
def State.devWrite (s : State) (k : Nat) (w : Option Wait) (a : Word) (bs : List Byte) : Except (State × AccErr) State :=
  match s.translate (coreOf k) (s.launchOf k) a true with
  | .error kind => .error (s, .dva kind)
  | .ok (s', x) => s'.writeAt k w a x bs

/-- Read a longer range, line by line (images, descriptors, records). -/
def State.devReadLong (s : State) (k : Nat) (a : Word) : Nat → Except ((State × AccErr) × Word) (State × List Byte)
  | 0 => .ok (s, [])
  | n + 1 =>
    match s.devRead k a 8 with
    | .error e => .error (e, a)
    | .ok (s', bs) =>
      match s'.devReadLong k (a + 8) n with
      | .error e => .error e
      | .ok (s'', r) => .ok (s'', bs ++ r)

/-- Write a longer range of whole doublewords. -/
def State.devWriteLong (s : State) (k : Nat) (a : Word) (ds : List (List Byte)) : Except ((State × AccErr) × Word) State :=
  match ds with
  | [] => .ok s
  | d :: r =>
    match s.devWrite k none a d with
    | .error e => .error (e, a)
    | .ok s' => s'.devWriteLong k (a + 8) r

/-- Publish one log line: only masked bytes are written (R219); a logged trigger store fires its plan, or goes to its
peer. -/
def State.publishLine (s : State) (l : LogLine) : State :=
  if 16384 ≤ l.line / 2 ^ 46 then
    (List.range 8).foldl (fun s i =>
      if (tget? l.bytes (8 * i)).isSome then
        s.sendPeer (l.line / 2 ^ 46 - 16384) ((l.line % 2 ^ 46) * 8 + i) ((List.range 8).map fun j => tgetD l.bytes (8 * i + j) 0)
      else s) s
  else if 8192 ≤ l.line / 2 ^ 46 then
    (List.range 8).foldl (fun s i =>
      if (tget? l.bytes (8 * i)).isSome then
        (s.firePlan (l.line / 2 ^ 46 - 8192) ((l.line % 2 ^ 46) * 8 + i)).getD s
      else s) s
  else
    let s' := l.bytes.foldl (fun s e => { s with mem := mset s.mem (l.line * 64 + e.1) e.2 }) s
    if l.bytes.length = 64 then { s' with poison := s'.poison.filter (· != l.line) } else s'

/-- Publish the log of a context and empty it (R186, R219). -/
def State.publish (s : State) (k : Nat) : State :=
  let p := (s.gangOf k).part
  let s' := (s.ctx k).slog.foldl (fun s l =>
    if l.cached then (s.publishLine l).l2Touch p (64 * l.dpaLine) true else s.publishLine l) s
  (s'.freeLines (coreOf k) (s.ctx k).slog.length).updCtx k fun x => { x with slog := [] }

/-! ### L1D lines (R218, log 13) -/

/-- The key of the line of a DPA of the core's partition in the core's L1D. -/
def l1dKey (core dpa : Nat) : Nat := core * 2 ^ 70 + dpa / 64

/-- Bring the line of a DPA into L1D, which holds 384 KiB: 6,144 lines of 64 bytes (R2). The spec gives no
associativity: a full one gives up a line it does not name, a free value (log 13). -/
def State.l1dTouch (s : State) (core dpa : Nat) (dirty : Bool) : State :=
  { s with l1d := fillWay s.l1d (l1dKey core dpa) 6144 s.clock (fun k => k / 2 ^ 70 == core) dirty }

/-- The dirty line that a fill of L1D has put out goes back to the home slice of its DPA (R39, R40, R42). -/
def State.l1dWriteBack (s : State) (p core : Nat) (old : Tab Bool) : State :=
  match (if s.l1d.length ≤ old.length then old.find? fun e => e.1 / 2 ^ 70 == core && e.2 && (tget? s.l1d e.1).isNone else none) with
  | some e => s.l2Touch p (64 * (e.1 % 2 ^ 70)) true
  | none => s

/-- Write ownership of a line: a store, or a prefetch that asks for it, takes it; another core's access ends it (R218). The
spec gives no protocol for it: DESIGN CHOICE, log 13. -/
def State.ownLine (s : State) (core key : Nat) (own : Bool) : State :=
  if own then { s with owners := tset s.owners (key / 64) core }
  else if tgetD s.owners (key / 64) core = core then s
  else { s with owners := tdel s.owners (key / 64) }

/-- An access of a normal page by the CP: an L1D miss goes to the line's home slice, and the line is then in L1D (R27,
R39). -/
def State.cacheLine (s : State) (p core dpa key : Nat) (dirty own : Bool) : State :=
  let s1 := if (tget? s.l1d (l1dKey core dpa)).isSome then s else s.l2Touch p dpa false
  ((s1.l1dTouch core dpa dirty).l1dWriteBack p core s.l1d).ownLine core key own

/-- CLN: a dirty line becomes valid and clean (R218). -/
def State.l1dClean (s : State) (core dpa : Nat) : State :=
  match tget? s.l1d (l1dKey core dpa) with
  | some true => { s with l1d := tset s.l1d (l1dKey core dpa) false }
  | _ => s

end Sys2Proof.Machine
end

