-- ==== Sys2Proof/Machine/TileOps.lean ====
section
/-! DEFINITION. Tile space: tile shapes (R71, R72), the directory and the pager's transfers (R73 to R80), room
(R83 to R85), tile states (R86), sealing and freeing (R88, R89), handles (R94). -/

namespace Sys2Proof.Machine

/-! ### Shapes -/

/-- The row pitch in bytes: cols × size rounded up to 32 (R71). -/
def pitchOf (fmt cols : Nat) : Nat := (cols * fmtSize fmt + 31) / 32 * 32

/-- The bytes of a tile: rows × pitch, or 8,452 for nq4 (R71, R72). -/
def tileBytes (fmt rows cols : Nat) : Nat := if fmt = 10 then 8452 else rows * pitchOf fmt cols

/-- The pages of a tile (R71); an nq4 tile takes 5 (R72). -/
def tilePages (fmt rows cols : Nat) : Nat := if fmt = 10 then 5 else (rows * pitchOf fmt cols + 2047) / 2048

/-- The atom of a tile (R94). -/
def tileAtom (fmt rows cols : Nat) (writable pinned : Bool) (page : Nat) : Word :=
  BitVec.ofNat 64 (9 * 2 ^ 60 + fmt * 2 ^ 55 + (rows - 1) * 2 ^ 48 + (cols - 1) * 2 ^ 41
    + (if writable then 2 ^ 40 else 0) + (if pinned then 2 ^ 39 else 0) + page)

/-- The fields of an atom (R94). -/
def atomFmt (a : Word) : Nat := (a.extractLsb' 55 5).toNat
def atomRows (a : Word) : Nat := (a.extractLsb' 48 7).toNat + 1
def atomCols (a : Word) : Nat := (a.extractLsb' 41 7).toNat + 1
def atomWritable (a : Word) : Bool := a.getLsbD 40
def atomPinned (a : Word) : Bool := a.getLsbD 39
def atomPage (a : Word) : Nat := (a.extractLsb' 0 37).toNat

/-- The key of a page of a launch. -/
def pageKey (launch page : Nat) : Nat := launch * 2 ^ 37 + page

/-- The launch of a page key, the page of a page key. -/
def keyLaunch (k : Nat) : Nat := k / 2 ^ 37
def keyPage (k : Nat) : Nat := k % 2 ^ 37

/-- The tile-space address of a byte of a tile (R70). -/
def tileAddr (key off : Nat) : Word := BitVec.ofNat 64 (keyPage key * 2048 + off)

/-- The pitch of the whole tile under a handle: a view keeps the parent's (R71, R94). -/
def Handle.pitch (h : Handle) : Nat := pitchOf (atomFmt h.atom) (h.pcols.toNat + 1)

/-- The byte offset of a view's element (i, j) within its tile. -/
def Handle.offset (h : Handle) (i j : Nat) : Nat :=
  (h.vrow.toNat + i) * h.pitch + (h.vcol.toNat + j) * fmtSize (atomFmt h.atom)

/-- A handle of a whole tile (R94). -/
def Handle.whole (a : Word) : Handle := { bound := true, atom := a, pcols := a.extractLsb' 41 7 }

/-! ### Homes, STT, frames -/

/-- The home slice of a page: map slot p mod D (R42, R73). -/
def State.homeSlice (s : State) (key : Nat) : Nat :=
  let m := (s.part (keyLaunch key / 4)).map
  m.getD (keyPage key % (if m.length = 0 then 1 else m.length)) 0

/-- Whether a page belongs to a tile that is FILLING (R76, R83). -/
def State.pageFilling (s : State) (key : Nat) : Bool :=
  s.tiles.any fun t => t.2.st == .filling && decide (t.1 ≤ key) && decide (key < t.1 + tilePages t.2.fmt t.2.rows t.2.cols)

/-- Whether a core holds a page in a pinned frame (R76, R85). -/
def State.pagePinned (s : State) (core key : Nat) : Bool :=
  s.frames.any fun f => f.1 / 4096 == core && (match f.2 with | .page k (_ :: _) => k == key | _ => false)

/-- The STT key of a page on a core. -/
def sttKey (core key : Nat) : Nat := core * 2 ^ 44 + key

/-- Fill the STT of a core (R76): 8 ways in the set of the page; a full set replaces a way the spec does not name
(log 12). An entry says whether its local frame is pinned and whether its tile is FILLING. -/
def State.sttFill (s : State) (core key : Nat) (e0 : SttEnt) : State :=
  let e := { e0 with pinned := !e0.remote && s.pagePinned core key, filling := s.pageFilling key }
  let same := s.stt.filter fun o => o.1 / 2 ^ 44 == core && o.1 % 2 ^ 10 == key % 2 ^ 10 && o.1 != sttKey core key
  if same.length < 8 then { s with stt := tset s.stt (sttKey core key) e }
  else
    let out := (same.getD (Config.replaceWay s.freeCtr % 8) (0, e)).1
    { s with stt := tset (tdel s.stt out) (sttKey core key) e, freeCtr := s.freeCtr + 1 }

/-- Drop the STT entries of a page in every core. -/
def State.sttDrop (s : State) (key : Nat) : State := { s with stt := s.stt.filter fun e => e.1 % 2 ^ 44 != key }

/-- Frames in use on a core (R83, R305). -/
def State.usedFrames (s : State) (core : Nat) : Nat :=
  s.frames.foldl (fun n e => if e.1 / 4096 = core then n + 1 else n) 0

/-- The lowest key free in a table from a start on. -/
def lowestFree {α : Type} (t : Tab α) (base : Nat) : Nat → Nat → Option Nat
  | _, 0 => none
  | i, f + 1 => if (tget? t (base + i)).isNone then some i else lowestFree t base (i + 1) f

/-- The lowest free frame of a core (the spec names none; log 12). -/
def State.freeFrame (s : State) (core : Nat) : Option Nat := lowestFree s.frames (core * 4096) 0 4096

/-- Frames of a core in use or held back for a gang that cannot start: no tile page takes one that is held back (R307; that the
pager's 64 free frames of R83 are counted beside those is a DESIGN CHOICE, log 53). -/
def State.takenFrames (s : State) (core : Nat) : Nat := s.usedFrames core + (s.core core).framesHeld

/-- The free frame of a core that a tile page takes (R77, R307). -/
def State.pageFrame (s : State) (core : Nat) : Option Nat := if s.takenFrames core < 4096 then s.freeFrame core else none

/-- Spill frames that a slice has (R40). -/
def State.spillFrames (s : State) (part slice : Nat) : Nat := spillMiB ((s.part part).splitOf slice) * 512

/-- The free spill frame of lowest index of a slice (R84). -/
def State.freeSpill (s : State) (part slice : Nat) : Option Nat :=
  lowestFree s.spills (slice * 6144) 0 (s.spillFrames part slice)

/-- The slices of the current map in a cluster, ascending (R84). -/
def State.clusterSlices (s : State) (part cluster : Nat) : List Nat :=
  (List.range 4).filterMap fun j =>
    if (s.part part).map.contains (cluster * 4 + j) then some (cluster * 4 + j) else none

/-- The free spill frame of a cluster: lowest slice, lowest index (R84). -/
def State.freeClusterSpill (s : State) (part cluster : Nat) : Option (Nat × Nat) :=
  (s.clusterSlices part cluster).findSome? fun sl => (s.freeSpill part sl).map fun f => (sl, f)

/-- A directory entry. -/
def State.dirE (s : State) (key : Nat) : DirEnt := tgetD s.dir key {}

/-- Write a directory entry. -/
def State.setDir (s : State) (key : Nat) (e : DirEnt) : State := { s with dir := tset s.dir key e }

/-- Write a page's data to a backing slot (R84). A slot whose DPA reaches no memory takes the page and no byte is written
(DESIGN CHOICE: the spec says nothing of it; log 66). -/
def State.fillSlot (s : State) (key i : Nat) : State :=
  let e := s.dirE key
  let s1 := s.setDir key { e with backSlot := some i, backed := true }
  match s1.resolve (keyLaunch key / 4) ((s.launch (keyLaunch key)).backing + 2048 * i) with
  | some (.mem a) => { s1 with mem := msetN s1.mem a (mgetN e.data 0 2048) }
  | _ => s1

/-- Write a page to a slot of the launch's backing region (R84): its own, or the lowest free slot (log 12). -/
def State.writeBacking (s : State) (key : Nat) : Option State :=
  let l := s.launch (keyLaunch key)
  match (s.dirE key).backSlot with
  | some i => some (if (s.dirE key).backed then s else s.fillSlot key i)
  | none =>
    match (List.range l.backSlots).find? fun i => !l.backUsed.contains i with
    | none => none
    | some i => some ((s.setLaunch (keyLaunch key) { l with backUsed := i :: l.backUsed }).fillSlot key i)

/-- The spilled pages of some slices, as (order, frame, page), the oldest first; pages on their way elsewhere stay. -/
def State.spilledPages (s : State) (slices : List Nat) : List (Nat × Nat × Nat) :=
  sortBy (fun (x y : Nat × Nat × Nat) => decide (x.1 < y.1)) (s.spills.filterMap fun x =>
    match x.2 with
    | .page key o => if slices.contains (x.1 / 6144) && !s.xfers.any (·.page == key) then some (o, x.1, key) else none
    | .directory => none)

/-- Move a spilled page to backing and free its frame (R75, R84). -/
def State.unspill (s : State) (z : Nat × Nat × Nat) : Option State :=
  match s.writeBacking z.2.2 with
  | none => none
  | some s1 =>
    let e := s1.dirE z.2.2
    some ({ s1 with spills := tdel s1.spills z.2.1 }.setDir z.2.2
      { e with loc := match e.loc with | .spill _ _ => .backing | l => l })

/-- Move the oldest spilled page of a cluster's slices to backing (R84): where its launch has no free slot, spilled pages
stay where they are. -/
def State.spillToBacking (s : State) (slices : List Nat) : Option State := (s.spilledPages slices).head?.bind s.unspill

/-- A free spill frame of a cluster, made by moving the oldest spilled page to backing if need be (R84). -/
def State.roomInCluster (s : State) (part cluster : Nat) : Option (State × Nat × Nat) :=
  match s.freeClusterSpill part cluster with
  | some (sl, f) => some (s, sl, f)
  | none =>
    match s.spillToBacking (s.clusterSlices part cluster) with
    | none => none
    | some s1 => (s1.freeClusterSpill part cluster).map fun x => (s1, x.1, x.2)

/-- Entries of the directory whose home is a slice, and blocks held there (R75). -/
def State.homed (s : State) (part slice : Nat) : Nat :=
  s.dir.foldl (fun n e => if keyLaunch e.1 / 4 = part ∧ s.homeSlice e.1 = slice then n + 1 else n) 0

def State.dirBlocks (s : State) (slice : Nat) : Nat :=
  s.spills.foldl (fun n e => if e.1 / 6144 = slice ∧ e.2 = .directory then n + 1 else n) 0

/-- Room for one more directory entry in a slice: a block is there, or a spill frame is free, or that of the oldest spilled
page that can go to backing; none when the slice holds no frame that can be freed (R75: TILE_FAULT kind 5). -/
def State.dirRoom (s : State) (part slice : Nat) : Option State :=
  if s.homed part slice < 64 * s.dirBlocks slice then some s
  else
    match s.freeSpill part slice with
    | some f => some { s with spills := tset s.spills (slice * 6144 + f) .directory }
    | none =>
      match (s.spilledPages [slice]).findSome? s.unspill with
      | none => none
      | some s1 => (s1.freeSpill part slice).map fun f =>
          { s1 with spills := tset s1.spills (slice * 6144 + f) .directory }

/-! ### Bringing a page in (R77) -/

/-- What a page access meets. A fault carries the trap code and kind, and the page. -/
inductive PageRes where
  | ok (s : State)
  | fault (code kind : Nat) (key : Nat)
  | wait (s : State)
  deriving Repr

/-- The core that now runs the writer context of an open page (R77). -/
def State.writerCore (s : State) (e : DirEnt) : Nat :=
  match (s.gang e.owner).members[e.wrank]? with
  | some k => coreOf k
  | none => e.wcore

/-- A core's miss waits for the move of an open page that is under way (R74, R77). -/
def State.awaitMove (s : State) (key c : Nat) : State :=
  { s with xfers := s.xfers.map fun x =>
      if x.page = key ∧ x.open_ ∧ c ∉ x.needs then { x with needs := x.needs ++ [c] } else x }

/-- Start a transfer for a miss on core `c` unless one of the page is under way: of a sealed page toward that core, of an open
page toward its writer's core (R77, R90). -/
def State.startXfer (s : State) (key : Nat) (from_ : Loc) (core : Nat) (open_ : Bool) (c : Nat) : State :=
  if s.xfers.any fun x => x.page == key && (open_ || x.core == core) then s.awaitMove key c
  else { s with xfers := s.xfers ++ [⟨key, from_, core, open_, s.clock + Config.pagerTime s.freeCtr, [c]⟩], freeCtr := s.freeCtr + 1 }

/-- Set the referenced bit of an STT entry (R83). -/
def State.sttRef (s : State) (core key : Nat) : State :=
  match tget? s.stt (sttKey core key) with
  | some e => { s with stt := tset s.stt (sttKey core key) { e with referenced := true } }
  | none => s

/-- The frame of a core that holds a page. -/
def State.frameOf (s : State) (core key : Nat) : Option Nat :=
  (s.frames.find? fun f => f.1 / 4096 == core && (match f.2 with | .page k _ => k == key | _ => false)).map (·.1 % 4096)

/-- Whether two cores lie on one die: 16 cores a die (R38). -/
def sameDie (c d : Nat) : Bool := c / 16 == d / 16

/-- The source of a copy of a sealed page for a core, in the order of R78: a copy in its cluster, the spill frame, a copy on
its die, a copy on another die, the backing slot. -/
def State.nearest (s : State) (key c : Nat) : Loc :=
  let e := s.dirE key
  let holders := (List.range 64).filter fun d => e.copies.getLsbD d
  let at_ := fun (d : Nat) => Loc.scratch d ((s.frameOf d key).getD 0)
  match holders.find? (fun d => d / 4 == c / 4), e.loc, holders.find? (sameDie c), holders.head? with
  | some d, _, _, _ => at_ d
  | none, .spill sl f, _, _ => .spill sl f
  | none, _, some d, _ => at_ d
  | none, _, none, some d => at_ d
  | none, l, none, none => if e.backed then .backing else l

/-- The STT entry of a core's miss on an open page that lies in its writer's core `w`: local if the core is `w`, remote if not
(R77). -/
def State.sttOpen (s : State) (key w f : Nat) (c : Nat) : State := s.sttFill c key ⟨false, w == c, w != c, w, f, true, false, false⟩

/-- The directory walk of R77 on an STT miss of a page by a unit on core `c`, of gang `g`. Bit [32] of the STT entry that it fills, an
open page of a gang on this core, is set where the writer's core is this core: R76 can also mean any core that runs a member of the
gang (DESIGN CHOICE, log 66). -/
def State.walkDir (s : State) (c key g : Nat) (write : Bool) : PageRes :=
  match tget? s.dir key with
  | none => .fault 5 1 key
  | some e =>
    if e.lost then .fault 5 7 key
    else if e.sealed then
      if write then .fault 6 0 key
      else if e.loc = .moving then .wait s
      else if e.copies.getLsbD c then
        .ok (s.sttFill c key ⟨true, false, false, c, (s.frameOf c key).getD 0, true, false, false⟩)
      else .wait (s.startXfer key (s.nearest key c) c false c)
    else if e.owner != g then .fault 5 2 key
    else if e.loc = .moving then .wait (s.awaitMove key c)
    else
      let w := s.writerCore e
      match e.loc with
      | .scratch h f =>
        if h = w then .ok (s.sttOpen key w f c)
        else .wait ((s.startXfer key e.loc w true c).setDir key { e with loc := .moving })
      | _ => .wait (s.startXfer key e.loc w true c)

/-- An access of a page: an STT hit sets the referenced bit, a miss walks (R76, R77). An entry that names the core the
writer has left is no hit: the first touch moves the page (R79, R90). -/
def State.pageAccess (s : State) (c key g : Nat) (write : Bool) : PageRes :=
  match tget? s.stt (sttKey c key) with
  | some e =>
    if write && e.sealed then .fault 6 0 key
    else if !e.sealed && (s.dirE key).owner != g then .fault 5 2 key
    else if !e.sealed && s.writerCore (s.dirE key) != e.core then s.walkDir c key g write
    else .ok (s.sttRef c key)
  | none => s.walkDir c key g write

/-- A transfer ends without its move: a page in a move stays where it was. -/
def State.dropXfer (s : State) (x : Xfer) : State :=
  let s1 := { s with xfers := s.xfers.filter (· != x) }
  let e := s.dirE x.page
  if e.loc = .moving ∧ x.open_ then s1.setDir x.page { e with loc := x.from_ } else s1

/-- A page arrives in a free frame of the core, and the cores whose misses wait for it fill their STTs (R77 to R80); without a free
frame that it may take the transfer waits (R83, R307). An open page whose writer has gone to another core meanwhile is left where it was, and the next
touch moves it to that core (R79). An open page fetched from backing keeps its slot there, and its directory entry no longer says
that the slot holds it: R84 speaks of the slots of sealed pages only (DESIGN CHOICE, log 66). -/
def State.arrive (s : State) (x : Xfer) : State :=
  match tget? s.dir x.page with
  | none => { s with xfers := s.xfers.filter (· != x) }
  | some e =>
    if !e.sealed && s.writerCore e != x.core then s.dropXfer x
    else
    match s.pageFrame x.core with
    | none => s
    | some f =>
      let s1 := { s with xfers := s.xfers.filter (· != x)
                         frames := tset s.frames (x.core * 4096 + f) (.page x.page []) }
      if e.sealed then
        let e' := { e with copies := e.copies ||| BitVec.ofNat 64 (2 ^ x.core) }
        (s1.setDir x.page e').sttFill x.core x.page ⟨true, false, false, x.core, f, true, false, false⟩
      else
        let s2 := match (if e.loc = .moving then x.from_ else e.loc) with
          | .scratch h f0 => { s1.sttDrop x.page with frames := tdel s1.frames (h * 4096 + f0) }
          | .spill sl f0 => { s1 with spills := tdel s1.spills (sl * 6144 + f0) }
          | _ => s1
        x.needs.foldl (fun s c => s.sttOpen x.page x.core f c)
          (s2.setDir x.page { e with loc := .scratch x.core f, wcore := x.core, backed := false })

/-- Every page of a tile accessed from a core: the first fault, else a wait if any page waits (TPIN, TTOUCH). -/
def State.pagesAccess (s : State) (c : Nat) (keys : List Nat) (g : Nat) (write : Bool) : PageRes :=
  match keys with
  | [] => .ok s
  | k :: r =>
    match s.pageAccess c k g write with
    | .fault a b c => .fault a b c
    | .ok s1 => s1.pagesAccess c r g write
    | .wait s1 =>
      match s1.pagesAccess c r g write with
      | .ok s2 => .wait s2
      | x => x

/-! ### Data -/

/-- Bytes of a tile from its first page on (log 11). -/
def State.tileGet (s : State) (key off n : Nat) : List Byte := mgetN (s.dirE (key + off / 2048)).data (off % 2048) n

/-- Write bytes of a tile within one page. -/
def State.tilePut (s : State) (key off : Nat) (bs : List Byte) : State :=
  let k := key + off / 2048
  let e := s.dirE k
  s.setDir k { e with data := msetN e.data (off % 2048) bs, backed := false }

/-! ### States, freeing, sealing -/

/-- The tile of a page key. -/
def State.tile? (s : State) (key : Nat) : Option Tile := tget? s.tiles key

/-- Set the event flag of every context that holds a handle naming a tile (R232). -/
def State.tileEvent (s : State) (key : Nat) : State :=
  { s with ctxs := s.ctxs.map fun e =>
      if e.2.status != .free && s.launchOf e.1 == keyLaunch key
          && e.2.h.toList.any (fun h => h.bound && atomPage h.atom == keyPage key) then
        (e.1, { e.2 with event := true })
      else e }

/-- Change the state of a tile (R86, R87). -/
def State.setTileSt (s : State) (key : Nat) (st : TileSt) : State :=
  match s.tile? key with
  | none => s
  | some t =>
    if t.st = st then s
    else
      let mine := fun (k : Nat) => decide (key ≤ k % 2 ^ 44) && decide (k % 2 ^ 44 < key + tilePages t.fmt t.rows t.cols)
      let stt : Tab SttEnt := s.stt.map fun o => if mine o.1 then (o.1, { o.2 with filling := st == .filling }) else o
      State.tileEvent { s with tiles := tset s.tiles key { t with st := st }, stt := stt } key

/-- Free one page: entry invalid, frames, spill frame and backing slot returned, copies dropped (R88). The directory block
of the entry stays a block of its slice until a map change rebuilds the blocks (DESIGN CHOICE: R75 gives none back; log
66). -/
def State.freePage (s : State) (key : Nat) : State :=
  let e := s.dirE key
  let l := s.launch (keyLaunch key)
  let s1 := { s.sttDrop key with
    dir := tdel s.dir key
    xfers := s.xfers.filter (·.page != key)
    frames := s.frames.filter fun f => match f.2 with | .page k _ => k != key | _ => true
    spills := s.spills.filter fun f => match f.2 with | .page k _ => k != key | _ => true }
  match e.backSlot with
  | none => s1
  | some i => s1.setLaunch (keyLaunch key) { l with backUsed := l.backUsed.filter (· != i) }

/-- Free a tile. -/
def State.freeTile (s : State) (key : Nat) : State :=
  match s.tile? key with
  | none => s
  | some t =>
    let s1 := (List.range (tilePages t.fmt t.rows t.cols)).foldl (fun s i => s.freePage (key + i)) s
    { s1 with tiles := tdel s1.tiles key }

/-- The open tiles of a gang, by first page. -/
def State.openTiles (s : State) (g : Nat) : List Nat :=
  (s.dir.filter fun e => !e.2.sealed && e.2.head && e.2.owner == g).map (·.1)

/-- Seal one page at commit (R89). -/
def sealPage (e : DirEnt) (pinned : Bool) : DirEnt :=
  { e with
    sealed := true, owner := 0, wcore := 0, wctx := 0, wrank := 0, pinned := pinned
    copies := match e.loc with | .scratch c _ => BitVec.ofNat 64 (2 ^ c) | _ => 0 }

/-- Seal a tile (R89): every move of its pages ends first; one that finds no free frame ends where it began (DESIGN CHOICE,
log 66). -/
def State.sealTile (s : State) (key : Nat) (pinned : Bool) : State :=
  match s.tile? key with
  | none => s
  | some t =>
    let keys := (List.range (tilePages t.fmt t.rows t.cols)).map (key + ·)
    let s1 := (s.xfers.filter fun x => keys.contains x.page && x.open_).foldl (fun s x => (s.arrive x).dropXfer x) s
    let s2 := keys.foldl (fun s k =>
      let e := s.dirE k
      { s.setDir k (sealPage e pinned) with
        stt := s.stt.map fun o => if o.1 % 2 ^ 44 == k then (o.1, { o.2 with sealed := true, openHere := false }) else o }) s1
    -- remote entries of a sealed page are no copies of their core (R74)
    let s3 := { s2 with stt := s2.stt.filter fun o => !(keys.contains (o.1 % 2 ^ 44) && o.2.remote) }
    s3.setTileSt key .ready

/-- Change the reference count of a sealed tile by one atom; a count of zero frees its pages at the end (R88). -/
def State.addRef (s : State) (key : Nat) (up : Bool) : State :=
  match tget? s.dir key with
  | none => s
  | some e => s.setDir key { e with refs := if up then e.refs + 1 else e.refs - 1 }

/-! ### Pins (R85) -/

/-- Pinned frames of a core. -/
def State.pinnedFrames (s : State) (core : Nat) : Nat :=
  s.frames.foldl (fun n f =>
    if f.1 / 4096 = core then match f.2 with | .page _ (_ :: _) => n + 1 | _ => n else n) 0

/-- The mark that keeps a sealed pinned tile's frame until its count reaches zero (R85). -/
def sealPin : Nat := 2 ^ 20

/-- The pinned bits of the STT entries follow the frames (R76). -/
def State.sttPins (s : State) : State :=
  { s with stt := s.stt.map fun (o : Nat × SttEnt) => (o.1, { o.2 with pinned := !o.2.remote && s.pagePinned (o.1 / 2 ^ 44) (o.1 % 2 ^ 44) }) }

/-- Pin the frame of a page for a holder. -/
def State.pinPage (s : State) (core key holder : Nat) : State :=
  State.sttPins { s with frames := s.frames.map fun f =>
      if f.1 / 4096 = core then
        match f.2 with
        | .page k pins => if k = key ∧ !pins.contains holder then (f.1, .page k (holder :: pins)) else f
        | _ => f
      else f }

/-- Release the pins of a holder on some pages, or on all (no list). -/
def State.unpin (s : State) (holder : Nat) (keys : Option (List Nat)) : State :=
  State.sttPins { s with frames := s.frames.map fun f =>
      match f.2 with
      | .page k pins =>
        if (match keys with | none => true | some l => l.contains k) then (f.1, .page k (pins.filter (· != holder))) else f
      | _ => f }

/-- The page keys of the tile that starts at a key. -/
def State.tileKeys (s : State) (key : Nat) : List Nat :=
  match s.tile? key with
  | none => []
  | some t => (List.range (tilePages t.fmt t.rows t.cols)).map (key + ·)

/-! ### Eviction (R83) -/

/-- Evict a frame of a core that holds a page: drop a copy, or write it to a spill frame of the cluster; nothing
when there is no room (R83, R84). Of several copies that remain, that in the core of the lowest number becomes the authoritative
one: DESIGN CHOICE, R74 names none, log 12. -/
def State.evict (s : State) (core frame key : Nat) : State :=
  let e := s.dirE key
  let noCopy := e.copies &&& ~~~(BitVec.ofNat 64 (2 ^ core))
  let gone := fun (s : State) =>
    { s with frames := tdel s.frames (core * 4096 + frame), stt := s.stt.filter fun o =>
        o.1 % 2 ^ 44 != key || (o.1 / 2 ^ 44 != core && !o.2.remote) }
  let onSpill := match e.loc with | .spill _ _ => true | _ => false
  if e.sealed && (noCopy != 0 || onSpill || e.backed || e.loc == .none) then
    let loc := match e.loc with
      | .scratch c _ =>
        if c = core then
          (if noCopy != 0 then
            match (List.range 64).find? fun c' => noCopy.getLsbD c' with
            | some c' => .scratch c' ((s.frameOf c' key).getD 0)
            | none => .none
          else if e.backed then .backing else .none)
        else e.loc
      | l => l
    (gone s).setDir key { e with copies := noCopy, loc := loc }
  else
    match s.roomInCluster (keyLaunch key / 4) (core / 4) with
    | none => s
    | some (s1, sl, f) =>
      let e1 := s1.dirE key
      let s2 := (gone s1).setDir key { e1 with copies := noCopy, loc := .spill sl f }
      { s2 with spills := tset s2.spills (sl * 6144 + f) (.page key s2.spillNo), spillNo := s2.spillNo + 1 }

/-- Whether the clock must skip a frame: pinned, filling, or its page in a move (R83). -/
def State.clockSkips (s : State) (f : Frame) : Bool :=
  match f with
  | .reserved _ => true
  | .page k pins =>
    !pins.isEmpty || s.xfers.any (·.page == k) || (s.dirE k).loc == .moving || s.pageFilling k

/-- The second-chance clock of a core, from its hand on, until a frame is evicted or it has gone round twice (R83). The
referenced bit is that of the core's own STT entry: a member's access from another core sets the bit of that core's entry, and
a frame without an entry counts as not referenced (DESIGN CHOICE: R83 does not say which entry's bit it reads; log 66). -/
def State.clockFrom (s : State) (core : Nat) : Nat → State
  | 0 => s
  | fuel + 1 =>
    let i := (s.core core).hand % 4096
    let s1 := s.updCore core fun c => { c with hand := (i + 1) % 4096 }
    match tget? s.frames (core * 4096 + i) with
    | some (.page k pins) =>
      if s.clockSkips (.page k pins) then s1.clockFrom core fuel
      else
        match tget? s.stt (sttKey core k) with
        | some e =>
          if e.referenced then
            { s1 with stt := tset s1.stt (sttKey core k) { e with referenced := false } }.clockFrom core fuel
          else s1.evict core i k
        | none => s1.evict core i k
    | _ => s1.clockFrom core fuel

/-! ### Allocation (R70, R237) -/

/-- Enter one open page in the directory: location none (R237). -/
def State.newPage (s : State) (key g k rank pages : Nat) (head : Bool) : Option State :=
  match s.dirRoom (keyLaunch key / 4) (s.homeSlice key) with
  | none => none
  | some s1 =>
    some (s1.setDir key
      { head := head, wcore := coreOf k, wctx := k % 8, wrank := rank, pages := if head then pages - 1 else 0, owner := g })

/-- Enter the pages of a new open tile; none where a directory block is missing. -/
def State.newPages (s : State) (key g k rank pages i : Nat) : Nat → Option State
  | 0 => some s
  | n + 1 =>
    match s.newPage (key + i) g k rank pages (i == 0) with
    | none => none
    | some s1 => s1.newPages key g k rank pages (i + 1) n

end Sys2Proof.Machine
end

