-- ==== Sys2Proof/Machine/MemAccess.lean ====
section
/-! DEFINITION. The accesses of memory elements (R276 to R279): what trying one comes to, and what performing it leaves of
the element's registers. -/

namespace Sys2Proof.Machine
open Sys2Proof

/-- The window of a memory element's pending access. -/
def Image.winOf (image : Image) (m : MemPend) : Win := image.wins.getD (m.word.aux.toNat % 8) {}

/-- What trying an access comes to: performed with the value read or stored, still waiting, or the end of the gang
with a code. -/
inductive Access where
  | done (s : State) (v : W32)
  | wait (s : State) (why : WaitWhy) (dva : Bool)
  | fail (s : State) (code : Nat)

/-- The value a load delivers: sign-extended for int8 and int16, the link of e.ldl added (R277). -/
def loadVal (m : MemPend) (bs : List Byte) : W32 :=
  let n := ofBytes bs
  if m.op = 2 then BitVec.ofNat 32 n + m.word.imm.signExtend 32
  else if m.word.aux.toNat / 8 ≤ 1 then BitVec.ofInt 32 (intOf (8 * bs.length) true n)
  else BitVec.ofNat 32 n

/-- An access through a TILE window (R276, R279). -/
def State.tileWinAccess (s : State) (core : Nat) (im : Image) (m : MemPend) (w : Win) (n : Nat) : Access :=
  let key := pageKey (s.launchOf im.ctx) (atomPage w.handle.atom)
  let a := (w.base.toInt + m.off).toNat
  match s.tile? key with
  | none => .fail s 5
  | some u =>
    let pitch := pitchOf u.fmt u.cols
    let pad := u.fmt != 10 && decide (u.cols * fmtSize u.fmt < a % (if pitch = 0 then 1 else pitch) + n)
    if m.op = 1 ∧ (pad || decide (tileBytes u.fmt u.rows u.cols < a + n)) then .fail s 5
    else if m.op = 1 ∧ u.st ≠ .empty then .fail s 6
    else if m.op ≠ 1 ∧ (u.st = .filling ∨ u.st = .draining) then .wait s .other false
    else
      match s.pageAccess core (key + a / 2048) (s.ctx im.ctx).gang (m.op == 1) with
      | .fault code _ _ => .fail s code
      | .wait s1 => .wait s1 (.page (tileAddr key a).toNat) false
      | .ok s1 =>
        if m.op = 1 then .done (s1.tilePut key a (toBytes m.value.toNat n)) m.value
        else .done s1 (loadVal m (s1.tileGet key a n))

/-- The line that an access through a DVA window uses, in the cache part of its home slice: a memory element's accesses
pass L1D by (R39). -/
def State.noteWin (s : State) (ctx : Nat) (a : Word) (dirty : Bool) : State :=
  match s.translate (coreOf ctx) (s.launchOf ctx) a false with
  | .ok (s', ⟨dpa, .mem _, 0⟩) => s'.l2Touch (s.launchOf ctx / 4) dpa dirty
  | .ok (s', _) => s'
  | _ => s

/-- An access through a DVA window: a mapping that is gone waits for the walker's retry (R32, R277, R318). -/
def State.dvaWinAccess (s : State) (im : Image) (m : MemPend) (w : Win) (n : Nat) : Access :=
  let a := w.base + BitVec.ofInt 64 m.off
  if m.op = 1 then
    match s.devWrite im.ctx (if m.why.isLog then some ⟨m.why, m.since⟩ else none) a (toBytes m.value.toNat n) with
    | .ok s1 => .done (s1.noteWin im.ctx a true) m.value
    | .error (s1, .logWait line) => .wait s1 (.storeLog line) false
    | .error (s1, .poisoned) => .fail s1 0x0B
    | .error (s1, .dva _) => .wait s1 .other true
  else
    match s.devRead im.ctx a n with
    | .ok (s1, bs) => .done (s1.noteWin im.ctx a false) (loadVal m bs)
    | .error (s1, .logWait line) => .wait s1 (.storeLog line) false
    | .error (s1, .poisoned) => .fail s1 0x0B
    | .error (s1, .dva _) => .wait s1 .other true

/-- Try an access of a memory element of a core under an image (R276): bounds, alignment, then the window's kind. -/
def State.tryAccess (s : State) (core : Nat) (im : Image) (m : MemPend) : Access :=
  let w := im.winOf m
  let n : Nat := 2 ^ (m.word.cond.toNat % 4)
  if m.off < 0 ∨ (w.extent : Int) < m.off + n then .fail s (if w.isDva then 4 else 5)
  else if (w.base.toInt + m.off) % n ≠ 0 then .fail s 3
  else if w.isDva then s.dvaWinAccess im m w n
  else s.tileWinAccess core im m w n

/-- An element whose oldest pending access has been performed with a result: the local and the previous-result register take it,
but for one that a later firing has written meanwhile (R122, R267). -/
def Elem.performed (e : Elem) (v : W32) : Elem :=
  match e.mem with
  | [] => e
  | m :: r => { e with mem := r, lreg := if m.setL then v else e.lreg, prev := if m.setP then v else e.prev }

/-- An element whose oldest pending access is over without a result. -/
def Elem.lost (e : Elem) : Elem := { e with mem := e.mem.tail }

/-- An element whose oldest pending access waits. -/
def Elem.delayed (e : Elem) (why : WaitWhy) (dva : Bool) (now : Nat) : Elem :=
  match e.mem with
  | [] => e
  | m :: r =>
    { e with mem := { m with why := why, dva := dva, since := if m.why = why ∧ m.dva = dva then m.since else now } :: r }

/-- Pending accesses whose result a later firing's register writes have overtaken (R122). -/
def Elem.overtaken (e : Elem) (l p : Bool) : Elem :=
  { e with mem := e.mem.map fun m => { m with setL := m.setL && !l, setP := m.setP && !p } }

end Sys2Proof.Machine
end

