-- ==== Sys2Proof/Machine/GangOps.lean ====
section
/-! DEFINITION. Regions, engines, barriers and gangs: which quadrant an element, engine or island lies in (R52,
R114, R124), halting an engine (R65, R256), killing a region (R139, R153), and the ways a gang ends (R81, R246,
R310, R311). -/

namespace Sys2Proof.Machine

/-! ### Quadrants -/

/-- The first engine of a quadrant (R52). -/
def engBase (q : Nat) : Nat := match q with | 0 => 0 | 1 => 8 | 2 => 4 | _ => 12

/-- The quadrant of an engine (R52). -/
def engQuad (e : Nat) : Nat := if e < 4 then 0 else if e < 8 then 2 else if e < 12 then 1 else 3

/-- The element key of an element. -/
def elemKey (core row col : Nat) : Nat := core * 4096 + row * 64 + col

/-- An element's record. -/
def State.elem (s : State) (k : Nat) : Elem := tgetD s.elems k {}

/-- Write an element's record. -/
def State.setElem (s : State) (k : Nat) (e : Elem) : State := { s with elems := tset s.elems k e }

/-- An engine's record. -/
def State.engine (s : State) (k : Nat) : Engine := tgetD s.engines k {}

/-- Write an engine's record. -/
def State.setEngine (s : State) (k : Nat) (e : Engine) : State := { s with engines := tset s.engines k e }

/-- The input queue on a side. -/
def Elem.queue (e : Elem) (d : Dir) : Queue := match d with | .n => e.qN | .e => e.qE | .s => e.qS | .w => e.qW

/-- Write the input queue on a side. -/
def Elem.setQueue (e : Elem) (d : Dir) (q : Queue) : Elem :=
  match d with
  | .n => { e with qN := q } | .e => { e with qE := q } | .s => { e with qS := q } | .w => { e with qW := q }

/-- The number of a side in the order N, E, S, W. -/
def Dir.num (d : Dir) : Nat := match d with | .n => 0 | .e => 1 | .s => 2 | .w => 3

/-- The side of a number (R119, R132). -/
def dirOf (i : Nat) : Dir := match i with | 0 => .n | 1 => .e | 2 => .s | _ => .w

/-- The opposite side. -/
def Dir.opp (d : Dir) : Dir := match d with | .n => .s | .e => .w | .s => .n | .w => .e

/-! ### Stream records (R53) -/

def recSrcKind (r : List Word) : Nat := ((r.getD 0 0).extractLsb' 60 4).toNat
def recDstKind (r : List Word) : Nat := ((r.getD 0 0).extractLsb' 56 4).toNat
def recSrcSel (r : List Word) : BitVec 10 := (r.getD 0 0).extractLsb' 46 10
def recDstSel (r : List Word) : BitVec 10 := (r.getD 0 0).extractLsb' 36 10
def recTag (r : List Word) : BitVec 5 := (r.getD 0 0).extractLsb' 31 5
/-- The element size in bytes. -/
def recSize (r : List Word) : Nat := 2 ^ ((r.getD 0 0).extractLsb' 29 2).toNat
def recIndexed (r : List Word) : Bool := (r.getD 0 0).getLsbD 28
def recIdxDim (r : List Word) : Nat := ((r.getD 0 0).extractLsb' 26 2).toNat
def recIdxSize (r : List Word) : Nat := 2 ^ ((r.getD 0 0).extractLsb' 24 2).toNat
def recLinked (r : List Word) : Bool := (r.getD 0 0).getLsbD 23
def recDepth (r : List Word) : Nat := ((r.getD 0 0).extractLsb' 20 2).toNat + 1

/-- The slot a selector names for a tile side. -/
def Engine.slot (e : Engine) (k : Nat) : Option Handle := if k = 0 then e.slot0 else e.slot1

/-- The handle bound as destination tile. -/
def Engine.dstTile (e : Engine) : Option Handle :=
  if recDstKind e.record = 1 then e.slot (recDstSel e.record).toNat else none

/-- Return a destination tile from FILLING to EMPTY (R65). -/
def State.emptyDst (s : State) (e : Engine) : State :=
  match e.dstTile with
  | none => s
  | some h =>
    let key := pageKey (s.launchOf e.ctx) (atomPage h.atom)
    match s.tile? key with
    | some t => if t.st = .filling then s.setTileSt key .empty else s
    | none => s

/-- Change an engine's record. -/
def State.updEngine (s : State) (k : Nat) (f : Engine → Engine) : State := s.setEngine k (f (s.engine k))

/-- An engine whose program has ended: it holds no word in flight, no bound slot, no run (R65, R254). -/
def Engine.ended_ (e : Engine) (st : EngSt) : Engine :=
  { e with st := st, held := [], rbuf := [], gather := [], wait := none, hostWait := none, slot0 := none, slot1 := none,
           runs := [], tokens := 0, popped := 0 }

/-- The joins forward a token for each that every child branch holds: each becomes a permit (R48). -/
def Push.join (u : Push) : Push :=
  let n := ((u.subs.map (·.2)).min?).getD 0
  { u with subs := u.subs.map fun x => (x.1, x.2 - n), permits := u.permits + n }

/-- A subscription whose program has ended leaves its push, whose joins wait for it no more (R48); a push that no subscription
is left of has ended (R47). The spec does not say so of a subscription that SHALT or a replacement ends: DESIGN CHOICE, log 30. -/
def State.leavePush (s : State) (k : Nat) : State :=
  { s with pushes := s.pushes.filterMap fun u =>
      let subs := u.2.subs.filter fun x => x.1 != k
      if subs.isEmpty then none
      else if subs.length = u.2.subs.length then some u
      else some (u.1, Push.join { u.2 with subs := subs }) }

/-- SHALT: the engine stops, words in flight are discarded, a destination tile returns to EMPTY, n keeps its value
(R256). An engine with a recorded fault has stopped already, and keeps it for the command that traps (R68, R254). -/
def State.haltEngine (s : State) (k : Nat) : State :=
  let e := s.engine k
  match e.st with
  | .idle => s
  | .faulted => s
  | _ => ((s.leavePush k).emptyDst e).setEngine k (e.ended_ .idle)

/-- End a push: the words of the subscriptions that still run are discarded (R49). What becomes of their engines the spec does
not say: each ends as by SHALT, idle without a fault, its destination tile EMPTY (DESIGN CHOICE, log 30). -/
def State.endPush (s : State) (p : Nat) : State :=
  match tget? s.pushes p with
  | none => s
  | some u => u.subs.foldl (fun s x => s.haltEngine x.1) { s with pushes := tdel s.pushes p }

/-! ### Barriers -/

/-- A barrier's record. -/
def State.bar (s : State) (k : Nat) : Barrier := tgetD s.bars k {}

/-- Set the event flag of every context of a gang (R232). -/
def State.gangEvent (s : State) (gk : Nat) : State :=
  (s.gang gk).members.foldl (fun s m => s.updCtx m fun x => { x with event := true }) s

/-- One arrival at a bound barrier (R226): the phase flips at the expected count and raises an event (R232). -/
def State.arriveBar (s : State) (k gk : Nat) : State :=
  let b := s.bar k
  if b.arrivals + 1 = b.expected then
    { s with bars := tset s.bars k { b with arrivals := 0, phase := !b.phase } }.gangEvent gk
  else { s with bars := tset s.bars k { b with arrivals := b.arrivals + 1 } }

/-- Free the barriers bound to a gang (R225). -/
def State.freeBars (s : State) (gk : Nat) : State :=
  { s with bars := s.bars.map fun e =>
      if e.2.gang == some gk then (e.1, { e.2 with gang := none, expected := 0, arrivals := 0 }) else e }

/-! ### Killing and releasing regions -/

/-- Empty a queue. -/
def Queue.clear (_ : Queue) : Queue := {}

/-- What GKILL leaves of an element: words, registers and predicates (R139); its pending store has been performed, or stands to
be (`State.settle`). -/
def Elem.kill (e : Elem) : Elem := { e with qN := {}, qE := {}, qS := {}, qW := {} }

/-- The elements of an image that are listed. -/
def State.imageElems (s : State) (ik : Nat) (im : Image) : List (Nat × Elem) :=
  s.elems.filter fun e => e.1 / 4096 == ik / 4 && im.quads.contains (elemQuad e.1)

/-- Up to n pending accesses of an element whose outputs are about to be discarded, performed in the order of their firings (R279). A
wait for a tile's state is at its end (R81). The code of an access that ends the gang; an access that cannot be performed now stands
with those after it, with no output left. -/
def State.settleFrom (s : State) (image : Image) (k : Nat) : Nat → State × Option Nat
  | 0 => (s, none)
  | n + 1 =>
    let e := s.elem k
    match e.mem with
    | [] => (s, none)
    | m :: _ =>
      match s.tryAccess (k / 4096) image m with
      | .done s1 v => (s1.setElem k (e.performed v)).settleFrom image k n
      | .fail s1 code =>
        let r := (s1.setElem k e.lost).settleFrom image k n
        (r.1, some code)
      | .wait s1 why dva =>
        if why == .other && !dva then (s1.setElem k e.lost).settleFrom image k n
        else (s.setElem k { e with mem := e.mem.map fun m => { m with outs := [] } }, none)

/-- The pending accesses of an element settled: all, where its registers are kept; else the stores alone, since a load has no effect
beyond its result (R122, R139, R279). -/
def State.settle (s : State) (image : Image) (keep : Bool) (k : Nat) : State × Option Nat :=
  let e := s.elem k
  match e.mem with
  | [] => (s, none)
  | l =>
    let l1 := if keep then l else l.filter (·.op == 1)
    (s.setElem k { e with mem := l1 }).settleFrom image k l1.length

/-- The pending accesses of some images settled, element by element, and the code of one that ends the gang. -/
def State.settleAll (s : State) (keep : Bool) (l : List (Nat × Image)) : State × Option Nat :=
  l.foldl (fun r i => (r.1.imageElems i.1 i.2).foldl (fun r e =>
    let x := r.1.settle i.2 keep e.1
    (x.1, r.2 <|> x.2)) r) (s, none)

/-- Whether some pending access of some images cannot be performed now: GKILL and COMMIT wait for it (R246, R279; log 20). -/
def State.accessStuck (s : State) (keep : Bool) (l : List (Nat × Image)) : Bool :=
  l.any fun i => ((s.settleAll keep l).1.imageElems i.1 i.2).any fun e => !e.2.mem.isEmpty

/-- What GKILL leaves of an island: banks zero, decoders and queue empty (R144, R153). The class and the scales that a bank has latched
go with its contents, so that a task of any class may follow: DESIGN CHOICE, R153 names the queue, the decoders and the banks only; log
37. -/
def Island.kill (_ : Island) : Island := {}

/-- The quadrants of a core killed, with an image or without (R139, R153, R263): tokens in flight and what the islands hold are
discarded; words, registers and scale registers stay. -/
def State.killQuads (s : State) (core : Nat) (qs : List Nat) : State :=
  { s with
    elems := s.elems.map fun e => if e.1 / 4096 == core && qs.contains (elemQuad e.1) then (e.1, e.2.kill) else e
    exits := s.exits.filter fun e => !(e.1 / 512 == core && qs.contains (e.1 / 128 % 4))
    inPorts := s.inPorts.filter fun e => !(e.1 / 512 == core && qs.contains (e.1 / 128 % 4))
    islands := s.islands.map fun i => if i.1 / 8 == core && qs.contains (i.1 % 8 / 2) then (i.1, i.2.kill) else i }

/-- GKILL of a loaded image whose pending accesses have been settled (R139, R263). -/
def State.killSettled (s : State) (ik : Nat) : State :=
  match tget? s.images ik with
  | none => s
  | some im =>
    { s.killQuads (ik / 4) im.quads with
      images := tset s.images ik { im with killed := true, active := false, gates := im.gates.map fun g => { g with count := 0 } } }

/-- The end of a loaded image of a gang that ends: its pending stores are performed, then it is killed (R139, R153, R279). -/
def State.killImage (s : State) (ik : Nat) : State :=
  match tget? s.images ik with
  | none => s
  | some im => (s.settleAll false [(ik, im)]).1.killSettled ik

/-- The engines of a context: those of its quadrants (R52). -/
def State.ctxEngines (s : State) (k : Nat) : List Nat :=
  (s.ctx k).quads.flatMap fun q => (List.range 4).map fun v => coreOf k * 16 + engBase q + v

/-- The images that a context has loaded. -/
def State.ctxImages (s : State) (k : Nat) : List Nat := (s.images.filter fun i => i.2.ctx == k).map (·.1)

/-- Stop the engines, pushes and regions of a gang (R69, R246). -/
def State.stopGang (s : State) (gk : Nat) : State :=
  let ms := (s.gang gk).members
  let s1 := (ms.flatMap s.ctxEngines).foldl State.haltEngine s
  let s2 := (s1.pushes.filter fun p => p.2.gang == gk).foldl (fun s p => s.endPush p.1) s1
  (ms.flatMap s2.ctxImages).foldl State.killImage s2

/-- Release what a context holds beside its registers: images, elements, islands and exit queues of its quadrants, engines,
reserved frames, pins. -/
def State.releaseCtx (s : State) (k : Nat) : State :=
  let core := coreOf k
  let qs := (s.ctx k).quads
  { s.unpin k none with
    images := s.images.filter (·.2.ctx != k)
    elems := s.elems.filter fun e => !(e.1 / 4096 == core && qs.contains (elemQuad e.1))
    islands := s.islands.filter fun i => !(i.1 / 8 == core && qs.contains (i.1 % 8 / 2))
    exits := s.exits.filter fun e => !(e.1 / 512 == core && qs.contains (e.1 / 128 % 4))
    inPorts := s.inPorts.filter fun e => !(e.1 / 512 == core && qs.contains (e.1 / 128 % 4))
    engines := s.engines.filter fun e => !(e.1 / 16 == core && qs.contains (engQuad (e.1 % 16)))
    frames := (s.unpin k none).frames.filter fun f => f.2 != .reserved k }

/-- Free a context; the lines of its store log are free with it (R219, R220). -/
def State.freeCtx (s : State) (k : Nat) : State :=
  let s1 := (s.releaseCtx k).freeLines (coreOf k) (s.ctx k).slog.length
  { s1 with ctxs := tdel s1.ctxs k }

/-- The images that the members of a gang have loaded. -/
def State.gangImages (s : State) (gk : Nat) : List (Nat × Image) := s.images.filter fun i => (s.gang gk).members.contains i.2.ctx

/-- Whether a store of a gang's regions through a DVA window is pending. -/
def State.storesPending (s : State) (gk : Nat) : Bool :=
  (s.gangImages gk).any fun i => (s.imageElems i.1 i.2).any fun e =>
    e.2.mem.any fun m => m.op == 1 && (i.2.winOf m).isDva

/-- Whether an `effects` gang has a fired store that cannot be performed now, its mapping gone: its end waits for it (R279).
The logged store of any other gang is dropped with the log, a tile store with its tile. -/
def State.endWaits (s : State) (gk : Nat) : Bool :=
  (s.gang gk).effects && (s.settleAll false (s.gangImages gk)).1.storesPending gk

/-- A context halted at an instruction boundary: its wait ends (R198, R235, R313). -/
def Ctx.halt (x : Ctx) : Ctx :=
  { x with status := .halted, wait := none, sysc := none, preReq := false, yieldUntil := 0, yieldTurn := false }

/-- Halt the running members of a gang. -/
def State.haltMembers (s : State) (gk : Nat) : State :=
  (s.gang gk).members.foldl (fun s k => s.updCtx k fun x => if x.status = .running then x.halt else x) s

/-- Drop the plans of a gang with their staging blocks (R50). -/
def State.freePlans (s : State) (gk : Nat) : State := { s with plans := s.plans.filter (·.2.gang != gk) }

/-- The other parts of a plan are told that it has ended (R252). -/
def State.tellDrop (s : State) (p : Plan) : State := s.send (.plan 2 p.key p.done p.parts)

/-- Drop the plans of a gang as by CDROP: a run already fired completes first; one that is released ends at every part, which are
told unless a CDROP has told them (R246, R252). -/
def State.dropPlans (s : State) (gk : Nat) : State :=
  let gone := s.plans.filter fun e => e.2.gang == gk && decide (e.2.fires ≤ e.2.done) && !e.2.released
  let left := s.plans.filterMap fun e =>
    if e.2.gang == gk then (if e.2.done < e.2.fires then some (e.1, { e.2 with dropped := true }) else none) else some e
  gone.foldl (fun s e => s.tellDrop e.2) { s with plans := left }

/-- End a gang: engines, pushes, regions stop, logs and open tiles are dropped, barriers and contexts freed (R81
steps 1 to 3, R246). -/
def State.endGang (s : State) (gk : Nat) : State :=
  let ms := (s.gang gk).members
  let s1 := (s.stopGang gk).freeBars gk
  let s2 := (s1.openTiles gk).foldl State.freeTile s1
  let s3 := ms.foldl State.freeCtx s2
  { s3 with gangs := tdel s3.gangs gk }

/-! ### Applications -/

/-- An application's record. -/
def RA.blank : RA := { part := 0, slot := 0, cell := 0, agePass := 0, ageCell := 0, st := .marked }
def State.ra (s : State) (i : Nat) : RA := tgetD s.ras i RA.blank
def State.setRa (s : State) (i : Nat) (r : RA) : State := { s with ras := tset s.ras i r }

/-- The ERR atom of a code (R174). -/
def errAtom (code : Nat) : Word := BitVec.ofNat 64 (0xB * 2 ^ 60 + code % 65536)

/-- Requeue an application with its age; it may be stolen at once (R180, R308). -/
def State.requeue (s : State) (i : Nat) : State :=
  let r := s.ra i
  s.setRa i { r with st := .marked, since := s.tick r.part, fast := true, result := [], gang := 0, failed := false }

/-- Reduce an application to ⊥ without a gang: through the next commit step (R81, R181). -/
def State.reduceErr (s : State) (i code : Nat) : State :=
  s.setRa i { s.ra i with st := .accepted, result := [errAtom code], gang := 0, failed := true, accAt := s.treeNow (s.ra i).part }

/-- Whether an application's commit is accepted or waits: it is never dropped by an abandonment (R186). -/
def State.accepted (s : State) (i : Nat) : Bool := (s.ra i).st == .accepted

/-- Whether a gang can be abandoned: it is live, its commit is not accepted, and it is not being abandoned already. -/
def State.abandonable (s : State) (gk : Nat) : Bool :=
  (tget? s.gangs gk).isSome && !s.accepted (s.gang gk).ra && (s.gang gk).ending.isNone

/-- The end of an abandoned gang, and how its application goes on (R81, R246). -/
def State.endAs (s : State) (gk : Nat) (e : Ending) : State :=
  let i := (s.gang gk).ra
  let s1 := (s.endGang gk).freePlans gk
  match e with
  | .requeue => s1.requeue i
  | .reduce code => s1.reduceErr i code

/-- Abandon a gang: at once, or, where a fired store of an `effects` gang still cannot be performed, its engines, pushes, regions
and members halt now and it ends when no such store is left (R279; log 20). -/
def State.abandonAs (s : State) (gk : Nat) (e : Ending) : State :=
  if !s.abandonable gk then s
  else if s.endWaits gk then
    let s1 := (s.stopGang gk).haltMembers gk
    s1.setGang gk { s1.gang gk with ending := some e, closing := none }
  else s.endAs gk e

/-- A gang that is being abandoned ends once no fired store of its own is pending (R279). -/
def State.endDue (s : State) (gk : Nat) : State :=
  match (s.gang gk).ending with
  | some e => if s.storesPending gk then s else s.endAs gk e
  | none => s

/-- Abandon a gang and requeue its application, uncounted (R34, R246). -/
def State.abandon (s : State) (gk : Nat) : State := s.abandonAs gk .requeue

/-- Abandon a gang and reduce its application to ⊥, without requeue (R32, R77, R152, R247, R276 to R282). -/
def State.abandonErr (s : State) (gk code : Nat) : State := s.abandonAs gk (.reduce code)

/-- Abandonment under R81 or R220: the fourth in a row reduces the application to ⊥ with the given code. -/
def State.abandonWait (s : State) (gk code : Nat) : State :=
  let i := (s.gang gk).ra
  if !s.abandonable gk then s
  else if (s.ra i).strikes + 1 ≥ 4 then s.abandonErr gk code
  else
    let s1 := s.abandon gk
    s1.setRa i { s1.ra i with strikes := (s1.ra i).strikes + 1 }

/-- ECC_FATAL (R311): a restartable gang is abandoned, the second time in a row its application reduces to ⊥; an
`effects` gang's application reduces to ⊥. -/
def State.eccFatal (s : State) (gk : Nat) : State :=
  let i := (s.gang gk).ra
  if !s.abandonable gk then s
  else if (s.gang gk).effects || (s.ra i).eccStrikes + 1 ≥ 2 then s.abandonErr gk 0x0B
  else
    let s1 := s.abandon gk
    s1.setRa i { s1.ra i with eccStrikes := (s1.ra i).eccStrikes + 1 }

/-- Reduce a gang's application by XFAIL or an unhandled trap of a member (R246, R310): an ordinary commit step
retires the members; of two in one tree cycle the lower rank's code stands. -/
def State.failGang (s : State) (k code : Nat) : State :=
  let x := s.ctx k
  let i := (s.gang x.gang).ra
  let r := s.ra i
  let s1 := s.updCtx k fun x => { x with status := .committed, wait := none }
  if r.st == .accepted then
    if r.failed && r.failAt == s.treeNow r.part && decide (x.rank < r.failRank) then
      s1.setRa i { r with result := [errAtom code], failRank := x.rank }
    else s1
  else
    s1.setRa i { r with st := .accepted, result := [errAtom code], gang := x.gang, failed := true,
                        failRank := x.rank, failAt := s.treeNow r.part, accAt := s.treeNow r.part }

end Sys2Proof.Machine
end

