-- ==== Sys2Proof/Machine/Ops.lean ====
section
/-! DEFINITION. The frame of every CP instruction: taking a trap (R310), returning from one (R231), and how an
instruction completes, branches, waits, traps or ends its context (R10, R108, R198, R235). -/

namespace Sys2Proof.Machine

/-- A trap: code, kind, trap.addr (R98). -/
structure Trap where
  code : Nat
  kind : Nat := 0
  addr : Word := 0
  deriving DecidableEq, Repr

def Trap.illegal (kind : Nat := 0) (addr : Word := 0) : Trap := ⟨0x01, kind, addr⟩
def Trap.priv : Trap := ⟨0x02, 0, 0⟩
/-- MISALIGN: the faulting address is the one that is no multiple of its access size (R96, R98; log 51). -/
def Trap.misalign (addr : Word := 0) : Trap := ⟨0x03, 0, addr⟩
def Trap.dvaFault (kind : Nat) (addr : Word) : Trap := ⟨0x04, kind, addr⟩
def Trap.tileFault (kind : Nat) (addr : Word) : Trap := ⟨0x05, kind, addr⟩
def Trap.tileState : Trap := ⟨0x06, 0, 0⟩
def Trap.logFull : Trap := ⟨0x07, 0, 0⟩
def Trap.badSymbol : Trap := ⟨0x08, 0, 0⟩
def Trap.eccFatal : Trap := ⟨0x0B, 0, 0⟩

/-- trap.cause of a trap (R98). -/
def Trap.cause (t : Trap) : Word := BitVec.ofNat 64 (t.kind % 256 * 65536 + t.code % 256)

/-- What a trap records in its context (R310). -/
def Ctx.recordTrap (x : Ctx) (t : Trap) : Ctx :=
  { x with trapCause := t.cause, trapPc := x.pc, trapAddr := t.addr, wait := none, sysc := none, issued := true }

/-- Whether a trap vectors: the handler flag is clear and a handler is set (R310). -/
def Ctx.vectors (x : Ctx) : Bool := !x.handler && x.trapVec.getLsbD 0

/-- The handler's PC: trap.vec[16:2]·4 (R96, R310). -/
def handlerPc (v : Word) : Word := BitVec.ofNat 64 ((v.extractLsb' 2 15).toNat * 4)

/-- Taking a trap (R310): the cause, the PC and the address are recorded; ECC_FATAL follows R311; a trap with the
handler flag clear and a handler set vectors; any other reduces the gang's application by XFAIL with the code. -/
def State.takeTrap (s : State) (k : Nat) (t : Trap) : State :=
  let x := (s.ctx k).recordTrap t
  if t.code = 0x0B then (s.setCtx k x).eccFatal x.gang
  else if x.vectors then s.setCtx k { x with handler := true, pc := handlerPc x.trapVec }
  else (s.setCtx k x).failGang k t.code

/-- How the body of an instruction ends. -/
inductive Res where
  /-- it completes, and the context goes on at the next instruction -/
  | done (s : State)
  /-- it completes, and the context goes on at a PC -/
  | jump (s : State) (pc : Word)
  /-- it waits at an instruction boundary (R198, R235); it will be issued again -/
  | wait (s : State) (why : WaitWhy)
  /-- it traps -/
  | trap (t : Trap)
  /-- it traps, and keeps what its walks have set in the page tables (R30) -/
  | trapIn (s : State) (t : Trap)
  /-- the context issues nothing more, or its PC is already set -/
  | stop (s : State)
  deriving Repr

/-- The wait of a context that waits for a reason: one that goes on keeps the time it began. It has issued (R313). -/
def Ctx.waiting (x : Ctx) (why : WaitWhy) (now : Nat) : Ctx :=
  match x.wait with
  | some w => { x with wait := if w.why = why then x.wait else some ⟨why, now⟩, issued := x.issued || why != .held }
  | none => { x with wait := some ⟨why, now⟩, issued := x.issued || why != .held }

/-- Go on at a PC, every wait over. -/
def Ctx.goOn (x : Ctx) (pc : Word) : Ctx := { x with pc := pc, wait := none, issued := true }

/-- How a context is left by what an instruction's body answered; `pc` is the instruction's, `len` its length. -/
def Res.finish (r : Res) (s : State) (k : Nat) (pc : Word) (len : Nat) : State :=
  match r with
  | .done s' => s'.updCtx k fun x => x.goOn (pc + BitVec.ofNat 64 len)
  | .jump s' t => s'.updCtx k fun x => x.goOn t
  | .wait s' why => s'.updCtx k fun x => x.waiting why s.clock
  | .trap t => s.takeTrap k t
  | .trapIn s' t => s'.takeTrap k t
  | .stop s' => s'

/-- The frame of a CP instruction of `len` bytes in the context that the focus names: a guard that fails takes one
issue slot and has no effect (R10). -/
def State.cpLen (s : State) (len : Nat) (c : Guard) (body : Nat → Ctx → Res) : Host.Outcome State Fault Refusal :=
  match s.focus with
  | .ctx k =>
    let x := s.ctx k
    if x.guardHolds c then .next ((body k x).finish s k x.pc len)
    else .next (s.updCtx k fun x => x.goOn (x.pc + BitVec.ofNat 64 len))
  | _ => .fault .noContext

/-- The frame of a one-word instruction. -/
def State.cp (s : State) (c : Guard) (body : Nat → Ctx → Res) : Host.Outcome State Fault Refusal := s.cpLen 4 c body

/-- An instruction that writes one g register and nothing else. -/
def State.setsG (s : State) (k : Nat) (d : BitVec 5) (v : Word) : Res := .done (s.updCtx k fun x => x.wg d v)

/-- An instruction that writes one predicate and nothing else. -/
def State.setsP (s : State) (k : Nat) (d : BitVec 3) (v : Bool) : Res := .done (s.updCtx k fun x => x.wp d v)

/-- An instruction that writes an FP32 result and raises flags (R97, R207). -/
def State.setsF (s : State) (k : Nat) (d : BitVec 5) (r : Nat × FFlags) : Res :=
  .done (s.updCtx k fun x => { x.wg d (BitVec.ofNat 64 (r.1 % 2 ^ 32)) with fxFlags := stick x.fxFlags r.2 })

/-- The instruction word at a PC of an operator's code: nothing at or beyond its end (R93). -/
def Oper.word? (o : Oper) (pc : Word) : Option W32 :=
  if pc.toNat % 4 = 0 then o.code[pc.toNat / 4]? else none

/-- ERET (R231): the PC becomes trap.pc, or with `next` the PC past the instruction at trap.pc; the handler flag
is cleared; PRIV with the flag clear. -/
def State.eretRes (s : State) (k : Nat) (x : Ctx) (next : Bool) : Res :=
  if !x.handler then .trap .priv
  else
    let len : Nat :=
      if next then (match (s.oper k).word? x.trapPc with | some w => if w.extractLsb' 25 7 = 0x0A then 8 else 4 | none => 4)
      else 0
    .jump (s.updCtx k fun x => { x with handler := false }) ((x.trapPc &&& ~~~(3 : Word)) + BitVec.ofNat 64 len)

/-- The trap of a device access that is not performed, or its wait (R108, R216, R220, R318). -/
def AccErr.res (e : State × AccErr) (a : Word) : Res :=
  match e.2 with
  | .dva kind => .trapIn e.1 (.dvaFault kind a)
  | .poisoned => .trapIn e.1 .eccFatal
  | .logWait line => .wait e.1 (.storeLog line)

end Sys2Proof.Machine
end

