-- ==== Sys2Proof/Machine/Row.lean ====
section
/-! DEFINITION. The leaf row: cells and symbols (R173, R174), well-formed elements (R175), spans and operand cells
(R176). -/

namespace Sys2Proof.Machine

/-- The kind of a symbol word (R174). -/
def kindOf (w : Word) : Nat := (w.extractLsb' 60 4).toNat

def symOpen : Word := 0x1000000000000000
def symClose : Word := 0x2000000000000000
def symApp : Word := 0x3000000000000000
def symColon : Word := 0x4000000000000000
def symAppEnd : Word := 0x5000000000000000

/-- The OP symbol of a pantry index and parameter (R174). -/
def symOp (index param : Nat) : Word := BitVec.ofNat 64 (6 * 2 ^ 60 + index % 65536 * 2 ^ 32 + param % 2 ^ 32)

/-- Whether a kind is an atom's: OP, INT, FLT, TILE, BOOL, ERR (R175). -/
def isAtom (w : Word) : Bool := decide (6 ≤ kindOf w) && decide (kindOf w ≤ 0xB)

/-- Whether the bits that R174 requires to be zero are zero. -/
def symZeros (w : Word) : Bool :=
  match kindOf w with
  | 0x6 => w.extractLsb' 48 12 == 0
  | 0x7 => w.extractLsb' 32 28 == 0
  | 0x8 => w.extractLsb' 32 28 == 0
  | 0x9 => w.extractLsb' 37 2 == 0
  | 0xA => w.extractLsb' 1 59 == 0
  | 0xB => w.extractLsb' 16 44 == 0
  | _ => w.extractLsb' 0 60 == 0

/-- A level of the parser's stack: inside a sequence; inside an application before its operand, after it. -/
inductive PLevel where
  | seq | operand | endApp
  deriving DecidableEq, Repr

/-- What an element that has just ended leaves of the stack; none: a symbol beyond it is one too many. -/
def endElem (st : List PLevel) : List PLevel :=
  match st with
  | .operand :: r => .endApp :: r
  | st => st

/-- Parse one element (R175): the rest after it, or none. The stack holds the open levels. -/
def parseFrom (l : List Word) (st : List PLevel) (fuel : Nat) : Option (List Word) :=
  match fuel, l with
  | 0, _ => none
  | _, [] => none
  | f + 1, w :: r =>
    let next := fun (st : List PLevel) (r : List Word) => if st.isEmpty then some r else parseFrom r st f
    if kindOf w = 1 then
      match st with
      | .endApp :: _ => none
      | _ => parseFrom r (.seq :: st) f
    else if kindOf w = 2 then
      match st with
      | .seq :: st' => next (endElem st') r
      | _ => none
    else if kindOf w = 3 then
      match st, r with
      | .endApp :: _, _ => none
      | _, o :: c :: r' => if kindOf o = 6 ∧ kindOf c = 4 then parseFrom r' (.operand :: st) f else none
      | _, _ => none
    else if kindOf w = 5 then
      match st with
      | .endApp :: st' => next (endElem st') r
      | _ => none
    else if isAtom w then
      match st with
      | .endApp :: _ => none
      | _ => next (endElem st) r
    else none

/-- Whether a list of symbols is exactly one element (R175). -/
def oneElement (l : List Word) : Bool := parseFrom l [] (l.length + 1) == some []

/-- The symbols of the element that begins at the head: one for an atom, through the matching `>` for a sequence (R176). -/
def elemLen (l : List Word) (depth : Nat) : Nat :=
  match l with
  | [] => 0
  | w :: r =>
    if kindOf w = 1 then 1 + elemLen r (depth + 1)
    else if kindOf w = 2 then (if depth ≤ 1 then 1 else 1 + elemLen r (depth - 1))
    else if depth = 0 then 1
    else 1 + elemLen r depth

/-- Top-level elements of the sequence at the head (R244). -/
def topCount (l : List Word) (depth : Nat) : Nat :=
  match l with
  | [] => 0
  | w :: r =>
    if kindOf w = 1 then (if depth = 1 then 1 else 0) + topCount r (depth + 1)
    else if kindOf w = 2 then (if depth ≤ 1 then 0 else topCount r (depth - 1))
    else (if depth = 1 then 1 else 0) + topCount r depth

/-! ### Cells -/

/-- The partition of a core, if any. -/
def State.partOf (s : State) (core : Nat) : Option Nat :=
  (s.parts.find? fun e => e.2.clusters.getLsbD (core / 4)).map (·.1)

/-- The present cells of a partition's row, ascending (R173). -/
def State.partCells (s : State) (p : Nat) : List Nat :=
  (s.partCores p).flatMap fun c => (List.range 256).map fun i => c * 256 + i

/-- Whether a cell is present and belongs to a partition. -/
def State.inPart (s : State) (p cell : Nat) : Bool :=
  (s.part p).clusters.getLsbD (cell / 1024) && s.corePresent (cell / 256)

/-- The symbols of a launch in row order, with their cells. -/
def State.symsOf (s : State) (p slot : Nat) : List (Nat × Word) :=
  (s.row.filter fun e => e.2.slot == slot && s.inPart p e.1).map fun e => (e.1, e.2.word)

/-- The symbols from a list up to and with the one that closes the application at its head. -/
def appSyms (l : List (Nat × Word)) (depth : Nat) : List (Nat × Word) :=
  match l with
  | [] => []
  | e :: r =>
    if kindOf e.2 = 3 then e :: appSyms r (depth + 1)
    else if kindOf e.2 = 5 then (if depth ≤ 1 then [e] else e :: appSyms r (depth - 1))
    else e :: appSyms r depth

/-- The symbols of an application, from its `(` to its `)` (R176). -/
def State.raSyms (s : State) (i : Nat) : List (Nat × Word) :=
  let r := s.ra i
  appSyms ((s.symsOf r.part r.slot).dropWhile fun e => e.1 != r.cell) 0

/-- The cell of an application's `)`. -/
def State.raLast (s : State) (i : Nat) : Nat := ((s.raSyms i).getLast?.map (·.1)).getD (s.ra i).cell

/-- The symbols of an application's operand: those between `:` and `)` (R176). -/
def State.operandSyms (s : State) (i : Nat) : List Word := (((s.raSyms i).drop 3).dropLast).map (·.2)

/-- The OP symbol of an application. -/
def State.raOp (s : State) (i : Nat) : Word := (((s.raSyms i)[1]?).map (·.2)).getD 0

/-- The cells between two, inclusive, that count for a launch: present, free or of the launch (R173, R176). -/
def State.cellsBetween (s : State) (p slot a b : Nat) : List Nat :=
  ((List.range (b + 1 - a)).map (a + ·)).filter fun c =>
    s.inPart p c && (match tget? s.row c with | none => true | some x => x.slot == slot)

/-- ra.len: the span's cells (R176). -/
def State.raLen (s : State) (i : Nat) : Nat := (s.cellsBetween (s.ra i).part (s.ra i).slot (s.ra i).cell (s.raLast i)).length

/-- Whether a knead holds an application (R190). -/
def State.raHeld (s : State) (i : Nat) : Bool := decide (s.treeNow (s.ra i).part < (s.ra i).heldUntil)

end Sys2Proof.Machine
end

