-- ==== Sys2Proof/Machine/LaunchOps.lean ====
section
/-! DEFINITION. What launches and the outside share: MSI-X messages (R326), the capability block (R328, R329), the
stop of a launch (R193, R324), the RA queues (R307). -/

namespace Sys2Proof.Machine

/-- Raise an MSI-X vector: a masked one sets its pending bit (R326). -/
def State.raise (s : State) (v : Nat) : State :=
  if s.dev.masked.getLsbD v then { s with dev := { s.dev with pending := s.dev.pending ||| BitVec.ofNat 96 (2 ^ v) } }
  else s.send (.msix v)

/-- The units of 64 that are not fused off. -/
def liveUnits (fused : BitVec 64) : Nat := ((List.range 64).filter fun i => !fused.getLsbD i).length

/-- The fuses of a part of a grade: 64 cores and 64 slices, 60 and 61, or 48 and 47 are live (R1). -/
def Device.gradeOk (d : Device) : Bool :=
  (d.grade, liveUnits d.fusedCores, liveUnits d.fusedSlices) ∈ [(0, 64, 64), (1, 60, 61), (2, 48, 47)]

/-- Set bits of ERRSTS and raise the partition's error vector (R325, R326). -/
def State.setErr (s : State) (p : Nat) (bits : BitVec 4) : State :=
  (s.updPart p fun x => { x with errsts := x.errsts ||| bits }).raise (6 * p + 4)

/-- The bits of a list of units as a mask. -/
def maskOf (l : List Nat) : Nat := l.foldl (fun m i => m ||| 2 ^ i) 0

/-- The capability block as it stands, without the update count (R328). -/
def State.capBlock (s : State) (p : Nat) : List Word :=
  let x := s.part p
  let cores := s.partCores p
  let portBits := fun n => let t := tgetD s.dev.ports n {}
    if t.up then (if t.x16 then 2 else 1) + (if t.fast then 4 else 0) else 0
  let ports := (List.range 32).filter fun n => n == 0 || x.ports.getLsbD n
  let bins := fun j => (List.range 16).foldl (fun m i =>
    m + (if cores.contains (16 * j + i) then (s.core (16 * j + i)).bin * 2 ^ (4 * i) else 0)) 0
  let six := fun j => (List.range 16).foldl (fun m i => m + portBits (16 * j + i) * 2 ^ (4 * i)) 0
  [ BitVec.ofNat 64 (1 + s.dev.grade * 2 ^ 8 + s.dev.stepping.toNat * 2 ^ 16)
  , BitVec.ofNat 64 (maskOf cores)
  , BitVec.ofNat 64 (maskOf x.map)
  , BitVec.ofNat 64 (x.map.length + x.smallestPinned * 2 ^ 8 + x.map.length * x.smallestPinned * 2 ^ 16)
  , BitVec.ofNat 64 (maskOf ports + 2 ^ 32 * maskOf (ports.filter fun n => (tgetD s.dev.ports n {}).up))
  , BitVec.ofNat 64 (six 0), BitVec.ofNat 64 (six 1), BitVec.ofNat 64 s.dev.pbr
  , BitVec.ofNat 64 (bins 0), BitVec.ofNat 64 (bins 1), BitVec.ofNat 64 (bins 2), BitVec.ofNat 64 (bins 3)
  , 0x0101
  , BitVec.ofNat 64 (s.dev.planHour % 2 ^ 32 + (s.dev.alarms % 256) * 2 ^ 32)
  , BitVec.ofNat 64 (s.dev.monitor.toNat + p * 2 ^ 16) ]

/-- Update the capability block of a partition, then its update count, and say so in ERRSTS (R325, R329). -/
def State.updateCaps (s : State) (p : Nat) : State :=
  let n := (((s.part p).caps.getD 15 0).toNat + 1) % 2 ^ 32
  (s.updPart p fun x => { x with caps := s.capBlock p ++ [BitVec.ofNat 64 n] }).setErr p 4

/-- Update the capability block of every partition. -/
def State.updateAllCaps (s : State) : State := s.parts.foldl (fun s e => s.updateCaps e.1) s

/-! ### The RA queues -/

/-- The RAs in a core's queue (R307). -/
def State.queueLen (s : State) (core : Nat) : Nat := (s.ras.filter fun r => r.2.st == .queued core).length

/-- Whether an RA comes before another: class, highest first, then age (R180, R307). -/
def State.raBefore (s : State) (x y : RA) : Bool :=
  let cx := (s.launch (x.part * 4 + x.slot)).cls
  let cy := (s.launch (y.part * 4 + y.slot)).cls
  if cx != cy then decide (cy < cx)
  else if x.agePass != y.agePass then decide (x.agePass < y.agePass)
  else decide (x.ageCell < y.ageCell)

/-- RAs in the order of R307. -/
def State.raOrder (s : State) (l : List (Nat × RA)) : List (Nat × RA) := sortBy (fun x y => s.raBefore x.2 y.2) l

/-- Enter marked RAs in the queues of the cores that hold their `(` cells, in order, while entries are free (R307). -/
def State.fillQueues (s : State) : State :=
  (s.raOrder (s.ras.filter fun r => r.2.st == .marked)).foldl (fun s r =>
    let core := r.2.cell / 256
    if s.queueLen core < 32 then s.setRa r.1 { r.2 with st := .queued core, since := s.tick r.2.part } else s) s

/-! ### The end of a launch -/

/-- Drop what a launch holds: gangs, checkpointed gangs, applications, cells, pages, staging blocks (R50, R193, R195). A run that a
retired gang had fired still completes (R246; log 29). -/
def State.dropLaunch (s : State) (l : Nat) : State :=
  let gs := (s.gangs.filter fun g => g.2.part * 4 + g.2.slot == l).map (·.1)
  let s1 := gs.foldl (fun s g => (s.endGang g).freePlans g) s
  let s2 := (s1.saved.filter fun g => g.2.gang.part * 4 + g.2.gang.slot == l).foldl (fun s g => s.freePlans g.1) s1
  let keys := (s2.dir.filter fun e => keyLaunch e.1 == l).map (·.1)
  let s3 := keys.foldl State.freePage s2
  let row := s3.row.filter fun e => !(s3.inPart (l / 4) e.1 && e.2.slot == l % 4)
  { s3.updPart (l / 4) fun p => { p with rowDirty := p.rowDirty || row.length != s3.row.length } with
    cores := s3.cores.map fun c => (c.1, { c.2 with code := c.2.code.filter fun x => !(x.1 == l / 4 && x.2.1 == l % 4) })
    cfg := s3.cfg.filter fun c => c.launch != l
    plans := s3.plans.map fun e => if e.2.launch = l then (e.1, { e.2 with blocks := 0 }) else e
    saved := s3.saved.filter fun g => !(g.2.gang.part * 4 + g.2.gang.slot == l)
    tiles := s3.tiles.filter fun t => keyLaunch t.1 != l
    ras := s3.ras.filter fun r => !(r.2.part * 4 + r.2.slot == l)
    row := row }

/-- Stop a launch with a fault and a detail: its gangs are dropped, its cells and tiles freed, its status entered,
its vector raised (R193, R324, R326). Faults: 1 ROW_FULL, 2 BAD_SYMBOL, 3 ECC_FATAL, 4 LAUNCH_FAULT. -/
def State.stopLaunch (s : State) (l fault detail : Nat) : State :=
  let s1 := s.dropLaunch l
  let s2 := s1.setLaunch l { s1.launch l with state := 5, fault := fault, detail := detail, pantry := {}, backUsed := [], ending := none }
  (s2.updPart (l / 4) fun p => { p with cellsFreed := true }).raise (6 * (l / 4) + l % 4)

end Sys2Proof.Machine
end

