-- ==== Sys2Proof/Machine/Tiles.lean ====
section
/-! DEFINITION. The tile instructions (R236 to R242). -/

namespace Sys2Proof.Machine
open Sys2Proof

/-- The key of the tile that a handle of a context names. -/
def State.tileKey (s : State) (k : Nat) (h : Handle) : Nat := pageKey (s.launchOf k) (atomPage h.atom)

/-- Read a handle (R94, R236): TILE_STATE when it is unbound; TILE_FAULT kind 1 when its tile has been freed, but TILE_STATE where
the handle itself is one that the instruction takes TILE_STATE for, which comes first (R108). -/
def State.withTileIf (s : State) (k : Nat) (h : Handle) (bad : Bool) (f : Nat → Tile → Res) : Res :=
  if !h.bound then .trap .tileState
  else
    match s.tile? (s.tileKey k h) with
    | none => if bad then .trap .tileState else .trap (.tileFault 1 (tileAddr (s.tileKey k h) 0))
    | some t => f (s.tileKey k h) t

/-- Read a handle by an instruction that takes any bound one (R94, R236). -/
def State.withTile (s : State) (k : Nat) (h : Handle) (f : Nat → Tile → Res) : Res := s.withTileIf k h false f

/-- What a page access of the CP comes to (R77, R80). -/
def PageRes.res (r : PageRes) (addr : Word) (f : State → Res) : Res :=
  match r with
  | .ok s => f s
  | .fault code kind _ => .trap ⟨code, kind, addr⟩
  | .wait s => .wait s (.page addr.toNat)

/-- What accesses of several pages come to: trap.addr names the byte of the page that faults (R77). -/
def PageRes.resAt (r : PageRes) (addr : Nat → Word) (f : State → Res) : Res :=
  match r with
  | .ok s => f s
  | .fault code kind key => .trap ⟨code, kind, addr key⟩
  | .wait s => .wait s (.page 0)

/-! ### TALLOC, TVIEW -/

/-- Whether a register value is 1 to 128. -/
def shapeOk (v : Word) : Bool := decide (1 ≤ v.toNat) && decide (v.toNat ≤ 128)

/-- Give each page of a new tile a zero-filled frame of the core, pinned (R77, R237). -/
def State.pinNew (s : State) (core k : Nat) (keys : List Nat) : State :=
  keys.foldl (fun s key =>
    match s.freeFrame core with
    | none => s
    | some f =>
      let e := s.dirE key
      ({ s with frames := tset s.frames (core * 4096 + f) (.page key [k]) }.setDir key
        { e with loc := .scratch core f }).sttFill core key ⟨false, true, false, core, f, true, true, false⟩) s

/-- Allocate a tile and bind a handle register (R237): the pages are entered in the directory, open and owned by
the gang; with `pin` they are brought in and pinned. -/
def State.allocTile (s : State) (k : Nat) (d : BitVec 4) (fmt rows cols : Nat) (pin : Bool) : Res :=
  let l := s.launchOf k
  let page := (s.launch l).nextPage
  let n := tilePages fmt rows cols
  let x := s.ctx k
  if 2 ^ 37 < page + n then .stop (s.stopLaunch l 4 0)
  else
    match s.newPages (pageKey l page) x.gang k x.rank n 0 n with
    | none => .trap (.tileFault 5 0)
    | some s1 =>
      let s2 := { s1.setLaunch l { s1.launch l with nextPage := page + n } with
                  tiles := tset s1.tiles (pageKey l page) ⟨fmt, rows, cols, .empty, 0, 0⟩ }
      let s3 := if pin then s2.pinNew (coreOf k) k ((List.range n).map (pageKey l page + ·)) else s2
      .done (s3.updCtx k fun x => x.wh d (Handle.whole (tileAtom fmt rows cols true pin page)))

/-- TALLOC (R72, R237); with `pin` it waits for frames that no gang is held back for (R307). -/
def execTalloc (c : Guard) (d : BitVec 4) (a b : BitVec 5) (fmt : BitVec 4) (pin : Bool) (s : State) :
    Host.Outcome State Fault Refusal :=
  s.cp c fun k x =>
    let f := fmt.toNat
    if !shapeOk (x.rg a) || !shapeOk (x.rg b) then .trap (.tileFault 3 0)
    else if f = 10 ∧ ((x.rg a).toNat ≠ 128 ∨ (x.rg b).toNat ≠ 128) then .trap (.tileFault 3 0)
    else
      let n := tilePages f (x.rg a).toNat (x.rg b).toNat
      if pin && decide (2048 < s.pinnedFrames (coreOf k) + n) then .trap (.tileFault 6 0)
      else if pin && decide (4096 < s.takenFrames (coreOf k) + n) then .wait s (.page 0)
      else s.allocTile k d f (x.rg a).toNat (x.rg b).toNat pin

/-- Whether a view descriptor's zero fields are zero (R238). -/
def viewZeros (v : Word) : Bool := v &&& ~~~(0x7F7F7F7F : Word) == 0

/-- TVIEW: the descriptor is checked before the wait for READY (R86, R238). -/
def execTview (c : Guard) (d a : BitVec 4) (b : BitVec 5) (s : State) : Host.Outcome State Fault Refusal :=
  s.cp c fun k x =>
    let h := x.rh a
    s.withTile k h fun key t =>
      let v := x.rg b
      let rows := (v.extractLsb' 16 7).toNat + 1
      let cols := (v.extractLsb' 24 7).toNat + 1
      let ro := (v.extractLsb' 8 7).toNat
      let co := (v.extractLsb' 0 7).toNat
      if !viewZeros v || decide (atomRows h.atom < ro + rows) || decide (atomCols h.atom < co + cols) || t.fmt == 10 then
        .trap (.tileFault 3 (tileAddr key 0))
      else if t.st != .ready then .wait s .other
      else
        .done (s.updCtx k fun x => x.wh d
          { bound := true, view := true, pcols := h.pcols
            atom := tileAtom (atomFmt h.atom) rows cols (atomWritable h.atom) (atomPinned h.atom) (atomPage h.atom)
            vrow := h.vrow + BitVec.ofNat 7 ro, vcol := h.vcol + BitVec.ofNat 7 co })

/-! ### TLD, TST -/

/-- Whether mode, size and index suit the handle (R239). -/
def elemOk (h : Handle) (fmt : Nat) (mode size : Nat) (idx : Word) : Bool :=
  let i := (idx.extractLsb' 16 7).toNat
  let j := (idx.extractLsb' 0 7).toNat
  idx &&& ~~~(0x7F007F : Word) == 0 && decide (i < atomRows h.atom) && decide (j < atomCols h.atom) &&
    (match mode with
     | 0 => fmt != 10 && 2 ^ size == fmtSize fmt
     | 1 => fmt == 10 && size == 2
     | 2 => fmt == 10 && size == 0
     | 3 => fmt == 10 && size == 0
     | 4 => fmt == 10 && size == 2 && idx == 0
     | _ => false)

/-- The byte offset of the element, code, block-scale code or superblock scale that a mode names (R71, R72). -/
def elemOffset (h : Handle) (mode : Nat) (i j : Nat) : Nat :=
  match mode with
  | 0 => h.offset i j
  | 3 => 8192 + 2 * i + j / 64
  | 4 => 8448
  | _ => i * 64 + j / 2

/-- What TLD of a mode reads, and the flags that a decode raises (R164, R239). -/
def State.elemRead (s : State) (key : Nat) (h : Handle) (mode size i j : Nat) : Word × FFlags :=
  let byte := fun off => ofBytes (s.tileGet key off 1)
  let code := byte (i * 64 + j / 2) / (if j % 2 = 0 then 1 else 16) % 16
  match mode with
  | 1 =>
    let r := nq4Value code (byte (8192 + 2 * i + j / 64)) (BitVec.ofNat 32 (ofBytes (s.tileGet key 8448 4)))
    (BitVec.ofNat 64 r.1, r.2)
  | 2 => (BitVec.ofNat 64 code, .none)
  | _ => (BitVec.ofNat 64 (ofBytes (s.tileGet key (elemOffset h mode i j) (2 ^ size))), .none)

/-- The pages that an access of a mode touches, as offsets: the decoded value needs the scales too (R72, R164). -/
def elemPages (h : Handle) (mode i j : Nat) : List Nat :=
  if mode = 1 then [(i * 64 + j / 2) / 2048, 4] else [elemOffset h mode i j / 2048]

/-- TLD (R239). -/
def execTld (c : Guard) (d : BitVec 5) (a : BitVec 4) (b : BitVec 5) (mode : BitVec 3) (z : Bool) (size : BitVec 2)
    (s : State) : Host.Outcome State Fault Refusal :=
  s.cp c fun k x =>
    let h := x.rh a
    s.withTile k h fun key t =>
      let idx := x.rg b
      let i := (idx.extractLsb' 16 7).toNat
      let j := (idx.extractLsb' 0 7).toNat
      if !elemOk h t.fmt mode.toNat size.toNat idx then .trap (.tileFault 3 (tileAddr key 0))
      else if t.st != .ready then .wait s .other
      else
        let off := elemOffset h mode.toNat i j
        let at_ := fun (page : Nat) => tileAddr key (if page = key + off / 2048 then off else 8192 + 2 * i + j / 64)
        (s.pagesAccess (coreOf k) ((elemPages h mode.toNat i j).map (key + ·)) x.gang false).resAt at_ fun s1 =>
          let r := s1.elemRead key h mode.toNat size.toNat i j
          let v := if mode = 0 then extendLoad z (sizeBytes size) r.1 else r.1
          .done (s1.updCtx k fun x => { x.wg d v with fxFlags := stick x.fxFlags r.2 })

/-- The bytes that TST of a mode writes: the low bytes of g[b], or a nibble beside its neighbour (R239). -/
def State.elemBytes (s : State) (key off : Nat) (mode size j : Nat) (v : Word) : List Byte :=
  if mode = 2 then
    let old := ofBytes (s.tileGet key off 1)
    let n := v.toNat % 16
    [BitVec.ofNat 8 (if j % 2 = 0 then old / 16 * 16 + n else old % 16 + 16 * n)]
  else toBytes v.toNat (2 ^ size)

/-- TST: the checks of index and mode come first, whatever the tile's state (R239). -/
def execTst (c : Guard) (d : BitVec 4) (a b : BitVec 5) (mode : BitVec 3) (size : BitVec 2) (s : State) :
    Host.Outcome State Fault Refusal :=
  s.cp c fun k x =>
    let h := x.rh d
    s.withTileIf k h (!atomWritable h.atom) fun key t =>
      let idx := x.rg a
      let i := (idx.extractLsb' 16 7).toNat
      let j := (idx.extractLsb' 0 7).toNat
      let e := s.dirE key
      if !elemOk h t.fmt mode.toNat size.toNat idx then .trap (.tileFault 3 (tileAddr key 0))
      else if e.sealed || !atomWritable h.atom || t.st != .empty then .trap .tileState
      else if e.owner != x.gang then .trap (.tileFault 2 (tileAddr key (elemOffset h mode.toNat i j)))
      else
        let off := elemOffset h mode.toNat i j
        (s.pageAccess (coreOf k) (key + off / 2048) x.gang true).res (tileAddr key off) fun s1 =>
          .done (s1.tilePut key off (s1.elemBytes key off mode.toNat size.toNat j (x.rg b)))

/-! ### The other tile instructions -/

/-- TSHAPE: the atom, with the view's rows and columns for a view (R240). -/
def execTshape (c : Guard) (d : BitVec 5) (a : BitVec 4) (s : State) : Host.Outcome State Fault Refusal :=
  s.cp c fun k x => s.withTile k (x.rh a) fun _ _ => s.setsG k d (x.rh a).atom

/-- The code of a tile state (R94, R240). -/
def TileSt.code (t : TileSt) : Nat := match t with | .empty => 0 | .filling => 1 | .ready => 2 | .draining => 3

/-- TSTATE (R240). -/
def execTstate (c : Guard) (d : BitVec 5) (a : BitVec 4) (s : State) : Host.Outcome State Fault Refusal :=
  s.cp c fun k x =>
    let h := x.rh a
    s.withTile k h fun key t =>
      let e := s.dirE key
      s.setsG k d (BitVec.ofNat 64 (t.st.code + (if h.view then 4 else 0) + (if atomWritable h.atom then 8 else 0)
        + (if atomPinned h.atom then 16 else 0) + (if !e.sealed && e.owner == x.gang then 32 else 0)))

/-- TWAIT (R241). -/
def execTwait (c : Guard) (a : BitVec 4) (s : State) : Host.Outcome State Fault Refusal :=
  s.cp c fun k x => s.withTile k (x.rh a) fun _ t => if t.st = .ready then .done s else .wait s .other

/-- TSEAL (R241). -/
def execTseal (c : Guard) (a : BitVec 4) (s : State) : Host.Outcome State Fault Refusal :=
  s.cp c fun k x =>
    let h := x.rh a
    s.withTileIf k h (!atomWritable h.atom) fun key t =>
      let e := s.dirE key
      if e.sealed || !atomWritable h.atom || t.st == .filling || t.st == .draining then .trap .tileState
      else if e.owner != x.gang then .trap (.tileFault 2 (tileAddr key 0))
      else .done (s.setTileSt key .ready)

/-- TTOUCH: starts R77 for every page, drops faults, never waits (R242). -/
def execTtouch (c : Guard) (a : BitVec 4) (s : State) : Host.Outcome State Fault Refusal :=
  s.cp c fun k x =>
    s.withTile k (x.rh a) fun key _ =>
      .done ((s.tileKeys key).foldl (fun s p =>
        match s.pageAccess (coreOf k) p x.gang false with
        | .ok s1 => s1
        | .wait s1 => s1
        | .fault _ _ _ => s) s)

/-- TADV.keep: sets the referenced bits of the tile's frames in this core (R242). -/
def execTadvKeep (c : Guard) (a : BitVec 4) (s : State) : Host.Outcome State Fault Refusal :=
  s.cp c fun k x => s.withTile k (x.rh a) fun key _ => .done ((s.tileKeys key).foldl (fun s p => s.sttRef (coreOf k) p) s)

/-- Evict the frames of a core that hold some pages and that R83 does not skip. -/
def State.evictPages (s : State) (core : Nat) (keys : List Nat) : State :=
  keys.foldl (fun s key =>
    match s.frameOf core key with
    | none => s
    | some f =>
      match tget? s.frames (core * 4096 + f) with
      | some fr => if s.clockSkips fr then s else s.evict core f key
      | none => s) s

/-- TADV.spill: evicts the tile's frames in this core at once; an open READY tile passes through DRAINING; a tile
in EMPTY or FILLING is unaffected (R86, R242). -/
def execTadvSpill (c : Guard) (a : BitVec 4) (s : State) : Host.Outcome State Fault Refusal :=
  s.cp c fun k x =>
    s.withTile k (x.rh a) fun key t =>
      if t.st != .ready then .done s
      else
        let s1 := s.evictPages (coreOf k) (s.tileKeys key)
        .done (if (s.dirE key).sealed then s1 else s1.setTileSt key .draining)

/-- Set or clear bit 39 in every handle of a context that names a page (R242). -/
def Ctx.markPin (x : Ctx) (page : Nat) (on : Bool) : Ctx :=
  { x with h := x.h.map fun h =>
      if h.bound && atomPage h.atom == page then
        { h with atom := if on then h.atom ||| 0x8000000000 else h.atom &&& ~~~(0x8000000000 : Word) }
      else h }

/-- TPIN: brings every page in, waiting as a tile access, and pins the frames of this core that hold them for this context
(R85, R242): an open page whose writer runs on another core has none here. -/
def execTpin (c : Guard) (a : BitVec 4) (s : State) : Host.Outcome State Fault Refusal :=
  s.cp c fun k x =>
    let h := x.rh a
    s.withTile k h fun key _ =>
      let core := coreOf k
      let keys := s.tileKeys key
      let fresh := keys.filter fun p => !s.pagePinned core p && ((s.dirE p).sealed || s.writerCore (s.dirE p) == core)
      if 2048 < s.pinnedFrames core + fresh.length then .trap (.tileFault 6 (tileAddr key 0))
      else
        (s.pagesAccess core keys x.gang false).resAt (tileAddr · 0) fun s1 =>
          let s2 := keys.foldl (fun s p => s.pinPage core p k) s1
          .done (if atomWritable h.atom then s2.updCtx k fun x => x.markPin (atomPage h.atom) true else s2)

/-- TPIN.un: releases this context's pins of the tile and clears bit 39 in its handles (R242). -/
def execTpinUn (c : Guard) (a : BitVec 4) (s : State) : Host.Outcome State Fault Refusal :=
  s.cp c fun k x =>
    s.withTile k (x.rh a) fun key _ =>
      .done ((s.unpin k (some (s.tileKeys key))).updCtx k fun x => x.markPin (keyPage key) false)

/-- TDROP: unbinds; the last handle of the context that names the tile releases its pins (R242). -/
def execTdrop (c : Guard) (a : BitVec 4) (s : State) : Host.Outcome State Fault Refusal :=
  s.cp c fun k x =>
    s.withTile k (x.rh a) fun key _ =>
      let s1 := s.updCtx k fun x => x.wh a {}
      let more := (s1.ctx k).h.toList.any fun h => h.bound && atomPage h.atom == keyPage key
      .done (if more then s1 else s1.unpin k (some (s1.tileKeys key)))

end Sys2Proof.Machine
end

