-- ==== Sys2Proof/Machine/Expression.lean ====
section
/-! DEFINITION. The expression instructions (R243 to R246) and the acceptance of a commit (R184). -/

namespace Sys2Proof.Machine
open Sys2Proof

/-! ### Reading the operand (R244) -/

/-- An instruction that reads operand cells: it stalls while a knead holds the application (R190). -/
def State.reading (s : State) (x : Ctx) (f : List Word → Res) : Res :=
  let i := (s.gang x.gang).ra
  if s.raHeld i then .wait s .held else f (s.operandSyms i)

/-- XSPAN of a cell. -/
def spanVal (ops : List Word) (i : Nat) : Word :=
  match ops.drop i with
  | [] => 0
  | w :: r => if kindOf w = 2 then 0 else BitVec.ofNat 64 (elemLen (w :: r) 0)

/-- XLEN of a cell: −1 for an atom, −2 for `>` or beyond the operand. -/
def lenVal (ops : List Word) (i : Nat) : Word :=
  match ops.drop i with
  | [] => BitVec.ofInt 64 (-2)
  | w :: r =>
    if kindOf w = 2 then BitVec.ofInt 64 (-2)
    else if kindOf w = 1 then BitVec.ofNat 64 (topCount (w :: r) 0)
    else BitVec.ofInt 64 (-1)

/-- XSPAN (R244). -/
def execXspan (c : Guard) (d a : BitVec 5) (s : State) : Host.Outcome State Fault Refusal :=
  s.cp c fun k x => s.reading x fun ops => s.setsG k d (spanVal ops (x.rg a).toNat)

/-- XLEN (R244). -/
def execXlen (c : Guard) (d a : BitVec 5) (s : State) : Host.Outcome State Fault Refusal :=
  s.cp c fun k x => s.reading x fun ops => s.setsG k d (lenVal ops (x.rg a).toNat)

/-- XKIND (R244). -/
def execXkind (c : Guard) (d a : BitVec 5) (s : State) : Host.Outcome State Fault Refusal :=
  s.cp c fun k x => s.reading x fun ops => s.setsG k d (BitVec.ofNat 64 (kindOf (ops.getD (x.rg a).toNat 0)))

/-- XARG (R244). -/
def execXarg (c : Guard) (d a : BitVec 5) (s : State) : Host.Outcome State Fault Refusal :=
  s.cp c fun k x => s.reading x fun ops => s.setsG k d (ops.getD (x.rg a).toNat 0)

/-- XARG.h: binds a handle to the sealed tile that a TILE atom names (R244). -/
def execXargH (c : Guard) (d : BitVec 4) (a : BitVec 5) (s : State) : Host.Outcome State Fault Refusal :=
  s.cp c fun k x => s.reading x fun ops =>
    let w := ops.getD (x.rg a).toNat 0
    if kindOf w ≠ 9 then .trap .badSymbol
    else if atomFmt w = 10 ∧ (atomRows w ≠ 128 ∨ atomCols w ≠ 128) then .trap (.tileFault 3 (tileAddr (pageKey (s.launchOf k) (atomPage w)) 0))
    else .done (s.updCtx k fun x => x.wh d (Handle.whole w))

/-! ### The result log (R184, R245) -/

/-- Append symbols to the result log: LOG_FULL beyond 1,024 (R245). -/
def State.append (s : State) (k : Nat) (l : List LogSym) : Res :=
  if 1024 < (s.ctx k).log.length + l.length then .trap .logFull
  else .done (s.updCtx k fun x => { x with log := x.log ++ l })

/-- XCOPY: ILLEGAL kind 9 for a range beyond the operand (R244, R245). -/
def execXcopy (c : Guard) (a b : BitVec 5) (s : State) : Host.Outcome State Fault Refusal :=
  s.cp c fun k x => s.reading x fun ops =>
    let i := (x.rg a).toNat
    let n := (x.rg b).toNat
    if n ≠ 0 ∧ ops.length < i + n then .trap (.illegal 9)
    else s.append k (((ops.drop i).take n).map fun w => ⟨w, true⟩)

/-- XEMIT: LOG_FULL before BAD_SYMBOL (R108, R245). -/
def execXemit (c : Guard) (a : BitVec 5) (s : State) : Host.Outcome State Fault Refusal :=
  s.cp c fun k x =>
    if 1024 ≤ x.log.length then .trap .logFull
    else if kindOf (x.rg a) = 0 ∨ 0xC ≤ kindOf (x.rg a) then .trap .badSymbol
    else s.append k [⟨x.rg a, false⟩]

/-- XEMITT: a view traps with TILE_STATE; waits until the tile is READY (R86, R245). -/
def execXemitt (c : Guard) (a : BitVec 4) (s : State) : Host.Outcome State Fault Refusal :=
  s.cp c fun k x =>
    let h := x.rh a
    s.withTileIf k h h.view fun _ t =>
      if h.view then .trap .tileState
      else if 1024 ≤ x.log.length then .trap .logFull
      else if t.st != .ready then .wait s .other
      else s.append k [⟨h.atom, true⟩]

/-- XOPEN (R245). -/
def execXopen (c : Guard) (s : State) : Host.Outcome State Fault Refusal := s.cp c fun k _ => s.append k [⟨symOpen, false⟩]

/-- XCLOSE (R245). -/
def execXclose (c : Guard) (s : State) : Host.Outcome State Fault Refusal := s.cp c fun k _ => s.append k [⟨symClose, false⟩]

/-- XCLOSE.app (R245). -/
def execXcloseApp (c : Guard) (s : State) : Host.Outcome State Fault Refusal := s.cp c fun k _ => s.append k [⟨symAppEnd, false⟩]

/-- XAPPLY: `(`, OP, `:` (R245). -/
def execXapply (c : Guard) (a b : BitVec 5) (s : State) : Host.Outcome State Fault Refusal :=
  s.cp c fun k x => s.append k [⟨symApp, false⟩, ⟨symOp (x.rg a).toNat (x.rg b).toNat, false⟩, ⟨symColon, false⟩]

/-! ### COMMIT, ABORT, XFAIL (R184, R246, R247) -/

/-- Whether a symbol may stand in a result: R174's zero bits, no EMPTY or reserved kind, a TILE atom appended from a
handle or the span and of a format that is not reserved (R184). -/
def resultSymOk (y : LogSym) : Bool :=
  kindOf y.word != 0 && decide (kindOf y.word < 0xC) && symZeros y.word
    && (kindOf y.word != 9 || (y.trusted && decide (atomFmt y.word ≤ 10)))

/-- The result of a gang: the members' logs in ascending rank (R184). -/
def State.result (s : State) (gk : Nat) : List LogSym := (s.gang gk).members.flatMap fun m => (s.ctx m).log

/-- Whether a result is well-formed (R184). -/
def resultOk (l : List LogSym) : Bool := oneElement (l.map (·.word)) && l.all resultSymOk

/-- Accept a gang's commit: engines and pushes halt, regions are killed, plans dropped, barriers freed (R184, R246). -/
def State.accept (s : State) (gk : Nat) : State :=
  let g := s.gang gk
  let s1 := ((s.stopGang gk).dropPlans gk).freeBars gk
  s1.setRa g.ra { s1.ra g.ra with
    st := .accepted, result := (s.result gk).map (·.word), gang := gk, failed := false, accAt := s.treeNow g.part }

/-- Mark a member's COMMIT, or take its mark away. -/
def State.markCommit (s : State) (gk rank : Nat) (on : Bool) : State :=
  let g := s.gang gk
  s.setGang gk { g with commits := lset g.commits rank on }

/-- COMMIT by a member (R184, R247): the last one's accepts the result, or the leader traps with BAD_SYMBOL; a
member that waits in a collective this one has not issued ends the gang with ILLEGAL. -/
def State.commitRes (s : State) (k : Nat) (x : Ctx) : Res :=
  let gk := x.gang
  let g := s.gang gk
  let mine := g.ncoll.getD x.rank 0
  if (List.range g.members.length).any fun r => decide (mine < g.ncoll.getD r 0) && (g.colls.getD r none).isSome then
    .stop (s.abandonErr gk 1)
  else
    let s1 := (s.updCtx k fun x => { x with status := .committed, wait := none, issued := true }).markCommit gk x.rank true
    if (s1.gang gk).commits.all id then
      if resultOk (s1.result gk) then
        match (s.settleAll false (s.gangImages gk)).2 with
        | some code => .stop (s.abandonErr gk code)
        | none => if s.accessStuck false (s.gangImages gk) then .wait s .other else .stop (s1.accept gk)
      else
        match g.members.head? with
        | none => .stop s1
        | some lead =>
          .stop (((s1.updCtx lead fun x => { x with status := .running }).markCommit gk 0 false).takeTrap lead .badSymbol)
    else .stop s1

/-- COMMIT (R184, R246). -/
def execCommit (c : Guard) (s : State) : Host.Outcome State Fault Refusal := s.cp c fun k x => s.commitRes k x

/-- ABORT: the gang is abandoned and its application requeued, uncounted (R246). -/
def execAbort (c : Guard) (s : State) : Host.Outcome State Fault Refusal := s.cp c fun _ x => .stop (s.abandon x.gang)

/-- XFAIL: the application reduces to one ⊥ with code g[a][15:0] (R246). -/
def execXfail (c : Guard) (a : BitVec 5) (s : State) : Host.Outcome State Fault Refusal :=
  s.cp c fun k x => .stop (s.failGang k ((x.rg a).toNat % 65536))

end Sys2Proof.Machine
end

