-- ==== Sys2Proof/Machine/Collect.lean ====
section
/-! DEFINITION. The reductions of the tree (R51), the gang collectives (R247, R248), CSEND (R249). -/

namespace Sys2Proof.Machine
open Sys2Proof

/-! ### Reductions -/

/-- RN(x + y) in a float format, one rounding (R51). -/
def addIn (f : FloatFmt) (x y : Nat) : Nat :=
  match f.value x, f.value y with
  | .nan _, _ => f.canonNaN
  | _, .nan _ => f.canonNaN
  | .inf a, .inf b => if a = b then infBits f a else f.canonNaN
  | .inf a, _ => infBits f a
  | _, .inf a => infBits f a
  | .fin n1 m1 e1, .fin n2 m2 e2 =>
    let r := exactAdd n1 m1 e1 n2 m2 e2
    (roundTo f 0 false r.1 r.2.1 r.2.2 false).1

/-- One combination of a reduction ALU: op 0 add, 1 min, 2 max, 3 and, 4 or, 5 xor; format code of R12 (R51). -/
def redOp (op fmt x y : Nat) : Nat :=
  match op with
  | 0 => if fmt = 9 then addIn fp32 x y else if fmt = 8 then addIn bf16 x y else (x + y) % 2 ^ 32
  | 3 => x &&& y
  | 4 => x ||| y
  | 5 => x ^^^ y
  | _ =>
    if fmt = 9 then (minMax fp32 (op == 2) x y).1
    else if fmt = 8 then (minMax bf16 (op == 2) x y).1
    else
      let le := if fmt = 4 then decide (x ≤ y) else (BitVec.ofNat 32 x).sle (BitVec.ofNat 32 y)
      if (op == 1) == le then x else y

/-- Combine from the left; 0 for none. -/
def redList (op fmt : Nat) (l : List Nat) : Nat :=
  match l with
  | [] => 0
  | x :: r => r.foldl (redOp op fmt) x

/-- Group (position, value) pairs, given in ascending position, by position div n, combining each group. -/
def redLevel (op fmt n : Nat) (l : List (Nat × Nat)) : List (Nat × Nat) :=
  let keys := (l.map fun e => e.1 / n).eraseDups
  keys.map fun q => (q, redList op fmt ((l.filter fun e => e.1 / n == q).map (·.2)))

/-- Insert a pair by ascending position, after equal ones. -/
def insPos (x : Nat × Nat) (l : List (Nat × Nat)) : List (Nat × Nat) :=
  match l with
  | [] => [x]
  | y :: r => if x.1 < y.1 then x :: y :: r else y :: insPos x r

/-- The reduction of (core, value) pairs in rank order: members of a core in ascending rank, cores of a cluster,
clusters of a die and dies in ascending order (R51, R248). -/
def treeReduce (op fmt : Nat) (l : List (Nat × Nat)) : Nat :=
  let cores := redLevel op fmt 1 (l.foldl (fun acc x => insPos x acc) [])
  redList op fmt ((redLevel op fmt 4 (redLevel op fmt 4 cores)).map (·.2))

/-! ### Gang collectives -/

/-- The format code of a TRRED unit field: int32, z16, fp32, bf16 (R248). -/
def trFmt (u : Nat) : Nat := match u with | 0 => 2 | 1 => 4 | 2 => 9 | _ => 8

/-- What a member writes when a collective completes (R248). -/
def collWrite (x : Ctx) (c root : Coll) (all : List (Nat × Coll)) : Ctx :=
  match c.kind with
  | 0 => x.wg (BitVec.ofNat 5 c.dst) root.value
  | 1 => x.wh (BitVec.ofNat 4 c.dst) (root.hsrc.getD {})
  | 2 =>
    let f := trFmt c.fmt
    let w := if f = 2 ∨ f = 9 then 32 else 16
    let r := treeReduce c.op f (all.map fun e => (e.1, e.2.value.toNat % 2 ^ w))
    x.wg (BitVec.ofNat 5 c.dst) (if f = 2 then sextN 32 (BitVec.ofNat 64 r) else BitVec.ofNat 64 r)
  | 3 => ((List.range all.length).foldl (fun x r => x.wg (BitVec.ofNat 5 (c.dst + r)) ((all[r]?).map (·.2.value) |>.getD 0)) x)
  | _ => x

/-- Complete a collective that every member has issued (R247, R248): each member writes its result and goes on. A
root at or beyond the gang's size abandons the gang; a root's handle that is unbound or freed makes the root trap. -/
def State.collDone (s : State) (gk : Nat) : State :=
  let g := s.gang gk
  let cs : List Coll := g.colls.filterMap fun c => c
  let all := (g.members.map coreOf).zip cs
  let rootIx := ((cs.head?.map fun c : Coll => c.root).getD 0).toNat % 16
  let kind := (cs.head?.map fun c : Coll => c.kind).getD 4
  let root := cs.getD rootIx { kind := 4 }
  let finish := (g.members.zip cs).foldl (fun s e =>
    s.updCtx e.1 fun x => (collWrite x e.2 root all).goOn (x.pc + 4))
    (s.setGang gk { g with colls := g.colls.map fun _ => none })
  if kind ≤ 1 ∧ g.members.length ≤ rootIx then s.abandonErr gk 1
  else if kind = 1 then
    let undo := s.setGang gk { g with colls := lset g.colls rootIx none, ncoll := lset g.ncoll rootIx (g.ncoll.getD rootIx 1 - 1) }
    let rk := g.members.getD rootIx 0
    match root.hsrc with
    | none => undo.takeTrap rk .tileState
    | some h =>
      if (s.tile? (s.tileKey rk h)).isNone then undo.takeTrap rk (.tileFault 1 (tileAddr (s.tileKey rk h) 0)) else finish
  else finish

/-- A member issues a collective (R247): it waits until every member has issued it. -/
def State.collRes (s : State) (_k : Nat) (x : Ctx) (c : Coll) : Res :=
  let gk := x.gang
  let g := s.gang gk
  let rank := x.rank
  if (g.colls.getD rank none).isSome then .wait s .other
  else
    let n := g.ncoll.getD rank 0 + 1
    let others := (List.range g.members.length).filter (· != rank)
    let late := others.any fun r => g.commits.getD r false && decide (g.ncoll.getD r 0 < n)
    let clash := others.any fun r =>
      match g.colls.getD r none with
      | some o => g.ncoll.getD r 0 == n && (o.kind != c.kind || o.op != c.op || o.fmt != c.fmt)
      | none => false
    if late || clash then .stop (s.abandonErr gk 1)
    else
      let g' := { g with colls := lset g.colls rank (some c), ncoll := lset g.ncoll rank n }
      let s1 := s.setGang gk g'
      if g'.colls.all (·.isSome) then .stop (s1.collDone gk) else .wait s1 .other

/-- TRBC (R248). -/
def execTrbc (c : Guard) (d a b : BitVec 5) (s : State) : Host.Outcome State Fault Refusal :=
  s.cp c fun k x => s.collRes k x { kind := 0, value := x.rg a, root := x.rg b, dst := d.toNat }

/-- TRBC.h: a copy of the root's handle (R248). -/
def execTrbcH (c : Guard) (d a : BitVec 4) (b : BitVec 5) (s : State) : Host.Outcome State Fault Refusal :=
  s.cp c fun k x =>
    s.collRes k x { kind := 1, root := x.rg b, dst := d.toNat, hsrc := if (x.rh a).bound then some (x.rh a) else none }

/-- TRRED (R248). -/
def execTrred (c : Guard) (d a : BitVec 5) (fmt op : BitVec 3) (s : State) : Host.Outcome State Fault Refusal :=
  s.cp c fun k x => s.collRes k x { kind := 2, value := x.rg a, op := op.toNat, fmt := fmt.toNat, dst := d.toNat }

/-- TRGATH: ILLEGAL when d + gang.size exceeds 32 (R248). -/
def execTrgath (c : Guard) (d a : BitVec 5) (s : State) : Host.Outcome State Fault Refusal :=
  s.cp c fun k x =>
    if 32 < d.toNat + (s.gang x.gang).members.length then .trap (.illegal)
    else s.collRes k x { kind := 3, value := x.rg a, dst := d.toNat }

/-- TRBAR (R248). -/
def execTrbar (c : Guard) (s : State) : Host.Outcome State Fault Refusal :=
  s.cp c fun k x => s.collRes k x { kind := 4 }

/-! ### CSEND -/

/-- The waiting CSEND of a rank toward a partner. -/
def Gang.csend? (g : Gang) (rank partner : Nat) (sends : Bool) : Option Csend :=
  g.csends.find? fun e => e.rank == rank && e.partner == partner && e.sends == sends

/-- Take the waiting CSEND of a rank away. -/
def Gang.dropCsend (g : Gang) (rank : Nat) : Gang := { g with csends := g.csends.filter (·.rank != rank) }

/-- Why a CSEND that has met its partner, or waits for it, waits: for a page while its copy needs one (R80, R81). -/
def Csend.why (c : Csend) : WaitWhy := match c.at_ with | some a => .page a | none => .other

/-- A CSEND whose tile is in order meets its partner, or waits for it (R249): a mismatch traps both; a match makes
the receiver's tile FILLING and starts the copy. -/
def State.csendMeet (s : State) (_k : Nat) (x : Ctx) (partner : Nat) (sends : Bool) (key : Nat) (t : Tile) : Res :=
  let gk := x.gang
  let g := s.gang gk
  match g.csend? x.rank partner sends with
  | some c => .wait s c.why
  | none =>
    match g.csend? partner x.rank (!sends) with
    | none => .wait (s.setGang gk { g with csends := g.csends ++ [{ rank := x.rank, partner := partner, sends := sends, tile := key }] }) .other
    | some o =>
      let u := (s.tile? o.tile).getD ⟨0, 0, 0, .empty, 0, 0⟩
      let pk := g.members.getD partner 0
      if u.fmt != t.fmt || u.rows != t.rows || u.cols != t.cols then
        .stop (((s.setGang gk (g.dropCsend partner)).takeTrap pk (.tileFault 3 (tileAddr o.tile 0))).takeTrap (g.members.getD x.rank 0)
          (.tileFault 3 (tileAddr key 0)))
      else
        let dst := if sends then o.tile else key
        let g' := { g.dropCsend partner with
          csends := (g.dropCsend partner).csends ++ [{ o with copying := true, pages := 0, at_ := none },
            { rank := x.rank, partner := partner, sends := sends, tile := key, copying := true }] }
        .wait ((s.setGang gk g').setTileSt dst .filling) .other

/-- Whether a partner rank is in order (R249). -/
def Gang.partnerOk (g : Gang) (rank p : Nat) : Bool := p != rank && decide (p < g.members.length)

/-- CSEND.s: a view traps with TILE_STATE (R238); the sender waits until its tile is READY (R249). -/
def execCsendS (c : Guard) (a : BitVec 4) (b : BitVec 5) (s : State) : Host.Outcome State Fault Refusal :=
  s.cp c fun k x =>
    let p := (x.rg b).toNat % 16
    if !(s.gang x.gang).partnerOk x.rank p then .trap (.illegal)
    else
      let h := x.rh a
      s.withTileIf k h h.view fun key t =>
        if h.view then .trap .tileState
        else if t.st != .ready then .wait s .other
        else s.csendMeet k x p true key t

/-- CSEND.r: the receiver's tile must be an EMPTY, writable, non-view tile owned by the gang (R249). -/
def execCsendR (c : Guard) (d : BitVec 4) (b : BitVec 5) (s : State) : Host.Outcome State Fault Refusal :=
  s.cp c fun k x =>
    let p := (x.rg b).toNat % 16
    if !(s.gang x.gang).partnerOk x.rank p then .trap (.illegal)
    else
      let h := x.rh d
      s.withTileIf k h (h.view || !atomWritable h.atom) fun key t =>
        let e := s.dirE key
        match (s.gang x.gang).csend? x.rank p false with
        | some c => .wait s c.why
        | none =>
          if h.view || !atomWritable h.atom || t.st != .empty || e.sealed || e.owner != x.gang then .trap .tileState
          else s.csendMeet k x p false key t

/-- What the copy of a tile has come to: all pages are over; it waits for a page of the source or of the destination, with the pages
that are over; or an access has faulted. -/
inductive CopyRes where
  | done (s : State)
  | wait (s : State) (pages : Nat) (src : Bool)
  | fault (code kind key : Nat)

/-- Copy pages of one tile to another of its shape, from page i on: the sender's core reads each page and the receiver's core writes
it, by accesses as any other (R76, R77, R249). Which units make them the spec does not say: DESIGN CHOICE, log 74. -/
def State.copyTile (s : State) (from_ to_ gk src dst i : Nat) : Nat → CopyRes
  | 0 => .done s
  | n + 1 =>
    match s.pageAccess from_ (src + i) gk false with
    | .fault code kind key => .fault code kind key
    | .wait s1 => .wait s1 i true
    | .ok s1 =>
      match s1.pageAccess to_ (dst + i) gk true with
      | .fault code kind key => .fault code kind key
      | .wait s2 => .wait s2 i false
      | .ok s2 =>
        (s2.setDir (dst + i) { s2.dirE (dst + i) with data := (s2.dirE (src + i)).data, backed := false }).copyTile
          from_ to_ gk src dst (i + 1) n

/-- A copy of CSEND waits for a page of its sender's or of its receiver's tile: that wait counts as any page wait of the member
(R81). -/
def Gang.copyWaits (g : Gang) (src dst pages : Nat) (atSrc : Bool) : Gang :=
  { g with csends := g.csends.map fun c =>
      if !c.copying then c
      else if c.rank = src ∧ c.partner = dst ∧ c.sends = true then
        { c with pages := pages, at_ := if atSrc then some (tileAddr (c.tile + pages) 0).toNat else none }
      else if c.rank = dst ∧ c.partner = src ∧ c.sends = false then
        { c with at_ := if atSrc then none else some (tileAddr (c.tile + pages) 0).toNat }
      else c }

/-- A copy of CSEND whose page access faults, as where the source has a lost page: its sender takes the fault (R91). The receiver's
tile returns to EMPTY and its CSEND.r waits on for another copy: DESIGN CHOICE, the spec does not say, log 74. -/
def State.copyLost (s : State) (gk src dst code kind page : Nat) : State :=
  let g := s.gang gk
  let back := (g.csend? dst src false).map (·.tile)
  let s1 := match back with | some t => s.setTileSt t .empty | none => s
  let g1 := g.dropCsend src
  let s2 := s1.setGang gk { g1 with csends := g1.csends.map fun c => if c.rank = dst then { c with copying := false, at_ := none } else c }
  match g.members[src]? with
  | some m => s2.takeTrap m ⟨code, kind, tileAddr page 0⟩
  | none => s2

/-- The copy of a CSEND pair ends: the receiver's tile becomes READY and both instructions complete (R249). A lost page of the
source ends it as `State.copyLost` says (R91). -/
def execCsendCopyDone (part gang src dst : Nat) (s : State) : Host.Outcome State Fault Refusal :=
  let gk := part * 65536 + gang
  let g := s.gang gk
  match g.csend? src dst true, g.csend? dst src false with
  | some a, some b =>
    if a.copying && b.copying then
      let core := fun (r : Nat) => coreOf (g.members.getD r 0)
      match s.copyTile (core src) (core dst) gk a.tile b.tile a.pages ((s.tileKeys b.tile).length - a.pages) with
      | .fault code kind page => .next (s.copyLost gk src dst code kind page)
      | .wait s1 pages atSrc => .next (s1.setGang gk (g.copyWaits src dst pages atSrc))
      | .done s0 =>
        let s1 := s0.setTileSt b.tile .ready
        let s2 := s1.setGang gk ((g.dropCsend src).dropCsend dst)
        .next ([src, dst].foldl (fun s r =>
          match g.members[r]? with
          | some m => s.updCtx m fun x => x.goOn (x.pc + 4)
          | none => s) s2)
    else .next s
  | _, _ => .next s

end Sys2Proof.Machine
end

