-- ==== Sys2Proof/Machine/Control.lean ====
section
/-! DEFINITION. Control flow (R212 to R215) and the instructions about traps (R230, R231). -/

namespace Sys2Proof.Machine
open Sys2Proof

/-- NOP (R212). -/
def execNop (c : Guard) (s : State) : Host.Outcome State Fault Refusal := s.cp c fun _ _ => .done s

/-- BR (R103, R213). -/
def execBr (c : Guard) (off : BitVec 21) (s : State) : Host.Outcome State Fault Refusal :=
  s.cp c fun _ x => .jump s (branchTarget x.pc off)

/-- BRL: the link to g31, then the branch (R213). -/
def execBrl (c : Guard) (off : BitVec 21) (s : State) : Host.Outcome State Fault Refusal :=
  s.cp c fun k x => .jump (s.updCtx k fun x => x.wg 31 (x.pc + 4)) (branchTarget x.pc off)

/-- JMP (R214). -/
def execJmp (c : Guard) (a : BitVec 5) (imm : BitVec 11) (s : State) : Host.Outcome State Fault Refusal :=
  s.cp c fun _ x => .jump s (jumpTarget (x.rg a) imm)

/-- JMPL: the target from g[a] as read before the link is written (R214). -/
def execJmpl (c : Guard) (d a : BitVec 5) (imm : BitVec 11) (s : State) : Host.Outcome State Fault Refusal :=
  s.cp c fun k x => .jump (s.updCtx k fun x => x.wg d (x.pc + 4)) (jumpTarget (x.rg a) imm)

/-- LOOP: count down, and back by imm11 words while the count is not zero (R215). -/
def execLoop (c : Guard) (a : BitVec 5) (imm : BitVec 11) (s : State) : Host.Outcome State Fault Refusal :=
  s.cp c fun k x =>
    let v := x.rg a - 1
    .jump (s.updCtx k fun x => x.wg a v) (if v != 0 then x.pc - BitVec.ofNat 64 (4 * imm.toNat) else x.pc + 4)

/-- TRAP k: BREAK with the kind k (R230). -/
def execTrap (c : Guard) (n : BitVec 8) (s : State) : Host.Outcome State Fault Refusal :=
  s.cp c fun _ _ => .trap ⟨0x09, n.toNat, 0⟩

/-- ERET (R231). -/
def execEret (c : Guard) (s : State) : Host.Outcome State Fault Refusal := s.cp c fun k x => s.eretRes k x false

/-- ERET.next (R231). -/
def execEretNext (c : Guard) (s : State) : Host.Outcome State Fault Refusal := s.cp c fun k x => s.eretRes k x true

end Sys2Proof.Machine
end

