-- ==== Sys2Proof/WellFormed.lean ====
section
/-! DEFINITION. Which terms of Instr are instructions: the decode checks of R107 that remain once an
instruction's fields are laid out, and the field rules of element and trigger words. A machine step without
a word of its own is always well-formed: whether it has an effect is for its meaning to say. -/

namespace Sys2Proof

open Sys2Proof.Machine

/-- The decode checks on an instruction's fields (R10, R95, R105 to R107, R266, R285). -/
def Instr.wellFormed (i : Instr) : Bool :=
  match i with
  | .add c _ _ _ _ => guardOk c
  | .sub c _ _ _ _ => guardOk c
  | .mul c _ _ _ _ => guardOk c
  | .mulh c _ _ _ _ => guardOk c
  | .mulhz c _ _ _ _ => guardOk c
  | .div c _ _ _ _ => guardOk c
  | .divz c _ _ _ _ => guardOk c
  | .rem c _ _ _ _ => guardOk c
  | .remz c _ _ _ _ => guardOk c
  | .and c _ _ _ _ => guardOk c
  | .or c _ _ _ _ => guardOk c
  | .xor c _ _ _ _ => guardOk c
  | .shl c _ _ _ _ => guardOk c
  | .shr c _ _ _ _ => guardOk c
  | .sar c _ _ _ _ => guardOk c
  | .min c _ _ _ _ => guardOk c
  | .max c _ _ _ _ => guardOk c
  | .abs c _ _ _ => guardOk c
  | .clz c _ _ _ => guardOk c
  | .popc c _ _ _ => guardOk c
  | .sext c _ _ _ b => guardOk c && decide (b.toNat < 3)
  | .zext c _ _ _ b => guardOk c && decide (b.toNat < 3)
  | .sel c _ _ _ _ => guardOk c
  | .addi c _ _ _ => guardOk c
  | .andi c _ _ _ => guardOk c
  | .ori c _ _ _ => guardOk c
  | .xori c _ _ _ => guardOk c
  | .shli c _ _ _ => guardOk c
  | .shri c _ _ _ => guardOk c
  | .sari c _ _ _ => guardOk c
  | .ldi c _ _ => guardOk c
  | .ldiHi c _ _ => guardOk c
  | .cmp c _ _ _ _ cc => guardOk c && decide (cc.toNat < 6)
  | .cmpi c _ cc _ _ => guardOk c && decide (cc.toNat < 6)
  | .fcmp c _ _ _ cc => guardOk c && decide (cc.toNat < 6)
  | .pand c _ _ _ => guardOk c
  | .por c _ _ _ => guardOk c
  | .pxor c _ _ _ => guardOk c
  | .pnot c _ _ => guardOk c
  | .fadd c _ _ _ => guardOk c
  | .fsub c _ _ _ => guardOk c
  | .fmul c _ _ _ => guardOk c
  | .fma c _ _ _ => guardOk c
  | .fmin c _ _ _ => guardOk c
  | .fmax c _ _ _ => guardOk c
  | .fabs c _ _ => guardOk c
  | .fneg c _ _ => guardOk c
  | .fdiv c _ _ _ => guardOk c
  | .fsqrt c _ _ => guardOk c
  | .fexp2 c _ _ => guardOk c
  | .flog2 c _ _ => guardOk c
  | .frcp c _ _ => guardOk c
  | .fcvt c _ _ src sat dst rm => guardOk c && fcvtOk src sat dst rm
  | .ftoi c _ _ _ _ _ => guardOk c
  | .itof c _ _ _ _ => guardOk c
  | .nop c => guardOk c
  | .br c _ => guardOk c
  | .brl c _ => guardOk c
  | .jmp c _ _ => guardOk c
  | .jmpl c _ _ _ => guardOk c
  | .loop c a _ => guardOk c && a != 0
  | .ld c _ _ _ _ => guardOk c
  | .ldz c _ _ _ _ => guardOk c
  | .st c _ _ _ _ => guardOk c
  | .ldx c _ _ _ _ _ _ => guardOk c
  | .stx c _ _ _ _ _ => guardOk c
  | .prf c _ _ _ => guardOk c
  | .cln c _ _ => guardOk c
  | .fnc c kind scope => guardOk c && kind != 3 && scopeOk scope
  | .aadd c _ _ _ scope => guardOk c && scopeOk scope
  | .amin c _ _ _ scope => guardOk c && scopeOk scope
  | .amax c _ _ _ scope => guardOk c && scopeOk scope
  | .aand c _ _ _ scope => guardOk c && scopeOk scope
  | .aor c _ _ _ scope => guardOk c && scopeOk scope
  | .axch c _ _ _ scope => guardOk c && scopeOk scope
  | .acas c _ _ _ scope => guardOk c && scopeOk scope
  | .afadd c _ _ _ scope => guardOk c && scopeOk scope
  | .bari c _ _ => guardOk c
  | .bara c _ _ => guardOk c
  | .barw c _ _ => guardOk c
  | .barq c _ _ => guardOk c
  | .gets c _ sreg => guardOk c && decide (sreg.toNat < 34)
  | .sets c _ sreg => guardOk c && decide (sreg.toNat < 34)
  | .sysc c _ => guardOk c
  | .eret c => guardOk c
  | .eretNext c => guardOk c
  | .trap c _ => guardOk c
  | .wfe c _ _ => guardOk c
  | .yield c _ => guardOk c
  | .talloc c _ _ _ fmt _ => guardOk c && decide (fmt.toNat < 11)
  | .tview c _ _ _ => guardOk c
  | .tld c _ _ _ mode _ size => guardOk c && tldOk mode size
  | .tst c _ _ _ mode size => guardOk c && tstOk mode size
  | .tshape c _ _ => guardOk c
  | .tstate c _ _ => guardOk c
  | .twait c _ => guardOk c
  | .tseal c _ => guardOk c
  | .ttouch c _ => guardOk c
  | .tadvKeep c _ => guardOk c
  | .tadvSpill c _ => guardOk c
  | .tpin c _ => guardOk c
  | .tpinUn c _ => guardOk c
  | .tdrop c _ => guardOk c
  | .xspan c _ _ => guardOk c
  | .xlen c _ _ => guardOk c
  | .xkind c _ _ => guardOk c
  | .xarg c _ _ => guardOk c
  | .xargH c _ _ => guardOk c
  | .xcopy c _ _ => guardOk c
  | .xemit c _ => guardOk c
  | .xemitt c _ => guardOk c
  | .xopen c => guardOk c
  | .xclose c => guardOk c
  | .xcloseApp c => guardOk c
  | .xapply c _ _ => guardOk c
  | .commit c => guardOk c
  | .abort c => guardOk c
  | .xfail c _ => guardOk c
  | .trbc c _ _ _ => guardOk c
  | .trbcH c _ _ _ => guardOk c
  | .trred c _ _ fmt op => guardOk c && trredOk fmt op
  | .trgath c _ _ => guardOk c
  | .trbar c => guardOk c
  | .cplan c _ _ => guardOk c
  | .cfire c _ => guardOk c
  | .cwait c _ _ _ => guardOk c
  | .cdrop c _ => guardOk c
  | .csendS c _ _ => guardOk c
  | .csendR c _ _ => guardOk c
  | .sagen c _ _ => guardOk c
  | .sagenTile c _ _ _ => guardOk c
  | .sagenPantry c _ _ => guardOk c
  | .sgo c _ => guardOk c
  | .shalt c _ => guardOk c
  | .shaltPush c _ => guardOk c
  | .swait c _ scope => guardOk c && scopeOk scope
  | .scnt c _ _ => guardOk c
  | .smcast c _ _ => guardOk c
  | .sbind c _ _ slot => guardOk c && decide (slot.toNat < 2)
  | .sbindHost c _ => guardOk c
  | .gload c q _ => guardOk c && regionMaskOk q
  | .gloadPantry c q _ => guardOk c && regionMaskOk q
  | .gpatch c q _ => guardOk c && maskOk q
  | .gpatchPantry c q _ => guardOk c && maskOk q
  | .gproof c q => guardOk c && maskOk q
  | .gseed c q _ _ => guardOk c && oneQuadOk q
  | .gdrain c q => guardOk c && maskOk q
  | .gdrainOpen c q => guardOk c && maskOk q
  | .gwait c q => guardOk c && maskOk q
  | .gwaitIdle c q => guardOk c && maskOk q
  | .gkill c q => guardOk c && maskOk q
  | .gsave c q _ => guardOk c && maskOk q
  | .gstall c _ _ => guardOk c
  | .gstallFlags c _ q => guardOk c && maskOk q
  | .eNop => true
  | .eAdd w => elWordOk rowAdd w
  | .eSub w => elWordOk rowSub w
  | .eMul w => elWordOk rowMul w
  | .eMulh w => elWordOk rowMulh w
  | .eAnd w => elWordOk rowAnd w
  | .eOr w => elWordOk rowOr w
  | .eXor w => elWordOk rowXor w
  | .eShl w => elWordOk rowShl w
  | .eShr w => elWordOk rowShr w
  | .eSar w => elWordOk rowSar w
  | .eMin w => elWordOk rowMin w
  | .eMax w => elWordOk rowMax w
  | .eCmp w => elWordOk rowCmp w
  | .eSel w => elWordOk rowSel w
  | .eMov w => elWordOk rowMov w
  | .eConst w => elWordOk rowConst w
  | .eCnt w => elWordOk rowCnt w
  | .eAcc w => elWordOk rowAcc w
  | .eFadd w => elWordOk rowFadd w
  | .eFsub w => elWordOk rowFsub w
  | .eFmul w => elWordOk rowFmul w
  | .eFfma w => elWordOk rowFfma w
  | .eFmin w => elWordOk rowFmin w
  | .eFmax w => elWordOk rowFmax w
  | .eFcmp w => elWordOk rowFcmp w
  | .eFacc w => elWordOk rowFacc w
  | .eCvt w => elWordOk rowCvt w
  | .eExp2 w => elWordOk rowExp2 w
  | .eLog2 w => elWordOk rowLog2 w
  | .eRcp w => elWordOk rowRcp w
  | .eRsq w => elWordOk rowRsq w
  | .eLd w => elWordOk rowLd w
  | .eSt w => elWordOk rowSt w
  | .eLdl w => elWordOk rowLdl w
  | .eOrdf w => elWordOk rowOrdf w
  | .eOrdj w => elWordOk rowOrdj w
  | .eSteer w => elWordOk rowSteer w
  | .eMerge w => elWordOk rowMerge w
  | .eTagchk w => elWordOk rowTagchk w
  | .eSink w => elWordOk rowSink w
  | .tMma t => trWordOk 0x01 t
  | .tMclr t => trWordOk 0x02 t
  | .tMdrain t => trWordOk 0x03 t
  | .tMscale t => trWordOk 0x04 t
  | .tAccrd t => trWordOk 0x05 t
  | .tDeq t => trWordOk 0x06 t
  | .tEnq t => trWordOk 0x07 t
  | .tPset t => trWordOk 0x08 t
  | .tPclr t => trWordOk 0x09 t
  | .tSig t => trWordOk 0x0A t
  | .tSeed t => trWordOk 0x0B t
  | .tTagset t => trWordOk 0x0C t
  | .tCnt t => trWordOk 0x0D t
  | .tMov t => trWordOk 0x0E t
  | .tCmp t => trWordOk 0x0F t
  | .tHalt t => trWordOk 0x10 t
  | .launch _ _ => true
  | .launchLoad _ _ => true
  | .preempt _ _ => true
  | .preemptComplete _ => true
  | .resume _ _ => true
  | .statusFree _ _ _ => true
  | .dvinvPage _ _ => true
  | .dvinvLaunch _ _ => true
  | .dvinvPartition _ _ => true
  | .dvinvComplete _ => true
  | .errstsClear _ _ => true
  | .routeTableWrite _ _ _ => true
  | .slcfgWrite _ _ _ => true
  | .sliceMapCommit _ _ => true
  | .mapChangeComplete _ => true
  | .partitionCreate _ _ _ => true
  | .partitionDelete _ _ => true
  | .bootgo _ => true
  | .firmwareCheck => true
  | .msixUnmask _ => true
  | .registerWrite _ _ _ => true
  | .reset => true
  | .uioRequest _ => true
  | .translationCompletion _ _ _ _ => true
  | .pageGroupResponse _ _ _ => true
  | .priTimeout _ _ => true
  | .atsInvalidateRequest _ _ => true
  | .getVersion => true
  | .getCapabilities => true
  | .negotiateAlgorithms => true
  | .getDigests => true
  | .getCertificate => true
  | .challenge _ => true
  | .getMeasurements _ => true
  | .portDown _ => true
  | .portUp _ _ _ => true
  | .thermalAlarm _ => true
  | .marginAlarm _ _ => true
  | .marginPlanTimer _ => true
  | .uncorrectableError _ => true
  | .correctedError _ _ => true
  | .fenceCore _ => true
  | .fenceSlice _ => true
  | .discoveryPass _ => true
  | .placeGang _ _ _ => true
  | .operatorLoad _ _ _ _ => true
  | .contextStart _ _ => true
  | .steal _ _ _ _ => true
  | .commitStep _ => true
  | .pageTableWalk _ _ _ _ _ => true
  | .dvaRetry _ _ _ => true
  | .sttMiss _ _ _ _ _ => true
  | .pageArrival _ _ _ _ => true
  | .faultLimitExpiry _ _ => true
  | .secondChanceClock _ => true
  | .streamBurst _ _ => true
  | .streamComplete _ _ => true
  | .streamFault _ _ => true
  | .pushUnit _ => true
  | .spaceToken _ _ => true
  | .proofWave _ _ => true
  | .islandTask _ _ => true
  | .scaleToken _ _ => true
  | .planRunComplete _ _ => true
  | .csendCopyDone _ _ _ _ => true
  | .wfeTimeout _ _ => true
  | .yieldExpiry _ _ => true
  | .monitorEndCall _ _ _ => true
  | .illegalEncoding _ => true
  | .writeOutEnd _ _ _ => true
  | .planJoin _ _ => true

end Sys2Proof
end

