-- ==== Sys2Proof/Decode.lean ====
section
/-! DEFINITION. Decoding: from bytes to an instruction or a named refusal (R101 to R107), from a context
word and a trigger instruction to their op (R118, R132), and the encoders of the same tables. -/

namespace Sys2Proof

open Sys2Proof.Machine

/-- Why a word is not an instruction (the cases of R107, and an image that ends inside a word, R93). -/
inductive DecodeErr where
  | badGuard            -- negate with p0 (R10)
  | reservedMajor       -- all zero, or a major opcode marked reserved under R104
  | reservedFunction    -- a function field with a reserved value (R105)
  | reservedValue       -- another field with a reserved value or a forbidden combination
  | unusedNonzero       -- a field that the format or description leaves unused is nonzero
  | truncated           -- fewer bytes than the word, or than the LDI's extension word
  deriving DecidableEq, Repr

/-- Bits [hi:lo] of an instruction word, `len` of them. -/
def fld (w : W32) (_hi lo len : Nat) : BitVec len := w.extractLsb' lo len

/-- The first three fields of every instruction word (R101). -/
def hd (major : BitVec 7) (c : Guard) : BitVec 11 := major ++ BitVec.ofBool c.neg ++ c.p

/-- The A-form, and the C-form with [5:0] as one field (R102). -/
def fmtA (major : BitVec 7) (c : Guard) (d a b : BitVec 5) (fn : BitVec 6) : W32 :=
  hd major c ++ d ++ a ++ b ++ fn

/-- The I-form (R102). -/
def fmtI (major : BitVec 7) (c : Guard) (d a : BitVec 5) (imm : BitVec 11) : W32 :=
  hd major c ++ d ++ a ++ imm

/-- The M-form (R102). -/
def fmtM (major : BitVec 7) (c : Guard) (d base : BitVec 5) (size : BitVec 2) (off : BitVec 9) : W32 :=
  hd major c ++ d ++ base ++ size ++ off

/-- The P-form (R102). -/
def fmtP (major : BitVec 7) (c : Guard) (d cc : BitVec 3) (a : BitVec 5) (imm : BitVec 10) : W32 :=
  hd major c ++ d ++ cc ++ a ++ imm

/-- An integer fn field: bit 5 selects the 32-bit form (R102, R105). -/
def fnW (w : Bool) (op : BitVec 5) : BitVec 6 := BitVec.ofBool w ++ op

/-- The first word of a CP instruction (R102 to R106, R236, R243, R248 to R253, R259); none for other steps. -/
def encodeWord (i : Instr) : Option W32 :=
  match i with
  | .add c w d a b => some (fmtA 0x02 c d a b (fnW w 0x00))
  | .sub c w d a b => some (fmtA 0x02 c d a b (fnW w 0x01))
  | .mul c w d a b => some (fmtA 0x02 c d a b (fnW w 0x02))
  | .mulh c w d a b => some (fmtA 0x02 c d a b (fnW w 0x03))
  | .mulhz c w d a b => some (fmtA 0x02 c d a b (fnW w 0x04))
  | .div c w d a b => some (fmtA 0x02 c d a b (fnW w 0x05))
  | .divz c w d a b => some (fmtA 0x02 c d a b (fnW w 0x06))
  | .rem c w d a b => some (fmtA 0x02 c d a b (fnW w 0x07))
  | .remz c w d a b => some (fmtA 0x02 c d a b (fnW w 0x08))
  | .and c w d a b => some (fmtA 0x02 c d a b (fnW w 0x09))
  | .or c w d a b => some (fmtA 0x02 c d a b (fnW w 0x0A))
  | .xor c w d a b => some (fmtA 0x02 c d a b (fnW w 0x0B))
  | .shl c w d a b => some (fmtA 0x02 c d a b (fnW w 0x0C))
  | .shr c w d a b => some (fmtA 0x02 c d a b (fnW w 0x0D))
  | .sar c w d a b => some (fmtA 0x02 c d a b (fnW w 0x0E))
  | .min c w d a b => some (fmtA 0x02 c d a b (fnW w 0x0F))
  | .max c w d a b => some (fmtA 0x02 c d a b (fnW w 0x10))
  | .abs c w d a => some (fmtA 0x02 c d a 0 (fnW w 0x11))
  | .clz c w d a => some (fmtA 0x02 c d a 0 (fnW w 0x12))
  | .popc c w d a => some (fmtA 0x02 c d a 0 (fnW w 0x13))
  | .sext c w d a b => some (fmtA 0x02 c d a b (fnW w 0x14))
  | .zext c w d a b => some (fmtA 0x02 c d a b (fnW w 0x15))
  | .sel c d a b k => some (fmtA 0x02 c d a b (3#3 ++ k))
  | .addi c d a imm => some (fmtI 0x03 c d a imm)
  | .andi c d a imm => some (fmtI 0x04 c d a imm)
  | .ori c d a imm => some (fmtI 0x05 c d a imm)
  | .xori c d a imm => some (fmtI 0x06 c d a imm)
  | .shli c d a n => some (fmtI 0x07 c d a (0#5 ++ n))
  | .shri c d a n => some (fmtI 0x08 c d a (0#5 ++ n))
  | .sari c d a n => some (fmtI 0x09 c d a (0#5 ++ n))
  | .ldi c d _ => some (fmtI 0x0A c d 0 0#11)
  | .ldiHi c d _ => some (fmtI 0x0A c d 0 1#11)
  | .cmp c w d a b cc => some (fmtA 0x0C c (0#2 ++ d) a b (BitVec.ofBool w ++ 0#2 ++ cc))
  | .cmpi c d cc a imm => some (fmtP 0x0D c d cc a imm)
  | .fcmp c d a b cc => some (fmtA 0x0E c (0#2 ++ d) a b (0#3 ++ cc))
  | .pand c d a b => some (fmtA 0x0F c (0#2 ++ d) (0#2 ++ a) (0#2 ++ b) 0x00#6)
  | .por c d a b => some (fmtA 0x0F c (0#2 ++ d) (0#2 ++ a) (0#2 ++ b) 0x01#6)
  | .pxor c d a b => some (fmtA 0x0F c (0#2 ++ d) (0#2 ++ a) (0#2 ++ b) 0x02#6)
  | .pnot c d a => some (fmtA 0x0F c (0#2 ++ d) (0#2 ++ a) 0 0x03#6)
  | .fadd c d a b => some (fmtA 0x10 c d a b 0x00#6)
  | .fsub c d a b => some (fmtA 0x10 c d a b 0x01#6)
  | .fmul c d a b => some (fmtA 0x10 c d a b 0x02#6)
  | .fma c d a b => some (fmtA 0x10 c d a b 0x03#6)
  | .fmin c d a b => some (fmtA 0x10 c d a b 0x04#6)
  | .fmax c d a b => some (fmtA 0x10 c d a b 0x05#6)
  | .fabs c d a => some (fmtA 0x10 c d a 0 0x06#6)
  | .fneg c d a => some (fmtA 0x10 c d a 0 0x07#6)
  | .fdiv c d a b => some (fmtA 0x10 c d a b 0x08#6)
  | .fsqrt c d a => some (fmtA 0x10 c d a 0 0x09#6)
  | .fexp2 c d a => some (fmtA 0x10 c d a 0 0x0A#6)
  | .flog2 c d a => some (fmtA 0x10 c d a 0 0x0B#6)
  | .frcp c d a => some (fmtA 0x10 c d a 0 0x0C#6)
  | .fcvt c d a src sat dst rm => some (fmtA 0x11 c d a (src ++ BitVec.ofBool sat) (dst ++ rm))
  | .ftoi c d a z width rm => some (fmtA 0x12 c d a 0 (BitVec.ofBool z ++ width ++ 0#1 ++ rm))
  | .itof c d a z width => some (fmtA 0x13 c d a 0 (BitVec.ofBool z ++ width ++ 0#3))
  | .nop c => some (fmtI 0x01 c 0 0 0)
  | .br c off => some (hd 0x18 c ++ off)
  | .brl c off => some (hd 0x19 c ++ off)
  | .jmp c a imm => some (fmtI 0x1A c 0 a imm)
  | .jmpl c d a imm => some (fmtI 0x1B c d a imm)
  | .loop c a imm => some (fmtI 0x1C c 0 a imm)
  | .ld c d base size off => some (fmtM 0x20 c d base size off)
  | .ldz c d base size off => some (fmtM 0x21 c d base size off)
  | .st c d base size off => some (fmtM 0x22 c d base size off)
  | .ldx c d a b sh z size => some (fmtA 0x23 c d a b (sh ++ BitVec.ofBool z ++ size))
  | .stx c d a b sh size => some (fmtA 0x24 c d a b (sh ++ 0#1 ++ size))
  | .prf c wr base off => some (fmtM 0x25 c (0#4 ++ BitVec.ofBool wr) base 0 off)
  | .cln c base off => some (fmtM 0x26 c 0 base 0 off)
  | .fnc c kind scope => some (fmtI 0x27 c 0 0 (0#6 ++ kind ++ scope))
  | .aadd c d a b scope => some (fmtA 0x28 c d a b (scope ++ 0#3))
  | .amin c d a b scope => some (fmtA 0x28 c d a b (scope ++ 1#3))
  | .amax c d a b scope => some (fmtA 0x28 c d a b (scope ++ 2#3))
  | .aand c d a b scope => some (fmtA 0x28 c d a b (scope ++ 3#3))
  | .aor c d a b scope => some (fmtA 0x28 c d a b (scope ++ 4#3))
  | .axch c d a b scope => some (fmtA 0x28 c d a b (scope ++ 5#3))
  | .acas c d a b scope => some (fmtA 0x28 c d a b (scope ++ 6#3))
  | .afadd c d a b scope => some (fmtA 0x28 c d a b (scope ++ 7#3))
  | .bari c bar b => some (fmtA 0x2C c 0 bar b 0)
  | .bara c d bar => some (fmtA 0x2C c d bar 0 1)
  | .barw c bar b => some (fmtA 0x2C c 0 bar b 2)
  | .barq c d bar => some (fmtA 0x2C c d bar 0 3)
  | .gets c d sreg => some (fmtI 0x30 c d 0 sreg)
  | .sets c a sreg => some (fmtI 0x31 c 0 a sreg)
  | .sysc c n => some (fmtI 0x32 c 0 0 n)
  | .eret c => some (fmtI 0x33 c 0 0 0#11)
  | .eretNext c => some (fmtI 0x33 c 0 0 1#11)
  | .trap c k => some (fmtI 0x34 c 0 0 (0#3 ++ k))
  | .wfe c d n => some (fmtI 0x35 c d 0 n)
  | .yield c n => some (fmtI 0x36 c 0 0 n)
  | .talloc c d a b fmt pin => some (fmtA 0x38 c (0#1 ++ d) a b (fmt ++ BitVec.ofBool pin ++ 0#1))
  | .tview c d a b => some (fmtA 0x39 c (0#1 ++ d) (0#1 ++ a) b 0)
  | .tld c d a b mode z size => some (fmtA 0x3A c d (0#1 ++ a) b (mode ++ BitVec.ofBool z ++ size))
  | .tst c d a b mode size => some (fmtA 0x3B c (0#1 ++ d) a b (mode ++ 0#1 ++ size))
  | .tshape c d a => some (fmtA 0x3C c d (0#1 ++ a) 0 0)
  | .tstate c d a => some (fmtA 0x3D c d (0#1 ++ a) 0 0)
  | .twait c a => some (fmtA 0x3E c 0 (0#1 ++ a) 0 0)
  | .tseal c a => some (fmtA 0x3F c 0 (0#1 ++ a) 0 0)
  | .ttouch c a => some (fmtA 0x40 c 0 (0#1 ++ a) 0 0)
  | .tadvKeep c a => some (fmtA 0x41 c 0 (0#1 ++ a) 0 0)
  | .tadvSpill c a => some (fmtA 0x41 c 0 (0#1 ++ a) 0 1)
  | .tpin c a => some (fmtA 0x42 c 0 (0#1 ++ a) 0 0)
  | .tpinUn c a => some (fmtA 0x42 c 0 (0#1 ++ a) 0 1)
  | .tdrop c a => some (fmtA 0x43 c 0 (0#1 ++ a) 0 0)
  | .xspan c d a => some (fmtA 0x48 c d a 0 0)
  | .xlen c d a => some (fmtA 0x49 c d a 0 0)
  | .xkind c d a => some (fmtA 0x4A c d a 0 0)
  | .xarg c d a => some (fmtA 0x4B c d a 0 0)
  | .xargH c d a => some (fmtA 0x4B c (0#1 ++ d) a 0 1)
  | .xcopy c a b => some (fmtA 0x4C c 0 a b 0)
  | .xemit c a => some (fmtA 0x4D c 0 a 0 0)
  | .xemitt c a => some (fmtA 0x4E c 0 (0#1 ++ a) 0 0)
  | .xopen c => some (fmtA 0x4F c 0 0 0 0)
  | .xclose c => some (fmtA 0x50 c 0 0 0 0)
  | .xcloseApp c => some (fmtA 0x50 c 0 0 0 1)
  | .xapply c a b => some (fmtA 0x51 c 0 a b 0)
  | .commit c => some (fmtA 0x52 c 0 0 0 0)
  | .abort c => some (fmtA 0x53 c 0 0 0 0)
  | .xfail c a => some (fmtA 0x54 c 0 a 0 0)
  | .trbc c d a b => some (fmtA 0x58 c d a b 0)
  | .trbcH c d a b => some (fmtA 0x58 c (0#1 ++ d) (0#1 ++ a) b 8)
  | .trred c d a fmt op => some (fmtA 0x59 c d a 0 (fmt ++ op))
  | .trgath c d a => some (fmtA 0x5A c d a 0 0)
  | .trbar c => some (fmtA 0x5B c 0 0 0 0)
  | .cplan c d a => some (fmtA 0x5C c d a 0 0)
  | .cfire c a => some (fmtA 0x5D c 0 a 0 0)
  | .cwait c d a b => some (fmtA 0x5E c d a b 0)
  | .cdrop c a => some (fmtA 0x5F c 0 a 0 0)
  | .csendS c a b => some (fmtA 0x60 c 0 (0#1 ++ a) b 0)
  | .csendR c d b => some (fmtA 0x60 c (0#1 ++ d) 0 b 1)
  | .sagen c eng a => some (fmtA 0x64 c (0#1 ++ eng) a 0 0)
  | .sagenTile c eng a b => some (fmtA 0x64 c (0#1 ++ eng) (0#1 ++ a) b 1)
  | .sagenPantry c eng entry => some (hd 0x64 c ++ (0#1 ++ eng) ++ entry ++ 2#6)
  | .sgo c eng => some (fmtA 0x65 c (0#1 ++ eng) 0 0 0)
  | .shalt c eng => some (fmtA 0x66 c (0#1 ++ eng) 0 0 0)
  | .shaltPush c a => some (fmtA 0x66 c 0 a 0 1)
  | .swait c eng scope => some (fmtA 0x67 c (0#1 ++ eng) 0 0 (0#3 ++ scope))
  | .scnt c d eng => some (fmtA 0x68 c d (0#1 ++ eng) 0 0)
  | .smcast c a b => some (fmtA 0x69 c 0 a b 0)
  | .sbind c eng a slot => some (fmtA 0x6A c (0#1 ++ eng) (0#1 ++ a) slot 0)
  | .sbindHost c eng => some (fmtA 0x6A c (0#1 ++ eng) 0 0 1)
  | .gload c q a => some (fmtA 0x70 c (0#1 ++ q) a 0 0)
  | .gloadPantry c q entry => some (hd 0x70 c ++ (0#1 ++ q) ++ entry ++ 2#6)
  | .gpatch c q a => some (fmtA 0x71 c (0#1 ++ q) a 0 0)
  | .gpatchPantry c q entry => some (hd 0x71 c ++ (0#1 ++ q) ++ entry ++ 2#6)
  | .gproof c q => some (fmtA 0x72 c (0#1 ++ q) 0 0 0)
  | .gseed c q a b => some (fmtA 0x73 c (0#1 ++ q) a b 0)
  | .gdrain c q => some (fmtA 0x74 c (0#1 ++ q) 0 0 0)
  | .gdrainOpen c q => some (fmtA 0x74 c (0#1 ++ q) 0 0 1)
  | .gwait c q => some (fmtA 0x75 c (0#1 ++ q) 0 0 0)
  | .gwaitIdle c q => some (fmtA 0x75 c (0#1 ++ q) 0 0 1)
  | .gkill c q => some (fmtA 0x76 c (0#1 ++ q) 0 0 0)
  | .gsave c q a => some (fmtA 0x77 c (0#1 ++ q) a 0 0)
  | .gstall c d a => some (fmtA 0x78 c d a 0 0)
  | .gstallFlags c d q => some (fmtA 0x78 c d (0#1 ++ q) 0 1)
  | _ => none

/-- The words of a CP instruction: LDI has a second, its extension word (R101). -/
def encode (i : Instr) : List W32 :=
  match i, encodeWord i with
  | .ldi _ _ imm, some w => [w, imm]
  | .ldiHi _ _ imm, some w => [w, imm]
  | _, some w => [w]
  | _, none => []

/-- An instruction is two words if and only if its major opcode is 0x0A (R101). -/
def isTwoWords (word : W32) : Bool := fld word 31 25 7 == 0x0A

/-- The guard of a word (R10, R101). -/
def guardOf (word : W32) : Guard := ⟨word.getLsbD 24, fld word 23 21 3⟩

/-- The instruction that a word's major opcode and function field select, with its fields as they stand
(R104, R105); `ext` is the extension word of an LDI. -/
def decodeFields (word ext : W32) : Except DecodeErr Instr :=
  let c := guardOf word
  let d : BitVec 5 := fld word 20 16 5
  let a : BitVec 5 := fld word 15 11 5
  let b : BitVec 5 := fld word 10 6 5
  let fn : BitVec 6 := fld word 5 0 6
  let w : Bool := word.getLsbD 5
  let imm11 : BitVec 11 := fld word 10 0 11
  match (fld word 31 25 7).toNat with
  | 0x01 =>
    .ok (.nop c)
  | 0x02 =>
    match (fn.toNat % 32) with
    | 0x00 => .ok (.add c w d a b)
    | 0x01 => .ok (.sub c w d a b)
    | 0x02 => .ok (.mul c w d a b)
    | 0x03 => .ok (.mulh c w d a b)
    | 0x04 => .ok (.mulhz c w d a b)
    | 0x05 => .ok (.div c w d a b)
    | 0x06 => .ok (.divz c w d a b)
    | 0x07 => .ok (.rem c w d a b)
    | 0x08 => .ok (.remz c w d a b)
    | 0x09 => .ok (.and c w d a b)
    | 0x0A => .ok (.or c w d a b)
    | 0x0B => .ok (.xor c w d a b)
    | 0x0C => .ok (.shl c w d a b)
    | 0x0D => .ok (.shr c w d a b)
    | 0x0E => .ok (.sar c w d a b)
    | 0x0F => .ok (.min c w d a b)
    | 0x10 => .ok (.max c w d a b)
    | 0x11 => .ok (.abs c w d a)
    | 0x12 => .ok (.clz c w d a)
    | 0x13 => .ok (.popc c w d a)
    | 0x14 => .ok (.sext c w d a b)
    | 0x15 => .ok (.zext c w d a b)
    | 0x18 | 0x19 | 0x1A | 0x1B | 0x1C | 0x1D | 0x1E | 0x1F => .ok (.sel c d a b (fld word 2 0 3))
    | _ => .error .reservedFunction
  | 0x03 =>
    .ok (.addi c d a imm11)
  | 0x04 =>
    .ok (.andi c d a imm11)
  | 0x05 =>
    .ok (.ori c d a imm11)
  | 0x06 =>
    .ok (.xori c d a imm11)
  | 0x07 =>
    .ok (.shli c d a fn)
  | 0x08 =>
    .ok (.shri c d a fn)
  | 0x09 =>
    .ok (.sari c d a fn)
  | 0x0A =>
    if imm11.getLsbD 0 then .ok (.ldiHi c d ext) else .ok (.ldi c d ext)
  | 0x0C =>
    .ok (.cmp c w (fld word 18 16 3) a b (fld word 2 0 3))
  | 0x0D =>
    .ok (.cmpi c (fld word 20 18 3) (fld word 17 15 3) (fld word 14 10 5) (fld word 9 0 10))
  | 0x0E =>
    .ok (.fcmp c (fld word 18 16 3) a b (fld word 2 0 3))
  | 0x0F =>
    match fn.toNat with
    | 0 => .ok (.pand c (fld word 18 16 3) (fld word 13 11 3) (fld word 8 6 3))
    | 1 => .ok (.por c (fld word 18 16 3) (fld word 13 11 3) (fld word 8 6 3))
    | 2 => .ok (.pxor c (fld word 18 16 3) (fld word 13 11 3) (fld word 8 6 3))
    | 3 => .ok (.pnot c (fld word 18 16 3) (fld word 13 11 3))
    | _ => .error .reservedFunction
  | 0x10 =>
    match fn.toNat with
    | 0x00 => .ok (.fadd c d a b)
    | 0x01 => .ok (.fsub c d a b)
    | 0x02 => .ok (.fmul c d a b)
    | 0x03 => .ok (.fma c d a b)
    | 0x04 => .ok (.fmin c d a b)
    | 0x05 => .ok (.fmax c d a b)
    | 0x06 => .ok (.fabs c d a)
    | 0x07 => .ok (.fneg c d a)
    | 0x08 => .ok (.fdiv c d a b)
    | 0x09 => .ok (.fsqrt c d a)
    | 0x0A => .ok (.fexp2 c d a)
    | 0x0B => .ok (.flog2 c d a)
    | 0x0C => .ok (.frcp c d a)
    | _ => .error .reservedFunction
  | 0x11 =>
    .ok (.fcvt c d a (fld word 10 7 4) (word.getLsbD 6) (fld word 5 2 4) (fld word 1 0 2))
  | 0x12 =>
    .ok (.ftoi c d a w (fld word 4 3 2) (fld word 1 0 2))
  | 0x13 =>
    .ok (.itof c d a w (fld word 4 3 2))
  | 0x18 =>
    .ok (.br c (fld word 20 0 21))
  | 0x19 =>
    .ok (.brl c (fld word 20 0 21))
  | 0x1A =>
    .ok (.jmp c a imm11)
  | 0x1B =>
    .ok (.jmpl c d a imm11)
  | 0x1C =>
    .ok (.loop c a imm11)
  | 0x20 =>
    .ok (.ld c d a (fld word 10 9 2) (fld word 8 0 9))
  | 0x21 =>
    .ok (.ldz c d a (fld word 10 9 2) (fld word 8 0 9))
  | 0x22 =>
    .ok (.st c d a (fld word 10 9 2) (fld word 8 0 9))
  | 0x23 =>
    .ok (.ldx c d a b (fld word 5 3 3) (word.getLsbD 2) (fld word 1 0 2))
  | 0x24 =>
    .ok (.stx c d a b (fld word 5 3 3) (fld word 1 0 2))
  | 0x25 =>
    .ok (.prf c (word.getLsbD 16) a (fld word 8 0 9))
  | 0x26 =>
    .ok (.cln c a (fld word 8 0 9))
  | 0x27 =>
    .ok (.fnc c (fld word 4 3 2) (fld word 2 0 3))
  | 0x28 =>
    match (fld word 2 0 3).toNat with
    | 0 => .ok (.aadd c d a b (fld word 5 3 3))
    | 1 => .ok (.amin c d a b (fld word 5 3 3))
    | 2 => .ok (.amax c d a b (fld word 5 3 3))
    | 3 => .ok (.aand c d a b (fld word 5 3 3))
    | 4 => .ok (.aor c d a b (fld word 5 3 3))
    | 5 => .ok (.axch c d a b (fld word 5 3 3))
    | 6 => .ok (.acas c d a b (fld word 5 3 3))
    | _ => .ok (.afadd c d a b (fld word 5 3 3))
  | 0x2C =>
    match fn.toNat with
    | 0 => .ok (.bari c a b)
    | 1 => .ok (.bara c d a)
    | 2 => .ok (.barw c a b)
    | 3 => .ok (.barq c d a)
    | _ => .error .reservedFunction
  | 0x30 =>
    .ok (.gets c d imm11)
  | 0x31 =>
    .ok (.sets c a imm11)
  | 0x32 =>
    .ok (.sysc c imm11)
  | 0x33 =>
    if imm11.getLsbD 0 then .ok (.eretNext c) else .ok (.eret c)
  | 0x34 =>
    .ok (.trap c (fld word 7 0 8))
  | 0x35 =>
    .ok (.wfe c d imm11)
  | 0x36 =>
    .ok (.yield c imm11)
  | 0x38 =>
    .ok (.talloc c (fld word 19 16 4) a b (fld word 5 2 4) (word.getLsbD 1))
  | 0x39 =>
    .ok (.tview c (fld word 19 16 4) (fld word 14 11 4) b)
  | 0x3A =>
    .ok (.tld c d (fld word 14 11 4) b (fld word 5 3 3) (word.getLsbD 2) (fld word 1 0 2))
  | 0x3B =>
    .ok (.tst c (fld word 19 16 4) a b (fld word 5 3 3) (fld word 1 0 2))
  | 0x3C =>
    .ok (.tshape c d (fld word 14 11 4))
  | 0x3D =>
    .ok (.tstate c d (fld word 14 11 4))
  | 0x3E =>
    match fn.toNat with
    | 0 => .ok (.twait c (fld word 14 11 4))
    | _ => .error .reservedFunction
  | 0x3F =>
    match fn.toNat with
    | 0 => .ok (.tseal c (fld word 14 11 4))
    | _ => .error .reservedFunction
  | 0x40 =>
    match fn.toNat with
    | 0 => .ok (.ttouch c (fld word 14 11 4))
    | _ => .error .reservedFunction
  | 0x41 =>
    match fn.toNat with
    | 0 => .ok (.tadvKeep c (fld word 14 11 4))
    | 1 => .ok (.tadvSpill c (fld word 14 11 4))
    | _ => .error .reservedFunction
  | 0x42 =>
    match fn.toNat with
    | 0 => .ok (.tpin c (fld word 14 11 4))
    | 1 => .ok (.tpinUn c (fld word 14 11 4))
    | _ => .error .reservedFunction
  | 0x43 =>
    match fn.toNat with
    | 0 => .ok (.tdrop c (fld word 14 11 4))
    | _ => .error .reservedFunction
  | 0x48 =>
    .ok (.xspan c d a)
  | 0x49 =>
    .ok (.xlen c d a)
  | 0x4A =>
    .ok (.xkind c d a)
  | 0x4B =>
    match fn.toNat with
    | 0 => .ok (.xarg c d a)
    | 1 => .ok (.xargH c (fld word 19 16 4) a)
    | _ => .error .reservedFunction
  | 0x4C =>
    .ok (.xcopy c a b)
  | 0x4D =>
    .ok (.xemit c a)
  | 0x4E =>
    .ok (.xemitt c (fld word 14 11 4))
  | 0x4F =>
    .ok (.xopen c)
  | 0x50 =>
    match fn.toNat with
    | 0 => .ok (.xclose c)
    | 1 => .ok (.xcloseApp c)
    | _ => .error .reservedFunction
  | 0x51 =>
    .ok (.xapply c a b)
  | 0x52 =>
    .ok (.commit c)
  | 0x53 =>
    .ok (.abort c)
  | 0x54 =>
    .ok (.xfail c a)
  | 0x58 =>
    match fn.toNat with
    | 0 => .ok (.trbc c d a b)
    | 8 => .ok (.trbcH c (fld word 19 16 4) (fld word 14 11 4) b)
    | _ => .error .reservedFunction
  | 0x59 =>
    .ok (.trred c d a (fld word 5 3 3) (fld word 2 0 3))
  | 0x5A =>
    .ok (.trgath c d a)
  | 0x5B =>
    .ok (.trbar c)
  | 0x5C =>
    .ok (.cplan c d a)
  | 0x5D =>
    .ok (.cfire c a)
  | 0x5E =>
    .ok (.cwait c d a b)
  | 0x5F =>
    .ok (.cdrop c a)
  | 0x60 =>
    match fn.toNat with
    | 0 => .ok (.csendS c (fld word 14 11 4) b)
    | 1 => .ok (.csendR c (fld word 19 16 4) b)
    | _ => .error .reservedFunction
  | 0x64 =>
    match fn.toNat with
    | 0 => .ok (.sagen c (fld word 19 16 4) a)
    | 1 => .ok (.sagenTile c (fld word 19 16 4) (fld word 14 11 4) b)
    | 2 => .ok (.sagenPantry c (fld word 19 16 4) (fld word 15 6 10))
    | _ => .error .reservedFunction
  | 0x65 =>
    .ok (.sgo c (fld word 19 16 4))
  | 0x66 =>
    match fn.toNat with
    | 0 => .ok (.shalt c (fld word 19 16 4))
    | 1 => .ok (.shaltPush c a)
    | _ => .error .reservedFunction
  | 0x67 =>
    .ok (.swait c (fld word 19 16 4) (fld word 2 0 3))
  | 0x68 =>
    .ok (.scnt c d (fld word 14 11 4))
  | 0x69 =>
    .ok (.smcast c a b)
  | 0x6A =>
    match fn.toNat with
    | 0 => .ok (.sbind c (fld word 19 16 4) (fld word 14 11 4) b)
    | 1 => .ok (.sbindHost c (fld word 19 16 4))
    | _ => .error .reservedFunction
  | 0x70 =>
    match fn.toNat with
    | 0 => .ok (.gload c (fld word 19 16 4) a)
    | 2 => .ok (.gloadPantry c (fld word 19 16 4) (fld word 15 6 10))
    | _ => .error .reservedFunction
  | 0x71 =>
    match fn.toNat with
    | 0 => .ok (.gpatch c (fld word 19 16 4) a)
    | 2 => .ok (.gpatchPantry c (fld word 19 16 4) (fld word 15 6 10))
    | _ => .error .reservedFunction
  | 0x72 =>
    .ok (.gproof c (fld word 19 16 4))
  | 0x73 =>
    .ok (.gseed c (fld word 19 16 4) a b)
  | 0x74 =>
    match fn.toNat with
    | 0 => .ok (.gdrain c (fld word 19 16 4))
    | 1 => .ok (.gdrainOpen c (fld word 19 16 4))
    | _ => .error .reservedFunction
  | 0x75 =>
    match fn.toNat with
    | 0 => .ok (.gwait c (fld word 19 16 4))
    | 1 => .ok (.gwaitIdle c (fld word 19 16 4))
    | _ => .error .reservedFunction
  | 0x76 =>
    .ok (.gkill c (fld word 19 16 4))
  | 0x77 =>
    .ok (.gsave c (fld word 19 16 4) a)
  | 0x78 =>
    match fn.toNat with
    | 0 => .ok (.gstall c d a)
    | 1 => .ok (.gstallFlags c d (fld word 14 11 4))
    | _ => .error .reservedFunction
  | _ => .error .reservedMajor

/-- The decode checks of R107: a word is the instruction its fields select if its guard is not reserved, its
fields hold no reserved value, and every field it leaves unused is zero. -/
def decodeWord (word ext : W32) : Except DecodeErr Instr :=
  if guardOk (guardOf word) then
    match decodeFields word ext with
    | .error e => .error e
    | .ok i =>
      if encodeWord i = some word then
        if i.wellFormed then .ok i else .error .reservedValue
      else .error .unusedNonzero
  else .error .badGuard

/-- A little-endian 32-bit word of a code image (R93), with the bytes behind it. -/
def takeWord (bs : List Byte) : Option (W32 × List Byte) :=
  match bs with
  | b0 :: b1 :: b2 :: b3 :: rest => some (b3 ++ b2 ++ b1 ++ b0, rest)
  | _ => none

/-- Decoding from the bytes of a code image: the instruction and the rest (R93, R101, R107). -/
def decode (bs : List Byte) : Except DecodeErr (Instr × List Byte) :=
  match takeWord bs with
  | none => .error .truncated
  | some (w, rest) =>
    if isTwoWords w then
      match takeWord rest with
      | none => .error .truncated
      | some (x, rest') => (decodeWord w x).map (·, rest')
    else (decodeWord w 0).map (·, rest)

/-- The bytes of a word as a code image holds them (R93). -/
def wordBytes (w : W32) : List Byte :=
  [w.extractLsb' 0 8, w.extractLsb' 8 8, w.extractLsb' 16 8, w.extractLsb' 24 8]

/-- The words of an instruction given as a number in the table's numbering: bit 0 is the least significant
bit of the first word, and the extension word's bits count on from bit 32. -/
def tableWords (nbits w : Nat) : List W32 :=
  let w0 : W32 := BitVec.ofNat 32 (w % 2 ^ nbits)
  if isTwoWords w0 then [w0, BitVec.ofNat 32 (w % 2 ^ nbits / 2 ^ 32)] else [w0]

/-- What the decoder reads from the table's word. -/
def decodeTableWord (nbits w : Nat) : Option Instr :=
  match decode ((tableWords nbits w).flatMap wordBytes) with
  | .ok (i, _) => some i
  | .error _ => none

/-! ### Context words (R118) -/

/-- The fields of a context word less the op. -/
def elFields (w : Word) : ElWord :=
  { a := w.extractLsb' 54 3, b := w.extractLsb' 51 3, p := w.extractLsb' 48 3,
    dN := w.extractLsb' 45 3, dE := w.extractLsb' 42 3, dS := w.extractLsb' 39 3, dW := w.extractLsb' 36 3,
    tag := w.extractLsb' 31 5, tagMode := w.extractLsb' 29 2, lact := w.extractLsb' 27 2,
    cond := w.extractLsb' 24 3, aux := w.extractLsb' 16 8, imm := w.extractLsb' 0 16 }

/-- A context word from its op and fields (R118). -/
def packEl (op : BitVec 7) (e : ElWord) : Word :=
  op ++ e.a ++ e.b ++ e.p ++ e.dN ++ e.dE ++ e.dS ++ e.dW ++ e.tag ++ e.tagMode ++ e.lact ++ e.cond ++ e.aux ++ e.imm

/-- The element op that a context word holds; none for a reserved op, or an e.nop with another field set
(R118, R270). -/
def decodeElem (w : Word) : Option Instr :=
  let e := elFields w
  match (w.extractLsb' 57 7).toNat with
  | 0x00 => if w = 0 then some .eNop else none
  | 0x01 => some (.eAdd e)
  | 0x02 => some (.eSub e)
  | 0x03 => some (.eMul e)
  | 0x04 => some (.eMulh e)
  | 0x05 => some (.eAnd e)
  | 0x06 => some (.eOr e)
  | 0x07 => some (.eXor e)
  | 0x08 => some (.eShl e)
  | 0x09 => some (.eShr e)
  | 0x0A => some (.eSar e)
  | 0x0B => some (.eMin e)
  | 0x0C => some (.eMax e)
  | 0x0D => some (.eCmp e)
  | 0x0E => some (.eSel e)
  | 0x0F => some (.eMov e)
  | 0x10 => some (.eConst e)
  | 0x11 => some (.eCnt e)
  | 0x12 => some (.eAcc e)
  | 0x13 => some (.eFadd e)
  | 0x14 => some (.eFsub e)
  | 0x15 => some (.eFmul e)
  | 0x16 => some (.eFfma e)
  | 0x17 => some (.eFmin e)
  | 0x18 => some (.eFmax e)
  | 0x19 => some (.eFcmp e)
  | 0x1A => some (.eFacc e)
  | 0x1B => some (.eCvt e)
  | 0x1C => some (.eExp2 e)
  | 0x1D => some (.eLog2 e)
  | 0x1E => some (.eRcp e)
  | 0x1F => some (.eRsq e)
  | 0x20 => some (.eLd e)
  | 0x21 => some (.eSt e)
  | 0x22 => some (.eLdl e)
  | 0x23 => some (.eOrdf e)
  | 0x24 => some (.eOrdj e)
  | 0x25 => some (.eSteer e)
  | 0x26 => some (.eMerge e)
  | 0x27 => some (.eTagchk e)
  | 0x28 => some (.eSink e)
  | _ => none

/-- The context word of an element op (R118, R270). -/
def encodeElem (i : Instr) : Option Word :=
  match i with
  | .eNop => some 0
  | .eAdd w => some (packEl 0x01 w)
  | .eSub w => some (packEl 0x02 w)
  | .eMul w => some (packEl 0x03 w)
  | .eMulh w => some (packEl 0x04 w)
  | .eAnd w => some (packEl 0x05 w)
  | .eOr w => some (packEl 0x06 w)
  | .eXor w => some (packEl 0x07 w)
  | .eShl w => some (packEl 0x08 w)
  | .eShr w => some (packEl 0x09 w)
  | .eSar w => some (packEl 0x0A w)
  | .eMin w => some (packEl 0x0B w)
  | .eMax w => some (packEl 0x0C w)
  | .eCmp w => some (packEl 0x0D w)
  | .eSel w => some (packEl 0x0E w)
  | .eMov w => some (packEl 0x0F w)
  | .eConst w => some (packEl 0x10 w)
  | .eCnt w => some (packEl 0x11 w)
  | .eAcc w => some (packEl 0x12 w)
  | .eFadd w => some (packEl 0x13 w)
  | .eFsub w => some (packEl 0x14 w)
  | .eFmul w => some (packEl 0x15 w)
  | .eFfma w => some (packEl 0x16 w)
  | .eFmin w => some (packEl 0x17 w)
  | .eFmax w => some (packEl 0x18 w)
  | .eFcmp w => some (packEl 0x19 w)
  | .eFacc w => some (packEl 0x1A w)
  | .eCvt w => some (packEl 0x1B w)
  | .eExp2 w => some (packEl 0x1C w)
  | .eLog2 w => some (packEl 0x1D w)
  | .eRcp w => some (packEl 0x1E w)
  | .eRsq w => some (packEl 0x1F w)
  | .eLd w => some (packEl 0x20 w)
  | .eSt w => some (packEl 0x21 w)
  | .eLdl w => some (packEl 0x22 w)
  | .eOrdf w => some (packEl 0x23 w)
  | .eOrdj w => some (packEl 0x24 w)
  | .eSteer w => some (packEl 0x25 w)
  | .eMerge w => some (packEl 0x26 w)
  | .eTagchk w => some (packEl 0x27 w)
  | .eSink w => some (packEl 0x28 w)
  | _ => none

/-! ### Trigger instructions (R132) -/

/-- The fields of a valid trigger instruction less the op. -/
def trFields (w : Word) : TrWord :=
  { mask := w.extractLsb' 55 8, value := w.extractLsb' 47 8, head := w.extractLsb' 43 4,
    tag := w.extractLsb' 38 5, tagQ := w.extractLsb' 36 2, tagEn := w.getLsbD 35,
    setEn := w.getLsbD 27, setIx := w.extractLsb' 24 3, clrEn := w.getLsbD 23, clrIx := w.extractLsb' 20 3,
    deq := w.extractLsb' 16 4, operand := w.extractLsb' 0 16 }

/-- A valid trigger instruction from its op and fields (R132). -/
def packTr (op : BitVec 7) (t : TrWord) : Word :=
  1#1 ++ t.mask ++ t.value ++ t.head ++ t.tag ++ t.tagQ ++ BitVec.ofBool t.tagEn ++ op ++
    BitVec.ofBool t.setEn ++ t.setIx ++ BitVec.ofBool t.clrEn ++ t.clrIx ++ t.deq ++ t.operand

/-- The trigger op of a valid trigger instruction; none for an invalid one or a reserved op (R132). -/
def decodeTrig (w : Word) : Option Instr :=
  let t := trFields w
  if w.getLsbD 63 then
    match (w.extractLsb' 28 7).toNat with
    | 0x01 => some (.tMma t)
    | 0x02 => some (.tMclr t)
    | 0x03 => some (.tMdrain t)
    | 0x04 => some (.tMscale t)
    | 0x05 => some (.tAccrd t)
    | 0x06 => some (.tDeq t)
    | 0x07 => some (.tEnq t)
    | 0x08 => some (.tPset t)
    | 0x09 => some (.tPclr t)
    | 0x0A => some (.tSig t)
    | 0x0B => some (.tSeed t)
    | 0x0C => some (.tTagset t)
    | 0x0D => some (.tCnt t)
    | 0x0E => some (.tMov t)
    | 0x0F => some (.tCmp t)
    | 0x10 => some (.tHalt t)
    | _ => none
  else none

/-- The trigger instruction of a trigger op (R132). -/
def encodeTrig (i : Instr) : Option Word :=
  match i with
  | .tMma t => some (packTr 0x01 t)
  | .tMclr t => some (packTr 0x02 t)
  | .tMdrain t => some (packTr 0x03 t)
  | .tMscale t => some (packTr 0x04 t)
  | .tAccrd t => some (packTr 0x05 t)
  | .tDeq t => some (packTr 0x06 t)
  | .tEnq t => some (packTr 0x07 t)
  | .tPset t => some (packTr 0x08 t)
  | .tPclr t => some (packTr 0x09 t)
  | .tSig t => some (packTr 0x0A t)
  | .tSeed t => some (packTr 0x0B t)
  | .tTagset t => some (packTr 0x0C t)
  | .tCnt t => some (packTr 0x0D t)
  | .tMov t => some (packTr 0x0E t)
  | .tCmp t => some (packTr 0x0F t)
  | .tHalt t => some (packTr 0x10 t)
  | _ => none

end Sys2Proof
end

