-- ==== Sys2Proof/Machine/Sha.lean ====
section
/-! DEFINITION. SHA-256 over bytes: the signature of a configuration image (R125, R131). -/

namespace Sys2Proof.Machine

/-- The round constants. -/
def shaK : List W32 :=
  [0x428A2F98, 0x71374491, 0xB5C0FBCF, 0xE9B5DBA5, 0x3956C25B, 0x59F111F1, 0x923F82A4, 0xAB1C5ED5] ++
  [0xD807AA98, 0x12835B01, 0x243185BE, 0x550C7DC3, 0x72BE5D74, 0x80DEB1FE, 0x9BDC06A7, 0xC19BF174] ++
  [0xE49B69C1, 0xEFBE4786, 0x0FC19DC6, 0x240CA1CC, 0x2DE92C6F, 0x4A7484AA, 0x5CB0A9DC, 0x76F988DA] ++
  [0x983E5152, 0xA831C66D, 0xB00327C8, 0xBF597FC7, 0xC6E00BF3, 0xD5A79147, 0x06CA6351, 0x14292967] ++
  [0x27B70A85, 0x2E1B2138, 0x4D2C6DFC, 0x53380D13, 0x650A7354, 0x766A0ABB, 0x81C2C92E, 0x92722C85] ++
  [0xA2BFE8A1, 0xA81A664B, 0xC24B8B70, 0xC76C51A3, 0xD192E819, 0xD6990624, 0xF40E3585, 0x106AA070] ++
  [0x19A4C116, 0x1E376C08, 0x2748774C, 0x34B0BCB5, 0x391C0CB3, 0x4ED8AA4A, 0x5B9CCA4F, 0x682E6FF3] ++
  [0x748F82EE, 0x78A5636F, 0x84C87814, 0x8CC70208, 0x90BEFFFA, 0xA4506CEB, 0xBEF9A3F7, 0xC67178F2]

/-- The working state of eight words. -/
structure ShaSt where
  a : W32
  b : W32
  c : W32
  d : W32
  e : W32
  f : W32
  g : W32
  h : W32
  deriving DecidableEq, Repr

/-- The initial state. -/
def shaInit : ShaSt :=
  ⟨0x6A09E667, 0xBB67AE85, 0x3C6EF372, 0xA54FF53A,
   0x510E527F, 0x9B05688C, 0x1F83D9AB, 0x5BE0CD19⟩

/-- One round with a round constant and a schedule word. -/
def ShaSt.round (s : ShaSt) (k w : W32) : ShaSt :=
  let t1 := s.h + (s.e.rotateRight 6 ^^^ s.e.rotateRight 11 ^^^ s.e.rotateRight 25) + ((s.e &&& s.f) ^^^ (~~~s.e &&& s.g)) + k + w
  let t2 := (s.a.rotateRight 2 ^^^ s.a.rotateRight 13 ^^^ s.a.rotateRight 22) + ((s.a &&& s.b) ^^^ (s.a &&& s.c) ^^^ (s.b &&& s.c))
  ⟨t1 + t2, s.a, s.b, s.c, s.d + t1, s.e, s.f, s.g⟩

/-- The schedule word that follows the last 16, given newest first. -/
def shaNext (l : List W32) : W32 :=
  let x := l.getD 14 0
  let y := l.getD 1 0
  (y.rotateRight 17 ^^^ y.rotateRight 19 ^^^ (y >>> 10)) + l.getD 6 0
    + (x.rotateRight 7 ^^^ x.rotateRight 18 ^^^ (x >>> 3)) + l.getD 15 0

/-- The rounds left of a block: the schedule so far, newest first, and the words of the block not yet used. -/
def shaRounds (s : ShaSt) (l block ks : List W32) : ShaSt :=
  match ks with
  | [] => s
  | k :: kr =>
    match block with
    | w :: br => shaRounds (s.round k w) (w :: l) br kr
    | [] => let w := shaNext l; shaRounds (s.round k w) (w :: l.take 15) [] kr

/-- One block of 16 words. -/
def ShaSt.block (s : ShaSt) (ws : List W32) : ShaSt :=
  let r := shaRounds s [] ws shaK
  ⟨s.a + r.a, s.b + r.b, s.c + r.c, s.d + r.d, s.e + r.e, s.f + r.f, s.g + r.g, s.h + r.h⟩

/-- Big-endian words of a byte list. -/
def beWords (l : List Byte) : List W32 :=
  match l with
  | a :: b :: c :: d :: r => (a ++ b ++ c ++ d) :: beWords r
  | _ => []

/-- A message padded to whole blocks. -/
def shaPad (m : List Byte) : List Byte :=
  let n := m.length
  m ++ 0x80 :: List.replicate ((119 - n % 64) % 64) 0
    ++ (List.range 8).map fun i => BitVec.ofNat 8 (n * 8 / 256 ^ (7 - i))

/-- The blocks of a padded message. -/
def shaBlocks (s : ShaSt) (ws : List W32) : Nat → ShaSt
  | 0 => s
  | n + 1 => shaBlocks (s.block (ws.take 16)) (ws.drop 16) n

/-- The bytes of a word, most significant first. -/
def beBytes (w : W32) : List Byte := (List.range 4).map fun i => w.extractLsb' (24 - 8 * i) 8

/-- SHA-256. -/
def sha256 (m : List Byte) : List Byte :=
  let ws := beWords (shaPad m)
  let s := shaBlocks shaInit ws (ws.length / 16)
  [s.a, s.b, s.c, s.d, s.e, s.f, s.g, s.h].flatMap beBytes

end Sys2Proof.Machine
end

