-- ==== Sys2Proof/Machine/FabricImage.lean ====
section
/-! DEFINITION. Configuration images: how the doublewords of an image are read (R125 to R130), its signature (R131),
and what the loader rejects (R134 to R138, R266 to R269, R285). A rejected image answers a kind and trap.addr. -/

namespace Sys2Proof.Machine
open Sys2Proof

/-! ### Offenders (R134) -/

/-- trap.addr of a failed check: the first offending element, or bit 63 when no element is at fault. An offender is
an element's row·64 + column, or none for the image as a whole. -/
def offAddr (offs : List (Option Nat)) : Word :=
  match offs.filterMap id with
  | [] => 0x8000000000000000
  | p :: r => let m := r.foldl Nat.min p; BitVec.ofNat 64 (m / 64 % 64 * 256 + m % 64)

/-- A check of a kind over its offenders. -/
def imgCheck (kind : Nat) (offs : List (Option Nat)) : Except (Nat × Word) Unit :=
  if offs.isEmpty then .ok () else .error (kind, offAddr offs)

/-! ### Reading an image (R125 to R130) -/

/-- The elements of a rectangle. -/
def Rect.cells (r : Rect) : List Nat :=
  (List.range r.rows).flatMap fun i => (List.range r.cols).map fun j => (r.row0 + i) * 64 + (r.col0 + j)

/-- The elements that a record names. -/
def PatRec.cells (r : PatRec) : List Nat := r.rects.flatMap Rect.cells

/-- A rectangle's doubleword (R130). -/
def rectOf (w : Word) : Rect :=
  ⟨(w.extractLsb' 58 6).toNat, (w.extractLsb' 52 6).toNat, (w.extractLsb' 46 6).toNat + 1, (w.extractLsb' 40 6).toNat + 1⟩

/-- Split the pattern records off a list of doublewords, with the offenders of their zero fields (R130); none when
the list is too short. -/
def parseRecs (l : List Word) (c : Nat) : Nat → Option (List PatRec × List (Option Nat) × List Word)
  | 0 => some ([], [], l)
  | n + 1 =>
    match l with
    | [] => none
    | h :: r =>
      let k := (h.extractLsb' 48 8).toNat
      let m := if h.getLsbD 63 then 8 else c
      if r.length < k + m then none
      else
        let rec_ : PatRec := ⟨h.getLsbD 63, (r.take k).map rectOf, (r.drop k).take m⟩
        let bad := h.extractLsb' 56 7 != 0 || h.extractLsb' 0 48 != 0 || k == 0
          || (r.take k).any fun w => w.extractLsb' 0 40 != 0
        match parseRecs (r.drop (k + m)) c n with
        | none => none
        | some (rs, offs, rest) => some (rec_ :: rs, (if bad then none :: offs else offs), rest)

/-- Duplicates of a list of elements: those named twice (R130). -/
def dups (l : List Nat) : List Nat :=
  match l with
  | [] => []
  | x :: r => if r.contains x then x :: dups r else dups r

/-- The number of quadrants that an image covers. -/
def ImgData.quadrants (d : ImgData) : Nat := d.rows / 32 * (d.cols / 32)

/-- The elements of a rectangle that lie outside the region. trap.addr has six bits for each coordinate: 64 wraps (DESIGN
CHOICE, log 63). -/
def ImgData.outside (d : ImgData) (r : Rect) : List (Nat × Nat) :=
  ((List.range r.rows).flatMap fun i => (List.range r.cols).map fun j => (r.row0 + i, r.col0 + j)).filter fun p =>
    decide (d.rows ≤ p.1) || decide (d.cols ≤ p.2)

/-- The first of some elements in ascending (row, column) order. -/
def firstOf (l : List (Nat × Nat)) : Option (Nat × Nat) :=
  l.foldl (fun m p => match m with
    | none => some p
    | some q => if p.1 < q.1 ∨ (p.1 = q.1 ∧ p.2 < q.2) then some p else m) none

/-- The offenders of kind 1 among records: rectangles outside the region, elements named twice, records of more or
fewer words than C, more words than 128 KiB a quadrant (R134). -/
def recOffs (d : ImgData) : List (Option Nat) :=
  let rects := d.recs.flatMap (·.rects)
  let cells := rects.flatMap fun r =>
    if d.rows < r.row0 + r.rows ∨ d.cols < r.col0 + r.cols then
      ((List.range r.rows).flatMap fun i => (List.range r.cols).map fun j => (r.row0 + i, r.col0 + j))
    else r.cells.map fun p => (p / 64, p % 64)
  let first := firstOf (rects.flatMap d.outside ++ (dups (cells.map fun p => p.1 * 128 + p.2)).map fun p => (p / 128, p % 128))
  let wrong := d.recs.filter fun r => r.words.length != (if r.trig then 8 else d.c)
  let big := 131072 * d.quadrants < 8 * (d.recs.foldl (fun n r => n + r.words.length) 0)
  (match first with | some p => [some (p.1 % 64 * 64 + p.2 % 64)] | none => [])
    ++ (wrong.flatMap PatRec.cells).map some ++ (if big then [none] else [])

/-- The halfwords of the channel table (R127). -/
def chanOf (ws : List Word) : List (BitVec 16) :=
  ws.flatMap fun w => (List.range 4).map fun j => w.extractLsb' (16 * j) 16

/-- The window table as pairs of doublewords (R128). -/
def winsOf (l : List Word) : List (Word × Word) :=
  match l with
  | a :: b :: r => (a, b) :: winsOf r
  | _ => []

/-- Zero fields of a window entry (R128). -/
def winZeros (w : Word × Word) : Bool :=
  w.1.extractLsb' 48 9 == 0 && w.2.extractLsb' 48 16 == 0 && (w.1.getLsbD 62 || !w.1.getLsbD 61)

/-- Zero fields and place of a cycle-table entry (R129): one whose gate lies outside the region is malformed, kind 1 (DESIGN
CHOICE, log 36). -/
def gateZeros (d : ImgData) (w : Word) : Bool :=
  w.extractLsb' 48 3 == 0 && w.extractLsb' 0 40 == 0
    && (!w.getLsbD 63 || (decide ((w.extractLsb' 57 6).toNat < d.rows) && decide ((w.extractLsb' 51 6).toNat < d.cols)))

/-- Whether the header shape, the counts and the zero fields of the tables of an image are as R126 to R130 say. -/
def ImgData.formOk (d : ImgData) : Bool :=
  (d.rows == 32 || d.rows == 64) && (d.cols == 32 || d.cols == 64) && decide (d.ii ≤ d.c) && decide (d.c ≤ 16)
    && decide (1 ≤ d.recs.length) && decide (d.recs.length ≤ 4096) && d.chan.length == 32 && d.wins.length == 8
    && decide (d.gates.length ≤ 16) && d.chan.all (fun e => e.extractLsb' 9 6 == 0) && d.wins.all winZeros
    && d.gates.all (gateZeros d)

/-- The offenders of kind 1 in an image that has been read or derived (R134). -/
def kind1 (d : ImgData) : List (Option Nat) := (if d.formOk then [] else [none]) ++ recOffs d

/-- Read an image without its signature; kind 1 of R134 when it is malformed. -/
def parseImage (ws : List Word) : Except (Nat × Word) ImgData :=
  let h := ws.getD 0 0
  let dsc := ws.getD 1 0
  let nrec := (dsc.extractLsb' 48 16).toNat
  let ncyc := (dsc.extractLsb' 40 8).toNat
  let d0 : ImgData :=
    { row0 := (h.extractLsb' 58 6).toNat, col0 := (h.extractLsb' 52 6).toNat
      rows := (h.extractLsb' 46 6).toNat + 1, cols := (h.extractLsb' 40 6).toNat + 1
      ii := (h.extractLsb' 36 4).toNat + 1, c := (h.extractLsb' 32 4).toNat + 1
      ccid := (h.extractLsb' 16 16).toNat
      chan := chanOf ((ws.drop 2).take 8), wins := winsOf ((ws.drop 10).take 16), gates := (ws.drop 26).take ncyc }
  if h.extractLsb' 0 16 != 0 || dsc.extractLsb' 0 40 != 0 || decide (ws.length < 26 + ncyc) then .error (1, offAddr [])
  else
    match parseRecs (ws.drop (26 + ncyc)) d0.c nrec with
    | none => .error (1, offAddr [])
    | some (rs, offs, rest) =>
      let d := { d0 with recs := rs }
      match imgCheck 1 ((if rest.isEmpty then [] else [none]) ++ offs ++ kind1 d) with
      | .error e => .error e
      | .ok () => .ok d

/-- Doublewords as bytes, little-endian. -/
def wordsBytes (ws : List Word) : List Byte := ws.flatMap fun w => toBytes w.toNat 8

/-- Whether the last 32 bytes are the SHA-256 of every preceding byte (R125, R131). -/
def imageSigned (ws : List Word) : Bool :=
  decide (30 ≤ ws.length) && sha256 (wordsBytes (ws.take (ws.length - 4))) == wordsBytes (ws.drop (ws.length - 4))

/-! ### Elements and their words -/

/-- What an element of an image holds. -/
structure ElCfg where
  trig : Bool
  words : List Word
  deriving DecidableEq, Repr

/-- The elements that an image names, by row·64 + column, in ascending order. -/
def ImgData.elems (d : ImgData) : Tab ElCfg :=
  d.recs.foldl (fun t r => r.cells.foldl (fun t p => tset t p ⟨r.trig, r.words⟩) t) []

/-- A word as the token graph sees it: the queues it names, the sides it drives with their
codes, its latency (R135, R136). -/
structure GWord where
  trig : Bool
  code : Nat
  el : ElWord
  tr : TrWord
  names : List Nat
  drv : List (Nat × Nat)
  lat : Nat
  deriving DecidableEq, Repr

/-- The latency of an element op (R284). -/
def elLat (code : Nat) : Nat :=
  match code with
  | 0x03 | 0x04 => 3
  | 0x1B => 2
  | 0x13 | 0x14 | 0x15 | 0x16 | 0x17 | 0x18 | 0x19 | 0x1A => 4
  | 0x1C | 0x1D | 0x1E | 0x1F => 8
  | 0x20 | 0x21 | 0x22 => 8
  | 0x28 => 0
  | _ => 1

/-- The latency of a trigger op that sends a token (R284). -/
def trLat (code : Nat) : Nat := match code with | 0x05 => 4 | 0x07 | 0x0B | 0x0C | 0x0E => 1 | _ => 0

/-- The source fields of a word that name queues. -/
def elSrcQueues (e : ElWord) : List Nat := ([e.a, e.b, e.p].map (·.toNat)).filter (· < 4)

/-- The queues that a context word names: its sources and its pass drives (R116). -/
def elQueues (e : ElWord) : List Nat :=
  (elSrcQueues e ++ ((drivesOf e).filter isPass).map fun (d : BitVec 3) => d.toNat - 2).eraseDups

/-- The sides that a context word drives, with their codes. -/
def elDrives (e : ElWord) : List (Nat × Nat) :=
  ((List.range 4).zip ((drivesOf e).map (·.toNat))).filter fun x => x.2 != 0

/-- The queues of a mask, N, E, S, W. -/
def maskQueues (m : BitVec 4) : List Nat := (List.range 4).filter fun q => maskHas m q

/-- Whether a trigger instruction sends a token, and to which side (R285 to R287). -/
def trSide (op : Nat) (t : TrWord) : Option Nat :=
  match op with
  | 0x05 | 0x07 | 0x0B | 0x0C => some (t.operand.toNat % 4)
  | 0x0E => if t.operand.getLsbD 2 then none else some (t.operand.toNat % 4)
  | _ => none

/-- The words of an element in the token graph: every word it holds, also one at or above II, which is never selected
(R115, R130, R135). -/
def ElCfg.gwords (x : ElCfg) : List GWord :=
  if x.trig then
    (x.words.filter fun w => w.getLsbD 63).map fun w =>
      let t := trFields w
      let op := (w.extractLsb' 28 7).toNat
      ⟨true, op, elFields 0, t, maskQueues t.head, (match trSide op t with | some d => [(d, 1)] | none => []), trLat op⟩
  else
    (x.words.filter fun w => w.extractLsb' 57 7 != 0).map fun w =>
      let e := elFields w
      let op := (w.extractLsb' 57 7).toNat
      ⟨false, op, e, trFields 0, elQueues e, elDrives e, elLat op⟩

/-- The token graph of an image: its shape and the words of each element. -/
structure Graph where
  rows : Nat
  cols : Nat
  ii : Nat
  chan : List (BitVec 16)
  words : Tab (List GWord)
  deriving DecidableEq, Repr

def ImgData.graph (d : ImgData) : Graph := ⟨d.rows, d.cols, d.ii, d.chan, d.elems.map fun e => (e.1, e.2.gwords)⟩

/-- The words of an element in the graph. -/
def Graph.at_ (g : Graph) (p : Nat) : List GWord := tgetD g.words p []

/-- The neighbour on a side within the region. -/
def nbOf (rows cols p side : Nat) : Option Nat :=
  let r := p / 64
  let c := p % 64
  match side with
  | 0 => if 0 < r then some (p - 64) else none
  | 1 => if c + 1 < cols then some (p + 1) else none
  | 2 => if r + 1 < rows then some (p + 64) else none
  | _ => if 0 < c then some (p - 1) else none

/-- The opposite side's number. -/
def oppN (side : Nat) : Nat := (side + 2) % 4

/-- The element that an arc on a side leads to (R135). -/
def Graph.arc (g : Graph) (p side : Nat) : Option Nat :=
  match nbOf g.rows g.cols p side with
  | none => none
  | some m => if (g.at_ m).any fun w => w.names.contains (oppN side) then some m else none

/-! ### Formats and tags on arcs (R137, R269) -/

/-- The mark of a format set that the spec gives no format for: it is not checked (log 31). -/
def anyFmt : Nat := 2 ^ 40

/-- The formats, and the tags, of the valid channel-table entries. -/
def chanFmts (chan : List (BitVec 16)) : Nat :=
  chan.foldl (fun m e => if e.getLsbD 15 then m ||| 2 ^ (e.extractLsb' 4 5).toNat else m) 0
def chanTags (chan : List (BitVec 16)) : Nat :=
  (List.range 32).foldl (fun m t => if (chan.getD t 0).getLsbD 15 then m ||| 2 ^ t else m) 0

/-- The sets of every queue, by element·4 + side: formats and tags as masks. -/
abbrev Arcs := Tab (Nat × Nat)

/-- The sets of a queue. -/
def arcGet (a : Arcs) (p q : Nat) : Nat × Nat := tgetD a (p * 4 + q) (0, 0)

/-- Add to the sets of a queue. -/
def arcAdd (a : Arcs) (p q : Nat) (x : Nat × Nat) : Arcs :=
  tupd a (p * 4 + q) (0, 0) fun y => (y.1 ||| x.1, y.2 ||| x.2)

/-- Tags increased by one modulo 31 (R121). -/
def nextTags (m : Nat) : Nat :=
  (List.range 32).foldl (fun r t => if m.testBit t then r ||| 2 ^ ((t + 1) % 31) else r) 0

/-- Format-neutral ops (R137). -/
def neutral (code : Nat) : Bool :=
  [0x0F, 0x05, 0x06, 0x07, 0x0E, 0x25, 0x26, 0x28, 0x27, 0x23, 0x24].contains code

/-- The sets of a source: of its queue, or tag 0 and no format of its own. -/
def srcSets (a : Arcs) (p : Nat) (s : BitVec 3) : Nat × Nat := if s.toNat < 4 then arcGet a p s.toNat else (anyFmt, 1)

/-- The sets of the result of a context word (R137, R269). After an e.tagchk of a tag without a valid channel-table entry the arc's
format is not known, and nothing is checked of it (DESIGN CHOICE, log 31). -/
def elResultSets (a : Arcs) (chan : List (BitVec 16)) (p : Nat) (w : GWord) : Nat × Nat :=
  let e := w.el
  let sa := srcSets a p e.a
  let sb := srcSets a p e.b
  let ta := if w.code = 0x27 then 2 ^ (e.imm.toNat % 32) else sa.2
  let tags := match e.tagMode.toNat with | 0 => ta | 1 => sb.2 | 2 => 2 ^ e.tag.toNat | _ => nextTags ta
  let fmts :=
    if w.code = 0x27 then
      let c := chan.getD (e.imm.toNat % 32) 0
      if c.getLsbD 15 then 2 ^ (c.extractLsb' 4 5).toNat else anyFmt
    else if w.code = 0x21 then (if e.b.toNat < 4 then sb.1 else anyFmt)
    else if neutral w.code then
      let qs := [e.a, e.b].filter fun s => decide (s.toNat < 4)
      if qs.isEmpty then anyFmt else qs.foldl (fun m s => m ||| (srcSets a p s).1) 0
    else if w.code = 0x1B then 2 ^ (e.aux.toNat % 32)
    else if w.code = 0x20 then (if e.aux.toNat / 8 < 5 then 2 ^ 2 else 2 ^ (e.aux.toNat / 8))
    else if (decide (0x13 ≤ w.code) && decide (w.code ≤ 0x1F)) && w.code != 0x19 then 2 ^ 9
    else 2 ^ 2
  (fmts, tags)

/-- The sets of what a trigger instruction sends (R269, R287). -/
def trResultSets (a : Arcs) (p : Nat) (w : GWord) : Nat × Nat :=
  let h := match w.names with | q :: _ => arcGet a p q | [] => (anyFmt, 0)
  let tag := 2 ^ (w.tr.operand.toNat / 8 % 32)
  match w.code with
  | 0x0E => h
  | 0x0C => (h.1, tag)
  | _ => (anyFmt, tag)

/-- One round of the arcs' sets: what each word sends is added where an arc leads. -/
def Graph.flow (g : Graph) (a : Arcs) : Arcs :=
  g.words.foldl (fun a e => e.2.foldl (fun a w =>
    let res := if w.trig then trResultSets a e.1 w else elResultSets a g.chan e.1 w
    w.drv.foldl (fun a d =>
      match g.arc e.1 d.1 with
      | some m => arcAdd a m (oppN d.1) (if 2 ≤ d.2 ∧ d.2 ≤ 5 then arcGet a e.1 (d.2 - 2) else res)
      | none => a) a) a) a

/-- Repeat a round until nothing changes, at most `fuel` times. -/
def settleArcs (g : Graph) (a : Arcs) : Nat → Arcs
  | 0 => a
  | n + 1 => let b := g.flow a; if b = a then a else settleArcs g b n

/-- The sets of every queue that a word names, with those that an entry port carries. -/
def Graph.arcsFrom (g : Graph) (port : Nat × Nat) : Arcs :=
  let ports := g.words.foldl (fun a e => (List.range 4).foldl (fun a q =>
    if (nbOf g.rows g.cols e.1 q).isNone && e.2.any (·.names.contains q) then arcAdd a e.1 q port else a) a) []
  settleArcs g ports (g.words.length * 4 * 73 + 1)

/-- The sets of every queue that a word names (R137, R269): an entry port carries those of the valid entries. -/
def Graph.arcs (g : Graph) : Arcs := g.arcsFrom (chanFmts g.chan, chanTags g.chan)

/-- The tags bound to a valid NQ4 entry. -/
def nq4Tags (chan : List (BitVec 16)) : Nat :=
  (List.range 32).foldl (fun m t =>
    let c := chan.getD t 0
    if c.getLsbD 15 && c.extractLsb' 4 5 == 10 then m ||| 2 ^ t else m) 0

/-- Whether a word breaks R165 as kind 2: an e.cvt that a tag bound to NQ4 can reach. -/
def cvtNq4 (a : Arcs) (chan : List (BitVec 16)) (p : Nat) (w : GWord) : Bool :=
  !w.trig && w.code == 0x1B && (srcSets a p w.el.a).2 &&& nq4Tags chan != 0

/-- The sets of every queue when an NQ4 entry counts at no entry port: it is valid only for a tag that reaches an island
B port (R165). DEDUCED, log 31: counted at every port, an image with such an entry could use no port at all. -/
def Graph.arcsNoNq4 (g : Graph) : Arcs := g.arcsFrom (0, chanTags g.chan &&& ((2 ^ 32 - 1) ^^^ nq4Tags g.chan))

/-- Whether a tag bound to NQ4 reaches a word, of any op (R165: it fails R137). -/
def reachedByNq4 (b : Arcs) (chan : List (BitVec 16)) (p : Nat) (w : GWord) : Bool :=
  w.names.any fun q => (arcGet b p q).2 &&& nq4Tags chan != 0

/-- The formats that an op admits on a queue named by A, B or P; none where it is not checked (R137, R269). -/
def operandFmts (w : GWord) : List (BitVec 3 × Nat) :=
  let int := 2 ^ 2 + 2 ^ 3 + 2 ^ 4
  let fp := 2 ^ 9
  let e := w.el
  if w.trig || neutral w.code then []
  else if w.code = 0x12 then [(e.a, int), (e.p, int)]
  else if w.code ≤ 0x12 then [(e.a, int), (e.b, int)]
  else if w.code = 0x16 then [(e.a, fp), (e.b, fp), (e.p, fp)]
  else if w.code = 0x1A then [(e.a, fp), (e.p, int)]
  else if w.code = 0x1B then [(e.a, 2 ^ 10 - 1)]
  else if w.code ≤ 0x1F then [(e.a, fp), (e.b, fp)]
  else if w.code = 0x21 then [(e.a, int), (e.b, if e.aux.toNat / 8 < 5 then int else 2 ^ (e.aux.toNat / 8))]
  else [(e.a, int)]

/-- Whether a set of formats lies within another; the unchecked mark is no format. -/
def fmtsWithin (have_ allowed : Nat) : Bool := (List.range 32).all fun f => !have_.testBit f || allowed.testBit f

/-- Whether a word receives only its operand formats (R137, R269). -/
def wordFmtsOk (a : Arcs) (p : Nat) (w : GWord) : Bool :=
  (operandFmts w).all fun x => !decide (x.1.toNat < 4) || fmtsWithin (arcGet a p x.1.toNat).1 x.2

/-- Whether every tag that can reach a converter or function element has a valid entry of a format of the arc, fp32
for a function element (R269). -/
def wordTagsOk (a : Arcs) (chan : List (BitVec 16)) (p : Nat) (w : GWord) : Bool :=
  if w.trig || decide (w.code < 0x1B) || decide (0x1F < w.code) then true
  else
    let s := srcSets a p w.el.a
    (List.range 32).all fun t =>
      let c := chan.getD t 0
      let f := (c.extractLsb' 4 5).toNat
      !s.2.testBit t || (c.getLsbD 15 && (s.1.testBit f || s.1.testBit 40) && (w.code == 0x1B || f == 9))

/-- Whether an e.cvt keeps R274 on saturation: none from a float source to an integer destination. -/
def cvtSatOk (a : Arcs) (chan : List (BitVec 16)) (p : Nat) (w : GWord) : Bool :=
  if w.trig || w.code != 0x1B || !w.el.cond.getLsbD 2 || decide (5 ≤ w.el.aux.toNat % 32) then true
  else
    let s := srcSets a p w.el.a
    (List.range 32).all fun t =>
      let c := chan.getD t 0
      !s.2.testBit t || !c.getLsbD 15 || decide ((c.extractLsb' 4 5).toNat < 5)

/-- Whether a word names queues that can hold an ordering token only as R268 allows. -/
def orderingOk (a : Arcs) (p : Nat) (w : GWord) : Bool :=
  let ord := fun (s : BitVec 3) => decide (s.toNat < 4) && (arcGet a p s.toNat).2.testBit 31
  w.trig || ((!(ord w.el.a || ord w.el.b) || w.code == 0x23 || w.code == 0x24)
    && (!ord w.el.p || w.code == 0x20 || w.code == 0x21 || w.code == 0x22 || w.code == 0x24))

/-! ### Word and place checks (R123, R134 kinds 2 and 3) -/

/-- Whether a context word passes the checks of kind 2 that depend on it and the window table. -/
def ctxWordOk (wins : List (Word × Word)) (w : Word) : Bool :=
  let code := (w.extractLsb' 57 7).toNat
  if code = 0 then w == 0
  else
    match elRow code with
    | none => false
    | some r =>
      let e := elFields w
      elWordOk r e && (decide (code < 0x20) || decide (0x22 < code) || ((wins.getD (e.aux.toNat % 8) (0, 0)).1.getLsbD 63))

/-- Whether a trigger instruction passes the checks of R132 and R285. -/
def trigWordOk (w : Word) : Bool := !w.getLsbD 63 || trWordOk (w.extractLsb' 28 7).toNat (trFields w)

/-- Whether an element at grid coordinates can run an op code (R123). -/
def placeOk (row col code : Nat) : Bool :=
  if code = 0x1B then row % 16 == 7 && col % 16 == 7
  else if 0x1C ≤ code ∧ code ≤ 0x1F then row % 16 == 12 && col % 16 == 12
  else if 0x20 ≤ code ∧ code ≤ 0x22 then col % 16 == 10
  else true

/-- The offenders of kind 2. -/
def kind2 (d : ImgData) (g : Graph) (a : Arcs) : List (Option Nat) :=
  (if d.chan.any fun e => e.getLsbD 15 && decide (10 < (e.extractLsb' 4 5).toNat) then [none] else [])
    ++ (if d.wins.any fun w => w.1.getLsbD 63 && w.2.extractLsb' 0 48 == 0 then [none] else [])
    ++ ((d.gates.filter fun w => w.getLsbD 63 && w.extractLsb' 40 8 == 0).map fun w =>
      some ((w.extractLsb' 57 6).toNat * 64 + (w.extractLsb' 51 6).toNat))
    ++ ((d.elems.filter fun e => !e.2.words.all fun w => if e.2.trig then trigWordOk w else ctxWordOk d.wins w).map fun e => some e.1)
    ++ ((g.words.filter fun e => !e.2.all fun w => orderingOk a e.1 w && cvtSatOk a d.chan e.1 w && !cvtNq4 a d.chan e.1 w).map fun e => some e.1)

/-- Whether an element in a row of the grid is a trigger element (R123). -/
def trigRow (row : Nat) : Bool := row == 0 || row == 63

/-- The offenders of kind 3; r0, c0 is the region's origin in the grid. -/
def kind3 (d : ImgData) (r0 c0 : Nat) : List (Option Nat) :=
  (d.elems.filter fun e =>
    let row := r0 + e.1 / 64
    let col := c0 + e.1 % 64
    if e.2.trig then !trigRow row
    else !e.2.words.all fun w => placeOk row col (w.extractLsb' 57 7).toNat).map fun e => some e.1

/-! ### Cycles (R135) -/

/-- The sides on which an element has arcs, with where they lead. -/
def Graph.succs (g : Graph) (p : Nat) : List (Nat × Nat) :=
  (List.range 4).filterMap fun d =>
    if (g.at_ p).any (fun w => w.drv.any (·.1 == d)) then (g.arc p d).map fun m => (d, m) else none

/-- The simple cycles through a start, each as (element, outgoing side) in order; the start is their lowest element.
The path so far is given newest first. -/
def Graph.cyclesFrom (g : Graph) (start p : Nat) (path : List (Nat × Nat)) : Nat → List (List (Nat × Nat))
  | 0 => []
  | n + 1 =>
    (g.succs p).flatMap fun x =>
      let path' := (p, x.1) :: path
      if x.2 = start then [path'.reverse]
      else if x.2 < start ∨ (path'.any fun y => y.1 == x.2) then []
      else g.cyclesFrom start x.2 path' n

/-- Every directed cycle of the token graph. -/
def Graph.cycles (g : Graph) : List (List (Nat × Nat)) :=
  g.words.flatMap fun e => g.cyclesFrom e.1 e.1 [] (g.words.length + 1)

/-- The side on which a cycle comes in at its i-th element. -/
def cycIn (c : List (Nat × Nat)) (i : Nat) : Nat :=
  oppN ((c.getD ((i + c.length - 1) % (if c.length = 0 then 1 else c.length)) (0, 0)).2)

/-- Whether an element other than the gate meets the third and fourth conditions of R135. -/
def Graph.onCycle (g : Graph) (c : List (Nat × Nat)) (i : Nat) : Bool :=
  let e := c.getD i (0, 0)
  (g.at_ e.1).all fun w =>
    let dc := (w.drv.find? fun d => d.1 == e.2).map (·.2)
    let driven := dc.isSome
    let plain := match dc with | some k => decide (1 ≤ k) && decide (k ≤ 5) | none => false
    (!w.names.contains (cycIn c i) || plain) && (!driven || w.names.contains (cycIn c i))

/-- The gates of the cycle table: element and bound, in table order (R129). -/
def ImgData.gateTab (d : ImgData) : List (Nat × Nat) :=
  (d.gates.filter fun w => w.getLsbD 63).map fun w =>
    ((w.extractLsb' 57 6).toNat * 64 + (w.extractLsb' 51 6).toNat, (w.extractLsb' 40 8).toNat)

/-- The elements at fault when an entry of the cycle table is taken as the gate of a cycle. -/
def Graph.gateFaults (g : Graph) (c : List (Nat × Nat)) (gate : Nat × Nat) : List Nat :=
  (if 4 * c.length - 1 < gate.2 then [gate.1] else [])
    ++ (List.range c.length).filterMap fun i =>
      let e := c.getD i (0, 0)
      if e.1 = gate.1 ∨ g.onCycle c i then none else some e.1

/-- The gate of a cycle: the first in table order that meets all conditions (R135). -/
def Graph.gateOf (g : Graph) (tab : List (Nat × Nat)) (c : List (Nat × Nat)) : Option (Nat × Nat) :=
  tab.find? fun t => c.any (·.1 == t.1) && (g.gateFaults c t).isEmpty

/-- The offender of a cycle that fails R135: its first element when none of its elements is named, else the first at which the
first gate named on it fails (DESIGN CHOICE, log 63). -/
def Graph.cycleBad (g : Graph) (tab : List (Nat × Nat)) (c : List (Nat × Nat)) : Option (Option Nat) :=
  if (g.gateOf tab c).isSome then none
  else
    match tab.find? fun t => c.any (·.1 == t.1) with
    | none => some ((c.map (·.1)).min?)
    | some t => some ((g.gateFaults c t).min?)

/-- The gates that count at run time, one for each gate element and pair of sides (R135). -/
def Graph.gates (g : Graph) (tab : List (Nat × Nat)) : List Gate :=
  (g.cycles.filterMap fun c =>
    match g.gateOf tab c with
    | none => none
    | some t =>
      let i := (c.map (·.1)).idxOf t.1
      some (⟨t.1 / 64, t.1 % 64, if cycIn c i = 0 then .n else if cycIn c i = 1 then .e else if cycIn c i = 2 then .s else .w,
        (match (c.getD i (0, 0)).2 with | 0 => .n | 1 => .e | 2 => .s | _ => .w), t.2, 0⟩ : Gate)).eraseDups

/-! ### Forks and joins (R136) -/

/-- A way from a fork: the element and queue reached, the arcs, the condition class so far, newest first: element,
P source, drive code. -/
structure Way where
  at_ : Nat
  q : Nat
  arcs : Nat
  cls : List (Nat × Nat × Nat)
  deriving DecidableEq, Repr

/-- The class with one more drive. -/
def addCls (cls : List (Nat × Nat × Nat)) (p : Nat) (w : GWord) (code : Nat) : List (Nat × Nat × Nat) :=
  if code = 6 ∨ code = 7 then (p, w.el.p.toNat, code) :: cls else cls

/-- Every way out of a word, along paths through no gate. -/
def Graph.ways (g : Graph) (gates : List Nat) (p : Nat) (w : GWord) (n : Nat) (cls : List (Nat × Nat × Nat)) : Nat → List Way
  | 0 => []
  | fuel + 1 =>
    w.drv.flatMap fun d =>
      match g.arc p d.1 with
      | none => []
      | some m =>
        let y : Way := ⟨m, oppN d.1, n + 1, addCls cls p w d.2⟩
        y :: (if gates.contains m then []
              else ((g.at_ m).filter fun v => v.names.contains y.q).flatMap fun v => g.ways gates m v (n + 1) y.cls fuel)

/-- Whether two ways into different queues of a join are balanced (R136), P's queue of an e.merge among them (log 32). -/
def balanced (j : GWord) (x y : Way) : Bool :=
  let n1 := Nat.min x.arcs y.arcs
  let n2 := Nat.max x.arcs y.arcs
  let merge := !j.trig && j.code == 0x26
  let polar := match x.cls, y.cls with
    | a :: r, b :: r' => r == r' && a.1 == b.1 && a.2.1 == b.2.1 && decide (a.2.1 < 4)
    | _, _ => false
  (x.cls == y.cls || (merge && polar)) && decide (n2 - n1 ≤ 4 * n1)

/-- The joins that break R136 with a common fork: the join is the offender (DESIGN CHOICE, log 63). -/
def Graph.joinsBad (g : Graph) (gates : List Nat) : List (Option Nat) :=
  g.words.flatMap fun e => (e.2.filter fun w => decide (2 ≤ w.drv.length)).flatMap fun f =>
    let ws := g.ways gates e.1 f 0 [] (g.words.length + 1)
    (g.words.filter fun j => j.2.any fun w =>
      decide (2 ≤ w.names.length) && (ws.any fun x => x.at_ == j.1 && w.names.contains x.q
        && ws.any fun y => y.at_ == j.1 && w.names.contains y.q && decide (x.q < y.q) && !balanced w x y)).map fun j => some j.1

/-! ### The drain bound (R138) -/

/-- A gated cycle: its elements, its gate, and II · B · arcs. -/
structure GCycle where
  elems : List Nat
  gate : Nat
  cost : Nat
  deriving DecidableEq, Repr

def Graph.gcycles (g : Graph) (tab : List (Nat × Nat)) : List GCycle :=
  g.cycles.filterMap fun c => (g.gateOf tab c).map fun t => ⟨c.map (·.1), t.1, g.ii * t.2 * c.length⟩

/-- The largest D of the paths on from a word of an element, given the elements visited and the latencies and arcs
so far; a path visits an element once, and one ends at a trigger element in either mode. r0 is the region's first row. -/
def Graph.drainOn (g : Graph) (cy : List GCycle) (r0 p : Nat) (w : GWord) (seen : List Nat) (d : Nat) : Nat → Nat
  | 0 => 0
  | fuel + 1 =>
    let here := d + w.lat
    let met := fun (l : List Nat) => (cy.filter fun c => c.elems.any l.contains).foldl (fun n c => n + c.cost) 0
    let ends := if trigRow (r0 + p / 64) || w.code == 0x28 then here + met (p :: seen) else 0
    w.drv.foldl (fun best x =>
      match nbOf g.rows g.cols p x.1 with
      | none => Nat.max best (here + 5 * g.ii + met (p :: seen))
      | some m =>
        match g.arc p x.1 with
        | none => best
        | some _ =>
          if (p :: seen).contains m then best
          else ((g.at_ m).filter fun v => v.names.contains (oppN x.1)).foldl (fun b v =>
            Nat.max b (g.drainOn cy r0 m v (p :: seen) (here + 5 * g.ii) fuel)) best) ends

/-- The drain bound of an image (R138). -/
def Graph.drain (g : Graph) (tab : List (Nat × Nat)) (r0 : Nat) : Nat :=
  let cy := g.gcycles tab
  let fuel := g.words.length + 1
  let fromPorts := g.words.foldl (fun best e => e.2.foldl (fun b w =>
    if w.names.any fun q => (nbOf g.rows g.cols e.1 q).isNone then Nat.max b (g.drainOn cy r0 e.1 w [] (5 * g.ii) fuel) else b) best) 0
  (cy.map (·.gate)).foldl (fun best p => (g.at_ p).foldl (fun b w => Nat.max b (g.drainOn cy r0 p w [] 0 fuel)) best) fromPorts

/-! ### All checks -/

/-- The checks of R134 on an image that is well-formed, for a region whose origin is r0, c0; the gates that count at
run time. -/
def checkImage (d : ImgData) (r0 c0 : Nat) : Except (Nat × Word) (List Gate) :=
  let g := d.graph
  let a := g.arcs
  let tab := d.gateTab
  let b := g.arcsNoNq4
  let bad6 := (g.words.filter fun e => !e.2.all fun w =>
    wordFmtsOk a e.1 w && wordTagsOk a d.chan e.1 w && !reachedByNq4 b d.chan e.1 w).map fun e => some e.1
  match imgCheck 1 (kind1 d) with
  | .error e => .error e
  | .ok () =>
  match imgCheck 2 (kind2 d g a) with
  | .error e => .error e
  | .ok () =>
  match imgCheck 3 (kind3 d r0 c0) with
  | .error e => .error e
  | .ok () =>
  match imgCheck 4 (g.cycles.filterMap (g.cycleBad tab)) with
  | .error e => .error e
  | .ok () =>
  match imgCheck 5 (g.joinsBad (g.gcycles tab |>.map (·.gate))) with
  | .error e => .error e
  | .ok () =>
  match imgCheck 6 bad6 with
  | .error e => .error e
  | .ok () =>
  match imgCheck 7 (if 4800 < g.drain tab r0 then [none] else []) with
  | .error e => .error e
  | .ok () => .ok (g.gates tab)

/-! ### Patches (R139, R260) -/

/-- A record without the rectangles that a patch names; none where it keeps none. -/
def PatRec.without (r : PatRec) (named : List Rect) : Option PatRec :=
  match r.rects.filter fun x => !named.contains x with
  | [] => none
  | l => some { r with rects := l }

/-- A loaded image with a patch's records in place (R260): the rectangles that the patch names have its words, the others keep
theirs. Kind 1 when the tables differ, kind 0 when a record of the patch has a rectangle that no loaded record has. The cycle table of
the loaded image stays, whatever the patch's: R139 names the records and the header as what GPATCH replaces (DEDUCED, log 36). -/
def ImgData.patched (d p : ImgData) : Except (Nat × Word) ImgData :=
  if p.chan != d.chan || p.wins != d.wins || p.rows != d.rows || p.cols != d.cols then .error (1, offAddr [])
  else
    let named := p.recs.flatMap (·.rects)
    if !named.all (d.recs.flatMap (·.rects)).contains then .error (0, 0)
    else .ok { d with ii := p.ii, c := p.c, recs := d.recs.filterMap (·.without named) ++ p.recs }

end Sys2Proof.Machine
end

