-- ==== Sys2Proof/Machine/Plans.lean ====
section
/-! DEFINITION. Collective plans (R250 to R252) with the staging blocks of R50. -/

namespace Sys2Proof.Machine
open Sys2Proof

/-- The doublewords of a byte list. -/
def dwords (bs : List Byte) : List Word :=
  (List.range (bs.length / 8)).map fun i => BitVec.ofNat 64 (ofBytes ((bs.drop (8 * i)).take 8))

/-- Whether a plan's op and format form a pair of R51; formats int32 2, z16 4, bf16 8, fp32 9. -/
def planPairOk (op fmt : Nat) : Bool :=
  match op with
  | 0 => fmt == 2 || fmt == 8 || fmt == 9
  | 1 => fmt == 2 || fmt == 4 || fmt == 8 || fmt == 9
  | 2 => fmt == 2 || fmt == 4 || fmt == 8 || fmt == 9
  | _ => fmt == 2 && decide (op ≤ 5)

/-- A descriptor as R250 lays it out; none when it breaks R250. `pbr` is this part's own PBR ID. -/
def parsePlan (ws : List Word) (pbr gk launch rank die : Nat) : Option Plan :=
  let w0 := ws.getD 0 0; let w1 := ws.getD 1 0; let w2 := ws.getD 2 0; let w3 := ws.getD 3 0
  let kind := (w0.extractLsb' 60 4).toNat
  let op := (w0.extractLsb' 56 4).toNat
  let fmt := (w0.extractLsb' 52 4).toNat
  let n := (w0.extractLsb' 0 32).toNat
  let count := (w3.extractLsb' 43 5).toNat + 1
  let pos := (w3.extractLsb' 38 5).toNat
  let root := (w3.extractLsb' 33 5).toNat
  let slots := (List.range 32).map fun p => ((ws.getD (4 + p / 4) 0).extractLsb' (16 * (p % 4)) 16).toNat
  let parts := slots.take count
  let bytes := n * fmtSize fmt * (if kind = 2 then count else 1)
  let ok := decide (kind ≤ 2) && (if kind == 0 then planPairOk op fmt else op == 0)
    && (fmt == 2 || fmt == 4 || fmt == 8 || fmt == 9) && w0.extractLsb' 32 20 == 0 && n != 0
    && w1.extractLsb' 48 16 == 0 && w2.extractLsb' 48 16 == 0 && w3.extractLsb' 0 33 == 0
    && decide (pos < count) && decide (root < count) && (kind == 1 || root == 0)
    && parts.all (fun x => decide (x < 4096)) && (slots.drop count).all (· == 0)
    && parts.getD pos 0 == pbr && decide (bytes ≤ 2 ^ 22)
  if ok then
    some { gang := gk, launch := launch, rank := rank, key := (w3.extractLsb' 48 16).toNat, kind := kind, op := op, fmt := fmt, n := n,
           parts := parts, pos := pos, root := root, src := w1, dst := w2, die := die
           blocks := (bytes + 65535) / 65536, joined := count == 1 }
  else none

/-- Staging blocks in use on a die, of 128 (R50). -/
def State.blocksUsed (s : State) (die : Nat) : Nat := s.plans.foldl (fun n e => if e.2.die = die then n + e.2.blocks else n) 0

/-- The die of a gang's leader: 16 cores a die (R38, R251). -/
def Gang.leaderDie (g : Gang) : Nat := coreOf (g.members.getD 0 0) / 16

/-- A plan that the descriptor of a CPLAN asks for, entered by the same CPLAN before (R251). -/
def Plan.awaits (e p : Plan) : Bool :=
  e.gang == p.gang && e.rank == p.rank && e.key == p.key && !e.dropped && e.n == p.n && e.kind == p.kind && e.op == p.op
    && e.fmt == p.fmt && e.parts == p.parts && !e.claimed

/-- A free plan number of a partition: the first from a free value on, else one whose plan has been released (R251; log
12). -/
def State.freePlan (s : State) (part : Nat) : Option Nat :=
  let start := (Config.freeWord s.freeCtr).toNat % 8192
  ((lowestFree s.plans (part * 8192) start (8192 - start)).or (lowestFree s.plans (part * 8192) 0 start)).or
    ((s.plans.find? fun e => e.1 / 8192 == part && e.2.released && e.2.done == e.2.fires).map (·.1 % 8192))

/-- CPLAN (R251): ILLEGAL kind 10 outside `effects` operators, MISALIGN, ILLEGAL kind 11 for a descriptor that
breaks R250 or differs from a listed part's (log 29); waits for staging blocks and for every listed part to join. -/
def execCplan (c : Guard) (d a : BitVec 5) (s : State) : Host.Outcome State Fault Refusal :=
  s.cp c fun k x =>
    let g := s.gang x.gang
    let addr := x.rg a
    if !g.effects then .trap (.illegal 10)
    else if addr.toNat % 128 != 0 then .trap (.misalign addr)
    else
      match s.devReadLong k addr 12 with
      | .error (e, at_) => AccErr.res e at_
      | .ok (s1, bs) =>
        match parsePlan (dwords bs) s.dev.pbr x.gang (g.part * 4 + g.slot) x.rank g.leaderDie with
        | none => .trapIn s1 (.illegal 11)
        | some p =>
          match s.plans.find? fun e => e.2.awaits p with
          | some e => if e.2.joined then
              { s1 with plans := tset s1.plans e.1 { e.2 with claimed := true } }.setsG k d (BitVec.ofNat 64 (e.1 % 8192))
            else if Config.peersDiffer s.clock e.1 then
              .stop ({ s1 with plans := tdel s1.plans e.1 }.takeTrap k (.illegal 11))
            else .wait s1 .other
          | none =>
            if 128 < s.blocksUsed p.die + p.blocks then .wait s1 .other
            else
              match s.freePlan g.part with
              | none => .wait s1 .other
              | some m =>
                let s2 := { s1 with plans := tset s1.plans (g.part * 8192 + m) { p with claimed := p.joined }
                                    freeCtr := s1.freeCtr + 1 }
                if p.joined then s2.setsG k d (BitVec.ofNat 64 m)
                else .wait (s2.send (.plan 0 p.key 0 p.parts)) .other

/-- An instruction on a plan of the gang: ILLEGAL for a number that does not belong to it (R252). A plan that has ended
still does, for the fires to be discarded and the CWAITs for later runs. -/
def State.withPlan (s : State) (x : Ctx) (v : Word) (f : Nat → Plan → Res) : Res :=
  let key := (s.gang x.gang).part * 8192 + v.toNat
  if 8192 ≤ v.toNat then .trap (.illegal)
  else
    match tget? s.plans key with
    | some p => if p.gang = x.gang then f key p else .trap (.illegal)
    | none => .trap (.illegal)

/-- CFIRE: one trigger write to the plan, discarded once it has ended (R252). -/
def execCfire (c : Guard) (a : BitVec 5) (s : State) : Host.Outcome State Fault Refusal :=
  s.cp c fun _ x => s.withPlan x (x.rg a) fun key _ => .done ((s.firePlan (key / 8192) (key % 8192)).getD s)

/-- CWAIT: waits until completed ≥ g[b][31:0]; a poisoned run it covers traps with ECC_FATAL (R252, R317). -/
def execCwait (c : Guard) (d a b : BitVec 5) (s : State) : Host.Outcome State Fault Refusal :=
  s.cp c fun k x => s.withPlan x (x.rg a) fun _ p =>
    let target := (x.rg b).toNat % 2 ^ 32
    if (match p.poisoned with | some r => decide (r ≤ target) | none => false) then .trap .eccFatal
    else if target ≤ p.done then s.setsG k d (BitVec.ofNat 64 p.done)
    else .wait s .other

/-- CDROP: waits until every run fired at this part has completed, then releases the plan with its staging blocks (R50,
R252). A released plan is no plan to drop. -/
def execCdrop (c : Guard) (a : BitVec 5) (s : State) : Host.Outcome State Fault Refusal :=
  s.cp c fun _ x => s.withPlan x (x.rg a) fun key p =>
    if p.released then .trap (.illegal)
    else if p.done < p.fires then .wait s .other
    else
      .done ({ s with plans := tset s.plans key { p with dropped := true, released := true, blocks := 0 } }.tellDrop p)

/-- A peer's CDROP ends a plan at this part: later fires are discarded (R252). Its staging blocks here return at the CDROP of this
part, at the end of its launch or when its gang is abandoned, and not before: DESIGN CHOICE, R50 does not say which CDROP it
means, log 29. -/
def State.peerDrop (s : State) (key : Nat) : State :=
  match tget? s.plans key with
  | some p => { s with plans := tset s.plans key { p with dropped := true } }
  | none => s

/-! ### Runs -/

/-- Read an element at a DVA of a launch for the staging logic; a free value where it cannot be read (log 28). Which TLB and walker
translate the addresses of a plan the spec does not say: the model uses core 0's TLB and its cluster's walker for the plans of every
partition (DESIGN CHOICE, log 28). -/
def State.planRead (s : State) (launch : Nat) (a : Word) (n i : Nat) : Nat :=
  match s.translate 0 launch a false with
  | .ok (_, ⟨_, .mem key, _⟩) => mread s.mem key n
  | _ => (Config.freeWord (s.freeCtr + i)).toNat % 2 ^ (8 * n)

/-- Write an element at a DVA of a launch for the staging logic; nothing where it cannot be written (log 28). -/
def State.planWrite (s : State) (launch : Nat) (a : Word) (n v : Nat) : State :=
  match s.translate 0 launch a true with
  | .ok (s', ⟨_, .mem key, _⟩) => s'.put key (toBytes v n)
  | .ok (s', _) => s'
  | .error _ => s

/-- What the walks of this part's source elements leave: the A bits of their pages (R30). -/
def State.planWalks (s : State) (launch : Nat) (p : Plan) : State :=
  if p.kind = 1 ∧ p.root ≠ p.pos then s
  else
    (List.range p.n).foldl (fun s i =>
      match s.translate 0 launch (p.src + BitVec.ofNat 64 (i * fmtSize p.fmt)) false with
      | .ok (s', _) => s'
      | .error _ => s) s

/-- The element that a listed part contributes to a run: this part's from memory, a peer's from outside (R250). -/
def State.planElem (s : State) (launch : Nat) (p : Plan) (run i part : Nat) : Nat :=
  let n := fmtSize p.fmt
  if part = p.pos then s.planRead launch (p.src + BitVec.ofNat 64 (i * n)) n i
  else (Config.peerElement (p.parts.getD part 0) p.key run i).toNat % 2 ^ (8 * n)

/-- The result of a run at this part, as (offset in elements, value) (R250). -/
def State.planResult (s : State) (launch : Nat) (p : Plan) (run : Nat) : List (Nat × Nat) :=
  match p.kind with
  | 0 => (List.range p.n).map fun i =>
      (i, redList p.op p.fmt ((List.range p.parts.length).map fun q => s.planElem launch p run i q))
  | 1 => (List.range p.n).map fun i => (i, s.planElem launch p run i p.root)
  | _ => (List.range p.parts.length).flatMap fun q =>
      (List.range p.n).map fun i => (q * p.n + i, s.planElem launch p run i q)

/-- A run completes: its result is written to the destination of this part, and the completed count rises; a plan
dropped with runs fired is released after the last, and the other parts are told (R246, R252). -/
def execPlanRunComplete (part plan : Nat) (s : State) : Host.Outcome State Fault Refusal :=
  let key := part * 8192 + plan
  match tget? s.plans key with
  | none => .next s
  | some p =>
    if p.joined && decide (p.done < p.fires) then
      let n := fmtSize p.fmt
      let s0 := s.planWalks p.launch p
      let s1 := (s0.planResult p.launch p (p.done + 1)).foldl (fun s e =>
        s.planWrite p.launch (p.dst + BitVec.ofNat 64 (e.1 * n)) n e.2) { s0 with freeCtr := s.freeCtr + p.n }
      let p1 := { p with done := p.done + 1 }
      if p1.dropped && p1.done == p1.fires && (tget? s.gangs p.gang).isNone && (tget? s.saved p.gang).isNone then
        .next (({ s1 with plans := tdel s1.plans key } : State).tellDrop p1)
      else .next { s1 with plans := tset s1.plans key p1 }
    else .next s

/-- A part of the list that was busy is free: its ports, paths and blocks are reserved, one part at a time in ascending PBR
ID; once all are, the last listed part joins with a matching CPLAN, and every CPLAN that waits for it can complete (R251). -/
def execPlanJoin (part plan : Nat) (s : State) : Host.Outcome State Fault Refusal :=
  let key := part * 8192 + plan
  match tget? s.plans key with
  | none => .next s
  | some p =>
    let p1 := if p.reserved < p.parts.length then { p with reserved := p.reserved + 1 } else { p with joined := true }
    .next { s with plans := tset s.plans key p1 }

end Sys2Proof.Machine
end

