-- ==== Sys2Proof/Machine/Streams.lean ====
section
/-! DEFINITION. Stream engines and push engines (R46 to R49, R52 to R69), the stream commands (R253 to R258), the
address translation of host endpoints (R35 to R37). -/

namespace Sys2Proof.Machine
open Sys2Proof

/-! ### Records (R53 to R56) -/

/-- A 48-bit signed byte offset. -/
def off48 (w : Word) : Int := (w.extractLsb' 0 48).toInt

/-- The extents e0 to e3 (R54). -/
def recExt (r : List Word) : List Nat := (List.range 4).map fun i => ((r.getD 3 0).extractLsb' (16 * i) 16).toNat + 1

/-- The strides s0 to s3 in elements (R54). -/
def recStr (r : List Word) : List Int :=
  [((r.getD 4 0).extractLsb' 0 32).toInt, ((r.getD 4 0).extractLsb' 32 32).toInt,
   ((r.getD 5 0).extractLsb' 0 32).toInt, ((r.getD 5 0).extractLsb' 32 32).toInt]

def recCount (r : List Word) : Nat := ((r.getD 6 0).extractLsb' 32 32).toNat
def recLinkOff (r : List Word) : Int := ((r.getD 6 0).extractLsb' 0 32).toInt
/-- The index source: a tile slot rather than a device address, and its register or slot (R54). -/
def recIdxTile (r : List Word) : Bool := (r.getD 7 0).getLsbD 63
def recIdxReg (r : List Word) : BitVec 5 := (r.getD 7 0).extractLsb' 58 5
def recSub (r : List Word) : Bool := (r.getD 0 0).getLsbD 22
def recExtHandle (r : List Word) : Bool := (r.getD 0 0).getLsbD 19
def recExtReg (r : List Word) : BitVec 4 := (r.getD 0 0).extractLsb' 15 4
def recKeepStr (r : List Word) : Bool := (r.getD 0 0).getLsbD 14

def prodOf (l : List Nat) : Nat := l.foldl (· * ·) 1

/-- Whether a selector's zero bits are zero for its kind (R55). -/
def selOk (kind : Nat) (sel : BitVec 10) : Bool :=
  match kind with
  | 1 => sel.extractLsb' 1 9 == 0
  | 2 => sel.extractLsb' 5 5 == 0
  | 3 => sel.extractLsb' 4 6 == 0
  | 4 => sel.extractLsb' 7 3 == 0
  | 5 => !sel.getLsbD 5
  | 6 => sel.extractLsb' 4 6 == 0
  | 7 => sel == 0
  | _ => false

/-- The checks of R56 on a record alone, for a stream engine or a push engine (R55). A tile index source of a slot above 1 is
ILLEGAL too: R54 gives the slot as 0 or 1, and R56's list does not name it (DEDUCED, log 64). -/
def recOk (r : List Word) (push : Bool) : Bool :=
  let sk := recSrcKind r
  let dk := recDstKind r
  let memSide := sk == 1 || sk == 2 || dk == 1 || dk == 2
  let ext := recExt r
  (if push then sk == 2 && dk == 7 else (decide (1 ≤ sk) && decide (sk ≤ 5)) && (dk == 1 || dk == 2 || dk == 3 || dk == 5 || dk == 6))
    && selOk sk (recSrcSel r) && selOk dk (recDstSel r)
    && (r.getD 0 0).extractLsb' 0 14 == 0 && (r.getD 1 0).extractLsb' 48 16 == 0 && (r.getD 2 0).extractLsb' 48 16 == 0
    && (r.getD 7 0).extractLsb' 48 10 == 0 && recTag r != 31
    && !(sk == 5 && (dk == 5 || dk == 6)) && !(sk == 3 && dk == 3)
    && !(recSize r == 8 && (sk == 5 || dk == 5 || dk == 6))
    && (!(recIndexed r || recLinked r) || memSide)
    && !(recLinked r && (recIndexed r || sk != 2 || decide (1 < ext.getD 2 1) || decide (1 < ext.getD 3 1)))
    && (recSub r == (sk == 4))
    && ((recExtHandle r && !push) || decide (recCount r ≤ prodOf ext))
    && !(recIndexed r && recIdxTile r && decide (1 < (recIdxReg r).toNat))

/-- The physical quadrant, edge and k of a port selector in a region (R55). -/
def portOf (quads : List Nat) (sel : BitVec 10) : Option (Nat × Nat × Nat) :=
  (quads[(sel.extractLsb' 8 2).toNat]?).map fun q => (q, (sel.extractLsb' 6 2).toNat, (sel.extractLsb' 0 5).toNat)

/-- The physical island of an island selector in a region (R55). -/
def islandOf (quads : List Nat) (sel : BitVec 10) : Option Nat :=
  (quads[(sel.extractLsb' 0 3).toNat / 2]?).map fun q => 2 * q + (sel.extractLsb' 0 3).toNat % 2

/-- The quadrant across an edge of a quadrant, if there is one. -/
def acrossEdge (q edge : Nat) : Option Nat :=
  match edge with
  | 0 => if 2 ≤ q then some (q - 2) else none
  | 1 => if q % 2 = 0 then some (q + 1) else none
  | 2 => if q < 2 then some (q + 2) else none
  | _ => if q % 2 = 1 then some (q - 1) else none

/-- Whether a side of kind port or island suits an engine of quadrant `own` in a region (R56). -/
def sideOk (quads : List Nat) (own kind : Nat) (sel : BitVec 10) : Bool :=
  match kind with
  | 5 =>
    match portOf quads sel with
    | some (q, e, _) => q == own && (match acrossEdge q e with | some n => !quads.contains n | none => true)
    | none => false
  | 6 => match islandOf quads sel with | some i => i / 2 == own | none => false
  | _ => true

/-! ### Engines -/

/-- The physical engine of a virtual number in a context's region (R52). -/
def Ctx.physEngine (x : Ctx) (k : Nat) (v : BitVec 4) : Option Nat :=
  (x.quads[v.toNat / 4]?).map fun q => coreOf k * 16 + engBase q + v.toNat % 4

/-- A command to a virtual engine: ILLEGAL outside the region; a recorded fault traps, and the engine becomes idle
(R52, R68, R254). -/
def State.withEngine (s : State) (k : Nat) (x : Ctx) (v : BitVec 4) (f : Nat → Engine → Res) : Res :=
  match x.physEngine k v with
  | none => .trap (.illegal)
  | some e =>
    let g := s.engine e
    match g.st, g.fault with
    | .faulted, some (code, kind, addr) =>
      .stop ((s.setEngine e { g with st := .idle, fault := none }).takeTrap k ⟨code, kind, addr⟩)
    | _, _ => f e g

/-- An engine meets a fault: it stops, holds no slot any more, a destination tile returns to EMPTY, a push it subscribes to
ends (R49, R65, R68). -/
def State.faultEngine (s : State) (k code kind : Nat) (addr : Word) : State :=
  let g := s.engine k
  let s1 := if recSrcKind g.record = 4 ∧ g.st = .running then s.endPush (recSrcSel g.record).toNat else s
  (s1.emptyDst g).setEngine k { g.ended_ .faulted with fault := some (code, kind, addr) }

/-- The base of a side (R55): dva: the g register plus the offset; tile and host: the offset. -/
def sideBase (x : Ctx) (kind : Nat) (sel : BitVec 10) (off : Int) : Word :=
  if kind = 2 then x.rg (sel.extractLsb' 0 5) + BitVec.ofInt 64 off else BitVec.ofInt 64 off

/-- Whether a side is a memory side, whose base must be aligned (R56). -/
def isMemSide (kind : Nat) : Bool := kind == 1 || kind == 2 || kind == 3

/-- The indexes (i0, i1, i2, i3) of element m (R58). -/
def idxAt (ext : List Nat) (m : Nat) : List Nat :=
  match ext with
  | [] => []
  | e :: r => m % (if e = 0 then 1 else e) :: idxAt r (m / (if e = 0 then 1 else e))

/-- The offset of an element in elements. -/
def relOf (idx : List Int) (str : List Int) : Int := ((idx.zip str).map fun e => e.1 * e.2).foldl (· + ·) 0

/-- The offset of element m of an affine traversal, in bytes. -/
def Engine.rel (g : Engine) (m : Nat) : Int :=
  relOf ((idxAt g.ext m).map Int.ofNat) g.str * recSize g.record

/-- The lowest and highest element offset of an affine traversal, in bytes, over the declared count. -/
def Engine.span (g : Engine) : Int × Int :=
  (List.range g.count).foldl (fun m i => (min m.1 (g.rel i), max m.2 (g.rel i))) (0, 0)

/-- Whether a run translates an access. -/
def PRun.covers (r : PRun) (a : Word) (write : Bool) : Bool :=
  decide (r.page ≤ a.toNat / 4096) && decide (a.toNat / 4096 < r.page + r.count) && (!write || r.write)

/-- One more page after the runs patched so far: a physically contiguous one lengthens the last run (R32). -/
def addRun : List PRun → PRun → List PRun
  | [], r => [r]
  | [o], r =>
    if o.page + o.count = r.page ∧ o.dpa + 4096 * o.count = r.dpa ∧ o.mtype = r.mtype ∧ o.write = r.write then
      [{ o with count := o.count + 1 }]
    else [o, r]
  | o :: x :: l, r => o :: addRun (x :: l) r

/-- The walker translates one 4 KiB page for an engine (R32). -/
def State.walkRun (s : State) (core launch : Nat) (a : Word) (write : Bool) : Except Nat (State × PRun) :=
  match s.walk core launch a write with
  | .error k => .error k
  | .ok (s1, f) => .ok (s1, ⟨a.toNat / 4096, 1, f.dpa + a.toNat % 2 ^ f.bits / 4096 * 4096, f.mtype, write⟩)

/-- Translate every page of a DVA range into runs; the first kind and address otherwise. What the walks set in the tables
stays (R30, R32). -/
def State.patchRuns (s : State) (core launch : Nat) (lo : Word) (write : Bool) (rs : List PRun) :
    Nat → Except (State × Nat × Word) (State × List PRun)
  | 0 => .ok (s, rs)
  | n + 1 =>
    match s.walkRun core launch lo write with
    | .error kind => .error (s, kind, lo)
    | .ok (s1, r) =>
      if (s.resolve (launch / 4) r.dpa).isNone then .error (s1, 4, lo)
      else s1.patchRuns core launch ((lo &&& ~~~(0xFFF : Word)) + 0x1000) write (addRun rs r) n

/-- The runs of the footprint of a loaded engine's affine dva sides, or the fault that the loader meets (R32): the addresses
of an indexed program, and those of a linked list, are not known yet. -/
def State.footRuns (s : State) (e : Nat) (g : Engine) : Except (State × Nat × Word) (State × List PRun) :=
  if recIndexed g.record then .ok (s, [])
  else
    let span := g.span
    let side := fun (s : State) (rs : List PRun) (b : Word) (write : Bool) =>
      let lo := b + BitVec.ofInt 64 span.1
      s.patchRuns (e / 16) (s.launchOf g.ctx) lo write rs (((span.2 - span.1).toNat + lo.toNat % 4096 + recSize g.record - 1) / 4096 + 1)
    match (if recSrcKind g.record = 2 ∧ !recLinked g.record then side s [] g.srcBase false else .ok (s, [])) with
    | .error f => .error f
    | .ok (s1, rs) => if recDstKind g.record = 2 then side s1 rs g.dstBase true else .ok (s1, rs)

/-- Patch the first 16 runs of the footprint into the engine, once its extents are known, or record its fault (R32). -/
def State.checkFoot (s : State) (e : Nat) : State :=
  let g := s.engine e
  if !g.extOk then s
  else
    match s.footRuns e g with
    | .error (s1, kind, a) => s1.faultEngine e 0x04 kind a
    | .ok (s1, rs) => s1.updEngine e fun g => { g with runs := rs.take 16 }

/-- The runs of an engine after an invalidation: those that overlap it are translated anew, in place (R34). -/
def State.retranslate (s : State) (core launch : Nat) (overlaps : PRun → Bool) : List PRun → Except (State × Nat × Word) (State × List PRun)
  | [] => .ok (s, [])
  | r :: l =>
    match (if overlaps r then s.patchRuns core launch (BitVec.ofNat 64 (4096 * r.page)) r.write [] r.count else .ok (s, [r])) with
    | .error f => .error f
    | .ok (s1, a) =>
      match s1.retranslate core launch overlaps l with
      | .error f => .error f
      | .ok (s2, b) => .ok (s2, a ++ b)

/-- An invalidation reaches a stream engine, which pauses between two bursts: its runs are translated anew, and it goes on;
one that cannot be is a stream fault (R32, R34). -/
def State.renewRuns (s : State) (e : Nat) (overlaps : PRun → Bool) : State :=
  let g := s.engine e
  if !g.runs.any overlaps then s
  else
    match s.retranslate (e / 16) (s.launchOf g.ctx) overlaps g.runs with
    | .error (s1, kind, a) => s1.faultEngine e 0x04 kind a
    | .ok (s1, rs) => s1.updEngine e fun g => { g with runs := rs.take 16 }

/-- Words that the receive buffer holds beyond the counts of the programs before: by port and tag, those of the last one
included. They stay in the buffer until a program of their port and tag takes them (DESIGN CHOICE: R64 says that none is
discarded at a port; log 64). -/
def Engine.leftWords (g : Engine) : List (BitVec 10 × BitVec 5 × List Word) :=
  if recSrcKind g.record = 5 ∧ g.rbuf ≠ [] then (recSrcSel g.record, recTag g.record, g.rbuf) :: g.left else g.left

/-- Whether words left in the buffer are of the port and tag of a record. -/
def leftFor (r : List Word) (w : BitVec 10 × BitVec 5 × List Word) : Bool :=
  recSrcKind r == 5 && w.1 == recSrcSel r && w.2.1 == recTag r

/-- The words that the receive buffer of an engine holds, those of other ports and tags included (R64). -/
def Engine.buffered (g : Engine) : Nat := g.left.foldl (fun n w => n + w.2.2.length) g.rbuf.length

/-- Load a record into an engine: the checks of R56, then the bases (R254). The engine is not running. -/
def State.loadEngine (s : State) (k : Nat) (x : Ctx) (e : Nat) (r : List Word) (src : RecSrc) : Res :=
  let own := engQuad (e % 16)
  let sk := recSrcKind r
  let dk := recDstKind r
  if !recOk r false || !sideOk x.quads own sk (recSrcSel r) || !sideOk x.quads own dk (recDstSel r) then .trapIn s .illegal
  else
    let sb := sideBase x sk (recSrcSel r) (off48 (r.getD 1 0))
    let db := sideBase x dk (recDstSel r) (off48 (r.getD 2 0))
    let ib := if recIdxTile r then BitVec.ofInt 64 (off48 (r.getD 7 0))
      else x.rg (recIdxReg r) + BitVec.ofInt 64 (off48 (r.getD 7 0))
    if isMemSide sk && sb.toNat % recSize r != 0 then .trapIn s (.misalign (if sk = 2 then sb else 0))
    else if isMemSide dk && db.toNat % recSize r != 0 then .trapIn s (.misalign (if dk = 2 then db else 0))
    else
      let ext := recExt r
      let g : Engine :=
        { st := .loaded, ctx := k, loadedAt := s.clock, record := r, src := src, srcBase := sb, dstBase := db, idxBase := ib, ext := ext,
          str := recStr r, count := if recCount r = 0 then prodOf ext else recCount r, extOk := !recExtHandle r, node := sb
          rbuf := ((s.engine e).leftWords.filter (leftFor r)).flatMap (·.2.2)
          left := (s.engine e).leftWords.filter fun w => !leftFor r w }
      .done (((s.emptyDst (s.engine e)).setEngine e g).checkFoot e)

/-! ### Stream commands (R253 to R257) -/

/-- SAGEN from a device address (R254). -/
def execSagen (c : Guard) (eng : BitVec 4) (a : BitVec 5) (s : State) : Host.Outcome State Fault Refusal :=
  s.cp c fun k x => s.withEngine k x eng fun e g =>
    let addr := x.rg a
    if addr.toNat % 64 != 0 then .trap (.misalign addr)
    else if g.st = .running then .wait s .other
    else
      match s.devReadLong k addr 8 with
      | .error (er, at_) => AccErr.res er at_
      | .ok (s1, bs) =>
        match s1.translate (coreOf k) (s1.launchOf k) addr false with
        | .ok (_, t) => s1.loadEngine k x e (dwords bs) (.device t.dpa)
        | .error kind => .trapIn s1 (.dvaFault kind addr)

/-- SAGEN from a tile: byte 64·g[b] of a READY tile (R254). -/
def execSagenTile (c : Guard) (eng a : BitVec 4) (b : BitVec 5) (s : State) : Host.Outcome State Fault Refusal :=
  s.cp c fun k x => s.withEngine k x eng fun e g =>
    let h := x.rh a
    s.withTile k h fun key t =>
      if g.st = .running ∨ t.st ≠ .ready then .wait s .other
      else
        let off := 64 * (x.rg b).toNat
        if tileBytes t.fmt t.rows t.cols < off + 64 then .trap (.tileFault 3 (tileAddr key off))
        else
          (s.pageAccess (coreOf k) (key + off / 2048) x.gang false).res (tileAddr key off) fun s1 =>
            s1.loadEngine k x e (dwords (s1.tileGet key off 64)) (.tile (keyPage key) off)

/-- SAGEN from the pantry: entry 0 and numbers without an entry trap with ILLEGAL (R234, R254). -/
def execSagenPantry (c : Guard) (eng : BitVec 4) (entry : BitVec 10) (s : State) : Host.Outcome State Fault Refusal :=
  s.cp c fun k x => s.withEngine k x eng fun e g =>
    match tget? (s.launch (s.launchOf k)).pantry.streams entry.toNat with
    | none => .trap (.illegal)
    | some r => if entry = 0 then .trap (.illegal) else if g.st = .running then .wait s .other
                else s.loadEngine k x e r (.pantry entry.toNat)

/-- Whether the handle that a record takes its extents from has too few elements for the declared count: ILLEGAL, before
any other trap (R56, R57, R108). -/
def Engine.extIllegal (g : Engine) (x : Ctx) : Bool :=
  let h := x.rh (recExtReg g.record)
  !g.extOk && h.bound && decide (atomCols h.atom * atomRows h.atom < recCount g.record)

/-- Take the extents from the handle that the record names (R57): count and strides; ILLEGAL for a count above them. It is
read once, by the first SBIND of the program, or by SGO where no SBIND is needed (DESIGN CHOICE: R57 speaks of SBIND only;
log 64). An NQ4 tile has no row pitch and no element size (R71, R72), so the strides that its hK gives are not in the spec: the model
takes (1, 0, 0, 0) (DESIGN CHOICE, log 64). -/
def State.takeExtents (s : State) (k : Nat) (x : Ctx) (g : Engine) (f : Engine → Res) : Res :=
  if g.extOk then f g
  else if g.extIllegal x then .trap (.illegal)
  else
    let h := x.rh (recExtReg g.record)
    s.withTile k h fun _ _ =>
      let cols := atomCols h.atom
      let rows := atomRows h.atom
      f { g with
          ext := [cols, rows, 1, 1], extOk := true
          str := if recKeepStr g.record then g.str else [1, (h.pitch / recSize g.record : Nat), 0, 0]
          count := if recCount g.record = 0 then cols * rows else recCount g.record }

/-- The byte of a tile at which a side of a handle starts: the tile's or the view's first byte plus the offset. -/
def Handle.start (h : Handle) (off : Int) : Int := (h.offset 0 0 : Nat) + off

/-- Whether an element of n bytes at a byte of a tile lies within its bounds (R59). -/
def inTile (h : Handle) (t : Tile) (a : Int) (n : Nat) (dst : Bool) : Bool :=
  if a < 0 then false
  else
    let p := h.pitch
    let row := a.toNat / (if p = 0 then 1 else p)
    let col := a.toNat % (if p = 0 then 1 else p)
    let es := fmtSize (atomFmt h.atom)
    if h.view then
      decide (h.vrow.toNat ≤ row) && decide (row < h.vrow.toNat + atomRows h.atom) && decide (h.vcol.toNat * es ≤ col)
        && decide (col + n ≤ (h.vcol.toNat + atomCols h.atom) * es)
    else
      decide (a.toNat + n ≤ tileBytes t.fmt t.rows t.cols) && (!dst || t.fmt == 10 || decide (col + n ≤ t.cols * es))

/-- Whether an affine side lies within a tile (R59). -/
def Engine.tileFits (g : Engine) (h : Handle) (t : Tile) (base : Word) (dst : Bool) : Bool :=
  recIndexed g.record || recLinked g.record && !dst
    || (List.range g.count).all fun i => inTile h t (h.start base.toInt + g.rel i) (recSize g.record) dst

/-- Whether a use of a handle starts at a byte that is no multiple of its element size (R56): the base of a view. -/
def Handle.misaligned (h : Handle) (base : Word) (n : Nat) : Bool := decide (h.start base.toInt % (n : Int) ≠ 0)

/-- The uses of a record that name a tile slot (R255): source, destination, index source. -/
structure Uses where
  src : Bool
  dst : Bool
  idx : Bool

/-- The uses that name slot n. -/
def usesOf (r : List Word) (n : Nat) : Uses :=
  { src := recSrcKind r == 1 && (recSrcSel r).toNat == n, dst := recDstKind r == 1 && (recDstSel r).toNat == n
    idx := recIndexed r && recIdxTile r && (recIdxReg r).toNat == n }

/-- An engine whose tile slot n holds the handle of a register. -/
def Engine.bind (g : Engine) (n : Nat) (h : Handle) (reg : Nat) : Engine :=
  if n = 0 then { g with slot0 := some h, reg0 := reg } else { g with slot1 := some h, reg1 := reg }

/-- A tile becomes FILLING, with the bytes that a program declares (R65). -/
def State.startFill (s : State) (key : Nat) (t : Tile) (bytes : Nat) : State :=
  { s with tiles := tset s.tiles key { t with declared := bytes, received := 0 } }.setTileSt key .filling

/-- Bind a tile slot of a loaded engine, whose extents are known (R57, R59, R65, R255): the states that its uses ask for, the
affine footprint. A resume binds the slots of a program under way: its destination is FILLING, and nothing waits (R69,
R316). A second SBIND of the destination slot leaves the first tile FILLING: DESIGN CHOICE, the spec does not say, log 64. -/
def State.bindSlot (s : State) (k : Nat) (x : Ctx) (e : Nat) (g0 g : Engine) (a : BitVec 4) (n : Nat) (resume : Bool) : Res :=
  let h := x.rh a
  let ⟨isSrc, isDst, _⟩ := usesOf g.record n
  s.withTile k h fun key t =>
    if !isDst && !resume && t.st != .ready then .wait s .other
    else if (isSrc && !g.tileFits h t g.srcBase false) || (isDst && !g.tileFits h t g.dstBase true) then
      .trap (.tileFault 3 (tileAddr key 0))
    else
      let s1 := s.setEngine e (g.bind n h a.toNat)
      let s2 := if isDst && !resume then s1.startFill key t (g.count * recSize g.record) else s1
      .done (if g0.extOk then s2 else s2.checkFoot e)

/-- Whether a slot's destination tile is in a state in which it cannot be one (R65, R86): the slot is a source or the index stream
too, the handle is not writable, or the tile is not EMPTY (FILLING at a resume), sealed, or another gang's. -/
def State.dstBad (s : State) (k : Nat) (x : Ctx) (h : Handle) (u : Uses) (resume : Bool) : Bool :=
  u.dst && (u.src || u.idx || !atomWritable h.atom ||
    match s.tile? (s.tileKey k h) with
    | none => false
    | some t =>
      let en := s.dirE (s.tileKey k h)
      t.st != (if resume then TileSt.filling else .empty) || en.sealed || en.owner != x.gang)

/-- Bind the tile of a handle register to a slot of a loaded program (R56, R57, R65), the traps in the order of R108: MISALIGN
where the handle's offset and a side's base give elements that lie across their size, TILE_STATE for a handle that is not bound or
a destination in a wrong state, then those of the extents and of the tile. -/
def State.bindHandle (s : State) (k : Nat) (x : Ctx) (e : Nat) (g0 : Engine) (a : BitVec 4) (n : Nat) (resume : Bool) : Res :=
  let r := g0.record
  let h := x.rh a
  let u := usesOf r n
  if h.bound && (u.src && h.misaligned g0.srcBase (recSize r) || u.dst && h.misaligned g0.dstBase (recSize r)) then
    .trap (.misalign (tileAddr (s.tileKey k h) (h.offset 0 0)))
  else if !h.bound || s.dstBad k x h u resume then .trap .tileState
  else s.takeExtents k x g0 fun g => s.bindSlot k x e g0 g a n resume

/-- SBIND of a tile slot (R56, R57, R255): the traps in the order of R108. -/
def execSbind (c : Guard) (eng a : BitVec 4) (slot : BitVec 5) (s : State) : Host.Outcome State Fault Refusal :=
  s.cp c fun k x => s.withEngine k x eng fun e g0 =>
    let u := usesOf g0.record slot.toNat
    if g0.st ≠ .loaded || !(u.src || u.dst || u.idx) || g0.extIllegal x then .trap (.illegal)
    else s.bindHandle k x e g0 a slot.toNat false

/-- The endpoint of a launch, if it is present and of the direction (R35). -/
def Launch.endp? (l : Launch) (n : Nat) (out : Bool) : Option Endp :=
  match l.ends[n]? with
  | some p => if p.present && p.out == out then some p else none
  | none => none

/-- Whether a host side passes the checks of R35. -/
def Engine.hostFits (g : Engine) (l : Launch) (sel : BitVec 10) (base : Word) (out : Bool) : Bool :=
  match l.endp? sel.toNat out with
  | none => false
  | some p =>
    recIndexed g.record || (List.range g.count).all fun i =>
      decide (0 ≤ base.toInt + g.rel i) && decide (base.toInt + g.rel i + recSize g.record ≤ p.extent)

/-- The checks of R35 on the host sides of a loaded engine: DVA_FAULT kind 6 with the endpoint number (R255). -/
def State.bindHost (s : State) (k : Nat) (x : Ctx) (e : Nat) (g0 : Engine) : Res :=
    s.takeExtents k x g0 fun g =>
      let l := s.launch (s.launchOf k)
      let r := g.record
      if recSrcKind r == 3 && !g.hostFits l (recSrcSel r) g.srcBase false then
        .trap (.dvaFault 6 (BitVec.ofNat 64 (recSrcSel r).toNat))
      else if recDstKind r == 3 && !g.hostFits l (recDstSel r) g.dstBase true then
        .trap (.dvaFault 6 (BitVec.ofNat 64 (recDstSel r).toNat))
      else
        let s1 := s.setEngine e { g with hostOk := true }
        .done (if g0.extOk then s1 else s1.checkFoot e)

/-- SBIND.host (R255). -/
def execSbindHost (c : Guard) (eng : BitVec 4) (s : State) : Host.Outcome State Fault Refusal :=
  s.cp c fun k x => s.withEngine k x eng fun e g => if g.st ≠ .loaded then .trap (.illegal) else s.bindHost k x e g

/-- Whether every slot and endpoint that the record names is bound (R256). -/
def Engine.bound (g : Engine) : Bool :=
  let r := g.record
  (recSrcKind r != 1 || (g.slot (recSrcSel r).toNat).isSome) && (recDstKind r != 1 || (g.slot (recDstSel r).toNat).isSome)
    && (!(recIndexed r && recIdxTile r) || (g.slot (recIdxReg r).toNat).isSome)
    && ((recSrcKind r != 3 && recDstKind r != 3) || g.hostOk)

/-- SGO (R256). A record that takes its extents from a handle and names no slot has had no SBIND: SGO reads the handle
(DESIGN CHOICE, log 64). -/
def execSgo (c : Guard) (eng : BitVec 4) (s : State) : Host.Outcome State Fault Refusal :=
  s.cp c fun k x => s.withEngine k x eng fun e g0 =>
    if g0.st ≠ .loaded || recSrcKind g0.record == 4 then .trap (.illegal)
    else if !g0.bound then .trap .tileState
    else s.takeExtents k x g0 fun g =>
      let s1 := s.setEngine e { g with st := .running }
      .done (if g0.extOk then s1 else s1.checkFoot e)

/-- SHALT (R65, R256). -/
def execShalt (c : Guard) (eng : BitVec 4) (s : State) : Host.Outcome State Fault Refusal :=
  s.cp c fun k x => s.withEngine k x eng fun e _ => .done (s.haltEngine e)

/-- SHALT.push: ILLEGAL if no push of the gang runs there (R49, R256). -/
def execShaltPush (c : Guard) (a : BitVec 5) (s : State) : Host.Outcome State Fault Refusal :=
  s.cp c fun _ x =>
    match tget? s.pushes (x.rg a).toNat with
    | some u => if u.gang = x.gang then .done (s.endPush (x.rg a).toNat) else .trap (.illegal)
    | none => .trap (.illegal)

/-- SWAIT: waits for the declared count of a running engine; ILLEGAL on one loaded and not started (R257). -/
def execSwait (c : Guard) (eng : BitVec 4) (_scope : BitVec 3) (s : State) : Host.Outcome State Fault Refusal :=
  s.cp c fun k x => s.withEngine k x eng fun _ g =>
    match g.st with
    | .running => .wait s .other
    | .loaded => .trap (.illegal)
    | _ => .done s

/-- SCNT (R257). -/
def execScnt (c : Guard) (d : BitVec 5) (eng : BitVec 4) (s : State) : Host.Outcome State Fault Refusal :=
  s.cp c fun k x => s.withEngine k x eng fun _ g => s.setsG k d (BitVec.ofNat 64 g.n)

/-- The subscriptions of a gang that name push p, loaded and bound, on any member (R258). A subscription with bit 19 counts once its
extents have been read: by SBIND.host, where it has no tile slot (DESIGN CHOICE, log 64). -/
def State.subscribers (s : State) (g : Gang) (p : Nat) : Tab Engine :=
  s.engines.filter fun e => e.2.st == .loaded && recSrcKind e.2.record == 4 && (recSrcSel e.2.record).toNat == p && e.2.bound
    && e.2.extOk && g.members.contains e.2.ctx

/-- Those of the subscriptions that a waiting SMCAST has fixed which are as they were loaded: one halted since is none of the push
(R49, R258). -/
def State.stillSubs (s : State) (subs : List (Nat × Nat)) : Tab Engine :=
  s.engines.filter fun e => e.2.st == .loaded && subs.contains (e.1, e.2.loadedAt)

/-- Start push p of context k with a record and its subscriptions together (R47, R48, R258); with no subscription left nothing
starts (DESIGN CHOICE, log 64). -/
def State.startPush (s : State) (k p : Nat) (r : List Word) (base idxBase : Word) (subs : Tab Engine) : State :=
  if subs.isEmpty then s
  else
    let u : Push :=
      { gang := (s.ctx k).gang, ctx := k, record := r, base := base, n := 0, idxBase := idxBase, node := base
        unit := (recExt r).getD 0 1 * (recExt r).getD 1 1
        count := if recCount r = 0 then prodOf (recExt r) else recCount r
        permits := subs.foldl (fun m e => min m (recDepth e.2.record)) 4
        subs := subs.map fun e => (e.1, 0) }
    let s2 := subs.foldl (fun s e => s.setEngine e.1 { e.2 with st := .running }) s
    { s2 with pushes := tset s2.pushes p u }

/-- SMCAST (R47, R67, R258): the traps in the order of R108. Its record and its subscriptions are fixed before it waits for the push
engine. Bit 19 of a push record has no SBIND to act at: it is ignored,
and the record's own extents and strides stand, its declared count checked against them (DESIGN CHOICE, log 64). -/
def execSmcast (c : Guard) (a b : BitVec 5) (s : State) : Host.Outcome State Fault Refusal :=
  s.cp c fun k x =>
    let p := (x.rg a).toNat
    let addr := x.rg b
    let g := s.gang x.gang
    let busy := (tget? s.pushes p).isSome
    if !(s.part g.part).map.contains (p / 2) then .trap (.illegal)
    else
    match x.wait.bind (·.why.mcast?) with
    | some (r, base, idx, l) => if busy then .wait s (.mcast r base idx l) else .done (s.startPush k p r base idx (s.stillSubs l))
    | none =>
    let subs := s.subscribers g p
    if subs.isEmpty || decide (16 < subs.length) then .trap (.illegal)
    else if addr.toNat % 64 != 0 then .trap (.misalign addr)
    else
      match s.devReadLong k addr 8 with
      | .error (er, at_) => AccErr.res er at_
      | .ok (s1, bs) =>
        let r := dwords bs
        let count := if recCount r = 0 then prodOf (recExt r) else recCount r
        let base := sideBase x 2 (recSrcSel r) (off48 (r.getD 1 0))
        if !recOk r true || subs.any (fun e => prodOf e.2.ext != count) then .trapIn s1 (.illegal)
        else if base.toNat % recSize r != 0 then .trapIn s1 (.misalign base)
        else
          let idx := x.rg (recIdxReg r) + BitVec.ofInt 64 (off48 (r.getD 7 0))
          if busy then .wait s1 (.mcast r base idx (subs.map fun e => (e.1, e.2.loadedAt)))
          else .done (s1.startPush k p r base idx subs)

/-! ### Host endpoints (R35, R36) -/

/-- Whether the address translation cache grants an access to a host page (R36). -/
def State.atcHas (s : State) (pasid page : Nat) (write : Bool) : Bool :=
  s.dev.atc.any fun e => e.pasid == pasid && e.page == page && (if write then e.writable else e.readable)

/-- The first page, of those that n bytes of host memory lie in, that the cache does not grant (R36). Pages are of 4 KiB, the
smallest of PCIe ATS (DESIGN CHOICE: the spec gives no size; log 64). -/
def State.atcMiss (s : State) (pasid addr n : Nat) (write : Bool) : Option Nat :=
  ((List.range ((addr % 4096 + n + 4095) / 4096)).map (addr / 4096 + ·)).find? fun page => !s.atcHas pasid page write

/-- Whether a request is for a page of a PASID. -/
def HostReq.names (q : HostReq) (pasid page : Nat) : Bool := q.pasid == pasid && q.page == page

/-- A miss sends a Translation Request for a partition, unless one for the page and the access is under way (R36): a read and a
write of a page each have their own. -/
def State.atcAsk (s : State) (part pasid page : Nat) (write : Bool) : State :=
  let asked := fun (l : List HostReq) => l.any fun q => q.names pasid page && q.write == write
  if asked s.dev.transReqs || asked s.dev.pageReqs || asked s.dev.pageWait then s
  else { s with dev := { s.dev with transReqs := s.dev.transReqs ++ [(⟨part, pasid, page, write, s.clock⟩ : HostReq)] } }.send (.transRequest pasid page write)

/-! ### Moving words (R58 to R64) -/

/-- What reading or placing words comes to: what the walks and the pager have been asked for stands in the state. -/
inductive Got (α : Type) where
  | val (v : α)
  | stall (s : State) (why : WaitWhy)
  | fault (s : State) (code kind : Nat) (addr : Word)

/-- Go on with what has been read. -/
def Got.bind {α β : Type} (x : Got α) (f : α → Got β) : Got β :=
  match x with
  | .val v => f v
  | .stall s why => .stall s why
  | .fault s code kind addr => .fault s code kind addr

/-- A page access of an engine (R68, R77, R80). -/
def PageRes.got {α : Type} (r : PageRes) (s : State) (addr : Word) (f : State → Got α) : Got α :=
  match r with
  | .ok s1 => f s1
  | .wait s1 => .stall s1 (.page addr.toNat)
  | .fault code kind _ => .fault s code kind addr

/-- A device access of an engine that is not performed (R68, R220, R318). -/
def AccErr.got {α : Type} (e : State × AccErr) (a : Word) : Got α :=
  match e.2 with
  | .dva kind => .fault e.1 0x04 kind a
  | .poisoned => .fault e.1 0x0B 0 0
  | .logWait line => .stall e.1 (.storeLog line)

/-- Translate an access of an engine (R32): by the runs of the engine named, which takes a page it lacks from the walker, in
place of its oldest run where it holds 16 (DESIGN CHOICE, log 12); else by the core's TLB. -/
def State.engXlat (s : State) (ctx : Nat) (via : Option Nat) (a : Word) (write : Bool) : Except (State × AccErr) (State × Xlat) :=
  let launch := s.launchOf ctx
  match via with
  | none =>
    (match s.translate (coreOf ctx) launch a write with
    | .error kind => .error (s, .dva kind)
    | .ok r => .ok r)
  | some e =>
    match (s.engine e).runs.find? fun r => r.covers a write with
    | some r => .ok (s, s.xlatOf launch (BitVec.ofNat 64 (a.toNat - 4096 * r.page)) r.dpa 64 r.mtype)
    | none =>
      match s.walkRun (coreOf ctx) launch a write with
      | .error kind => .error (s, .dva kind)
      | .ok (s1, r) =>
        .ok (s1.updEngine e fun g => { g with runs := (if g.runs.length < 16 then g.runs else g.runs.drop 1) ++ [r] },
             s1.xlatOf launch a r.dpa 12 r.mtype)

/-- Whether a side of a program is translated by its runs: its addresses are affine (R32). -/
def viaRuns (e : Nat) (r : List Word) (dst : Bool) : Option Nat :=
  if recIndexed r || recLinked r && !dst then none else some e

/-- The line of a DPA in the cache part of its home slice, for an access of a normal page (R27, R39, R40). -/
def State.homeTouch (s : State) (ctx : Nat) (x : Xlat) (dirty : Bool) : State :=
  if x.mtype = 0 then s.l2Touch (s.launchOf ctx / 4) x.dpa dirty else s

/-- Read n bytes of an engine's tile slot at a byte of the tile (R59). An index element that is not aligned to its own size is MISALIGN:
R59 speaks of the addresses and the size of elements only (DESIGN CHOICE, log 51). An index source that names a tile slot in a push record
names nothing: a push has no SBIND, and the spec does not say how such a push ends. TILE_STATE, the cause of an unbound slot,
faults each subscription (DESIGN CHOICE, log 30). -/
def State.readSlot (s : State) (g : Engine) (slot : Nat) (off : Int) (n : Nat) : Got (State × Nat) :=
  match g.slot slot with
  | none => .fault s 0x06 0 0
  | some h =>
    let key := pageKey (s.launchOf g.ctx) (atomPage h.atom)
    match s.tile? key with
    | none => .fault s 0x05 1 (tileAddr key 0)
    | some t =>
      let a := h.start off
      if !inTile h t a n false then .fault s 0x05 3 (tileAddr key a.toNat)
      else if a.toNat % n ≠ 0 then .fault s 0x03 0 (tileAddr key a.toNat)
      else
        (s.pageAccess (coreOf g.ctx) (key + a.toNat / 2048) (s.ctx g.ctx).gang false).got s (tileAddr key a.toNat) fun s1 =>
          .val (s1, ofBytes (s1.tileGet key a.toNat n))

/-- Whether a target lies in the pinned aperture of this part. -/
def Target.pinned (t : Target) : Bool :=
  match t with
  | .mem key => decide (4096 ≤ key / 2 ^ 52) && decide (key / 2 ^ 52 < 8192)
  | _ => false

/-- Read n bytes at a DVA on behalf of an engine. A link at an address that is no multiple of 8, and an index element that is not
aligned to its own size, are MISALIGN: R59 speaks of the addresses and the size of elements only (DESIGN CHOICE, log 51). The source
of a push is pinned data (R46): a line anywhere else is a fault of kind 4 (DESIGN CHOICE, log 30). -/
def State.readDva (s : State) (g : Engine) (via : Option Nat) (pin : Bool) (a : Word) (n : Nat) : Got (State × Nat) :=
  if a.toNat % n != 0 then .fault s 0x03 0 a
  else
    match s.engXlat g.ctx via a false with
    | .error e => AccErr.got e a
    | .ok (s1, x) =>
      if pin && !x.target.pinned then .fault s1 0x04 4 a
      else
        match s1.readAt g.ctx x n with
        | .error e => AccErr.got e a
        | .ok (s2, bs) => .val (s2.homeTouch g.ctx x false, ofBytes bs)

/-- An engine waits for the translation of a host page (R36). -/
def State.waitHost {α : Type} (s : State) (e : Nat) (sel : BitVec 10) (page : Nat) (write : Bool) : Got α :=
  .stall (s.updEngine e fun g => { g with hostWait := some (sel.toNat, page, write) }) .other

/-- Read n bytes of an endpoint (R35, R36, R59); every host page that they lie in must be translated. -/
def State.readHost (s : State) (e : Nat) (g : Engine) (sel : BitVec 10) (off : Int) (n : Nat) : Got (State × Nat) :=
  let l := s.launch (s.launchOf g.ctx)
  let bad := Got.fault s 0x04 6 (BitVec.ofNat 64 sel.toNat)
  match l.endp? sel.toNat false with
  | none => bad
  | some p =>
    if off < 0 ∨ (p.extent : Int) < off + n then bad
    else
      match s.atcMiss l.pasid (p.addr.toNat + off.toNat) n false with
      | some page => (s.atcAsk (s.launchOf g.ctx / 4) l.pasid page false).waitHost e sel page false
      | none => .val (s, mread s.host (l.pasid * 2 ^ 64 + p.addr.toNat + off.toNat) n)

/-- The index value of element m: element j of the index stream, j the steps of its dimension (R58). Where that dimension
has extent 1, each step of the dimensions above it is one (DESIGN CHOICE: i_d itself never changes there; log 64). -/
def State.readIndex (s : State) (g : Engine) (m : Nat) : Got (State × Int) :=
  let r := g.record
  let n := recIdxSize r
  let below := prodOf (g.ext.take (recIdxDim r))
  let off : Int := (m / (if below = 0 then 1 else below) : Nat) * n
  (if recIdxTile r then s.readSlot g (recIdxReg r).toNat (g.idxBase.toInt + off) n
    else s.readDva g none false (g.idxBase + BitVec.ofInt 64 off) n).bind fun v => .val (v.1, intOf (8 * n) true v.2)

/-- The offset of element m in bytes, with the index value in its dimension (R58). -/
def State.elemRel (s : State) (g : Engine) (m : Nat) : Got (State × Int) :=
  let ix := (idxAt g.ext m).map Int.ofNat
  if recIndexed g.record then
    (s.readIndex g m).bind fun v => .val (v.1, relOf (lset ix (recIdxDim g.record) v.2) g.str * recSize g.record)
  else .val (s, relOf ix g.str * recSize g.record)

/-- The node of element m of a linked list: the link of the node just finished is read at the first element of the
next (R58). -/
def State.linkNode (s : State) (g : Engine) (m : Nat) : Got (State × Engine) :=
  let i0 := (idxAt g.ext m).getD 0 0
  let i1 := (idxAt g.ext m).getD 1 0
  if !recLinked g.record || g.ended || i0 ≠ 0 || i1 = 0 then .val (s, g)
  else
    (s.readDva g none (recDstKind g.record == 7) (g.node + BitVec.ofInt 64 (recLinkOff g.record)) 8).bind fun v =>
      .val (v.1, if v.2 = 0 then { g with ended := true } else { g with node := BitVec.ofNat 64 v.2 })

/-- A source word as read: the state, the engine as it is after, the word, and the line or sector it was read from. -/
structure Word1 where
  s : State
  g : Engine
  v : Nat
  line : Int

/-- The source word of element m at an offset (R58 to R60). A receive buffer gives up its first word. -/
def State.readSrc (s : State) (e : Nat) (g : Engine) (m : Nat) (rel : Int) : Got Word1 :=
  let r := g.record
  let n := recSize r
  match recSrcKind r with
  | 1 =>
    (s.readSlot g (recSrcSel r).toNat (g.srcBase.toInt + rel) n).bind fun v =>
      .val ⟨v.1, g, v.2, ((g.slot (recSrcSel r).toNat).getD {}).start (g.srcBase.toInt + rel) / 32⟩
  | 2 =>
    (s.linkNode g m).bind fun l =>
      if l.2.ended then .val ⟨l.1, l.2, 0, 0⟩
      else
        let a := if recLinked r then l.2.node + BitVec.ofInt 64 ((((idxAt g.ext m).getD 0 0 : Nat) : Int) * g.str.getD 0 0 * n)
          else g.srcBase + BitVec.ofInt 64 rel
        (l.1.readDva l.2 (if recDstKind r = 7 then none else viaRuns e r false) (recDstKind r == 7) a n).bind fun v => .val ⟨v.1, l.2, v.2, (a.toNat / 64 : Nat)⟩
  | 3 =>
    (s.readHost e g (recSrcSel r) (g.srcBase.toInt + rel) n).bind fun v =>
      let p := (((s.launch (s.launchOf g.ctx)).endp? (recSrcSel r).toNat false).map fun p => p.addr.toNat).getD 0
      .val ⟨v.1, g, v.2, ((p : Int) + g.srcBase.toInt + rel) / 64⟩
  | _ =>
    match g.rbuf with
    | [] => .stall s .other
    | v :: rest => .val ⟨s, { g with rbuf := rest }, v.toNat % 2 ^ (8 * n), 0⟩

/-- Place a word at the memory destination of an element (R59, R61, R63). -/
def State.writeDst (s : State) (e : Nat) (g : Engine) (rel : Int) (v : Nat) : Got State :=
  let r := g.record
  let n := recSize r
  match recDstKind r with
  | 1 =>
    match g.slot (recDstSel r).toNat with
    | none => .fault s 0x06 0 0
    | some h =>
      let key := pageKey (s.launchOf g.ctx) (atomPage h.atom)
      match s.tile? key with
      | none => .fault s 0x05 1 (tileAddr key 0)
      | some t =>
        let a := h.start (g.dstBase.toInt + rel)
        if !inTile h t a n true then .fault s 0x05 3 (tileAddr key a.toNat)
        else
          (s.pageAccess (coreOf g.ctx) (key + a.toNat / 2048) (s.ctx g.ctx).gang true).got s (tileAddr key a.toNat) fun s1 =>
            let s2 := s1.tilePut key a.toNat (toBytes v n)
            .val { s2 with tiles := tset s2.tiles key { t with received := t.received + n } }
  | 2 =>
    let a := g.dstBase + BitVec.ofInt 64 rel
    if a.toNat % n != 0 then .fault s 0x03 0 a
    else
      match s.engXlat g.ctx (viaRuns e r true) a true with
      | .error er => AccErr.got er a
      | .ok (s1, x) =>
        match s1.writeAt g.ctx g.wait a x (toBytes v n) with
        | .error er => AccErr.got er a
        | .ok s2 => .val (if s2.effects g.ctx then s2.homeTouch g.ctx x true else s2)
  | _ =>
    let l := s.launch (s.launchOf g.ctx)
    let off := g.dstBase.toInt + rel
    let bad := Got.fault s 0x04 6 (BitVec.ofNat 64 (recDstSel r).toNat)
    match l.endp? (recDstSel r).toNat true with
    | none => bad
    | some p =>
      if off < 0 ∨ (p.extent : Int) < off + n then bad
      else
        match s.atcMiss l.pasid (p.addr.toNat + off.toNat) n true with
        | some page => (s.atcAsk (s.launchOf g.ctx / 4) l.pasid page true).waitHost e (recDstSel r) page true
        | none => .val { s with host := msetN s.host (l.pasid * 2 ^ 64 + p.addr.toNat + off.toNat) (toBytes v n) }

/-! ### Bursts (R61) -/

/-- The line of device or host memory, or the sector of a tile, that an element of the destination falls in (R61). -/
def State.dstLine (s : State) (g : Engine) (rel : Int) : Int :=
  match recDstKind g.record with
  | 1 => ((g.slot (recDstSel g.record).toNat).getD {}).start (g.dstBase.toInt + rel) / 32
  | 2 => ((g.dstBase + BitVec.ofInt 64 rel).toNat / 64 : Nat)
  | _ =>
    let p := (((s.launch (s.launchOf g.ctx)).endp? (recDstSel g.record).toNat true).map fun p => p.addr.toNat).getD 0
    ((p : Int) + g.dstBase.toInt + rel) / 64

/-- The words of the burst that comes next, 0 while one more element may belong to it: consecutive elements that fall in the
line of the first (R61; DEDUCED, log 64). An element whose address cannot be had ends it. A tile takes what there is of a
sector, under a byte mask. -/
def State.burstLen (s : State) (g : Engine) : Nat :=
  match g.gather with
  | [] => 0
  | w :: _ =>
    let l := s.dstLine g w.1
    let k := (g.gather.takeWhile fun v => s.dstLine g v.1 == l).length
    if recDstKind g.record == 1 || k < g.gather.length || decide (g.count ≤ g.n + k) then k
    else
      match s.elemRel g (g.n + k) with
      | .val v => if s.dstLine g v.2 = l then 0 else k
      | .stall _ _ => 0
      | .fault _ _ _ _ => k

/-- The translation of a host page that a word of a burst has asked for, and the wait for it, in the state before the burst
(R36). -/
def State.keepAsk (s t : State) (e : Nat) : State :=
  { s with dev := { s.dev with transReqs := t.dev.transReqs, sent := t.dev.sent } }.updEngine e fun g =>
    { g with hostWait := (t.engine e).hostWait }

/-- The state before a burst after the translation of its first word: the words of a burst lie in one line, so this is the walk of
the burst (R30, R61). -/
def State.burstWalk (s : State) (e : Nat) (g : Engine) (rel : Int) : State :=
  if recDstKind g.record = 2 then
    match s.engXlat g.ctx (viaRuns e g.record true) (g.dstBase + BitVec.ofInt 64 rel) true with
    | .error er => er.1
    | .ok r => r.1
  else s

/-- Place the words of a burst: all of them, or, where one cannot be placed, none but the walk of their page (R30); the translation
that one toward the host waits for is asked for (R36, R61). -/
def State.putWords (s : State) (e : Nat) (g : Engine) : List (Int × Nat) → Got State
  | [] => .val s
  | w :: r =>
    (s.writeDst e g w.1 w.2).bind fun s1 =>
      match s1.putWords e g r with
      | .val s2 => .val s2
      | .stall t why => .stall (if recDstKind g.record = 3 then s.keepAsk t e else s.burstWalk e g w.1) why
      | .fault _ code kind a => .fault (s.burstWalk e g w.1) code kind a

/-- A burst of all 64 bytes of a line clears its poison (R318). -/
def State.cleanLine (s : State) (e : Nat) (g : Engine) (ws : List (Int × Nat)) : State :=
  match ws with
  | [] => s
  | w :: _ =>
    let at_ := fun (r : Int) => g.dstBase + BitVec.ofInt 64 r
    let offs := (ws.flatMap fun v => (List.range (recSize g.record)).map fun i => (at_ v.1).toNat % 64 + i).eraseDups
    if recDstKind g.record ≠ 2 ∨ !s.effects g.ctx ∨ offs.length < 64 then s
    else
      match s.engXlat g.ctx (viaRuns e g.record true) (at_ w.1) true with
      | .ok (_, ⟨_, .mem key, _⟩) => { s with poison := s.poison.filter (· != key / 64) }
      | _ => s

/-- Write the next burst, of k words, indivisibly; the count takes it in (R61, R63). -/
def State.putBurst (s : State) (e k : Nat) : Got State :=
  let g := s.engine e
  let ws := g.gather.take k
  (s.putWords e g ws).bind fun s1 =>
    .val ((s1.cleanLine e g ws).updEngine e fun h =>
      { h with gather := h.gather.drop k, n := h.n + k, wait := none, hostWait := none })

/-- A popped word of a subscription: a whole unit gives a space token (R48, R67). -/
def State.popSub (s : State) (g : Engine) : Engine :=
  if recSrcKind g.record = 4 then
    let unit := match tget? s.pushes (recSrcSel g.record).toNat with | some u => u.unit | none => 1
    if g.popped + 1 = unit then { g with popped := 0, tokens := g.tokens + 1 } else { g with popped := g.popped + 1 }
  else g

/-- Read one source word of a running engine into its gather buffer: the state and the line it was read from. -/
def State.getWord (s : State) (e : Nat) : Got (State × Int) :=
  let g := s.engine e
  let m := g.n + g.held.length + g.gather.length
  (s.elemRel g m).bind fun r =>
    (r.1.readSrc e (r.1.engine e) m r.2).bind fun w =>
      let p := w.s.popSub w.g
      .val (w.s.updEngine e fun h =>
        { h with gather := h.gather ++ [(r.2, w.v)], rbuf := p.rbuf, node := p.node, ended := p.ended, popped := p.popped
                 tokens := p.tokens, wait := none, hostWait := none }, w.line)

/-- Words that an engine has taken from its source. -/
def Engine.taken (g : Engine) : Nat := g.n + g.held.length + g.gather.length

/-- Whether a source is a buffer of the engine, whose words stand in no line. -/
def Engine.buffers (g : Engine) : Bool := recSrcKind g.record == 4 || recSrcKind g.record == 5

/-- The line of device or host memory, or the sector of a tile, that an element of the source falls in (R61). -/
def State.srcLine (s : State) (g : Engine) (rel : Int) : Int :=
  match recSrcKind g.record with
  | 1 => ((g.slot (recSrcSel g.record).toNat).getD {}).start (g.srcBase.toInt + rel) / 32
  | 2 => ((g.srcBase + BitVec.ofInt 64 rel).toNat / 64 : Nat)
  | _ =>
    let p := (((s.launch (s.launchOf g.ctx)).endp? (recSrcSel g.record).toNat false).map fun p => p.addr.toNat).getD 0
    ((p : Int) + g.srcBase.toInt + rel) / 64

/-- Whether the next word may belong to the burst from a line: the address of its element is in it. A buffer and a linked list show
it only as the word is read. -/
def State.sameLine (s : State) (e : Nat) (line : Int) : Got (State × Bool) :=
  let g := s.engine e
  if g.buffers || recLinked g.record then .val (s, true)
  else (s.elemRel g g.taken).bind fun r => .val (r.1, s.srcLine g r.2 == line)

/-- Go on reading while the words stand in one line of the source (R61, R290): where it must wait to know whether the next word does,
or for that word, the burst waits. -/
def State.getMore (s : State) (e : Nat) (line : Int) : Nat → Got State
  | 0 => .val s
  | fuel + 1 =>
    if (s.engine e).count ≤ (s.engine e).taken then .val s
    else
      match s.sameLine e line with
      | .stall s1 why => .stall s1 why
      | .fault _ _ _ _ => .val s
      | .val (s1, false) => .val s1
      | .val (s1, true) =>
        match s1.getWord e with
        | .val v => if v.2 = line then v.1.getMore e line fuel else .val s1
        | .stall s2 why => if (s.engine e).buffers then .val s else .stall s2 why
        | .fault _ _ _ _ => .val s

/-- Read the next burst of the source: every word that stands in its line, or, where one must wait, none (R61, R290); of a receive
buffer, whose words stand in none, 64 at most. -/
def State.getBurst (s : State) (e : Nat) : Got State :=
  let g := s.engine e
  (s.getWord e).bind fun v =>
    match v.1.getMore e v.2 (if g.buffers then 63 else g.count) with
    | .stall s1 why => .stall (s1.updEngine e fun h => { g with runs := h.runs, hostWait := h.hostWait }) why
    | r => r

/-- A running engine waits: one whose same access goes on waiting keeps the time it began (R81). -/
def State.engineWaits (s : State) (e : Nat) (why : WaitWhy) : State :=
  s.updEngine e fun g => { g with wait := match g.wait with
    | some w => if w.why = why then some w else some ⟨why, s.clock⟩
    | none => some ⟨why, s.clock⟩ }

/-- Whether a queue has a free slot in this core cycle: a slot freed in it is free from the next (R116). -/
def Queue.roomPast (q : Queue) (clock held : Nat) : Bool := decide (q.toks.length + (if q.popAt = clock + 1 then 1 else 0) + held < 4)
def Queue.hasRoom (q : Queue) (clock : Nat) : Bool := q.roomPast clock 0

/-- Enter a token in the order of arrival; of two that arrive in the same core cycle, the one that was sent first goes first: R116
gives the order of arrival only (DESIGN CHOICE, log 87). -/
def insTok (l : List Tok) (t : Tok) : List Tok :=
  match l with
  | [] => [t]
  | u :: r => if u.arr ≤ t.arr then u :: insTok r t else t :: u :: r

/-- A token enters a queue. -/
def Queue.push (q : Queue) (t : Tok) : Queue := { q with toks := insTok q.toks t }

/-- The element and side behind a port (R17, R124). -/
def portElem (core q edge k : Nat) : Nat × Dir :=
  let r0 := q / 2 * 32
  let c0 := q % 2 * 32
  match edge with
  | 0 => (elemKey core r0 (c0 + k), .n)
  | 1 => (elemKey core (r0 + k) (c0 + 31), .e)
  | 2 => (elemKey core (r0 + 31) (c0 + k), .s)
  | _ => (elemKey core (r0 + k) c0, .w)

/-- The channel-table entry of a tag in an image (R127). -/
def Image.chan (im : Image) (tag : BitVec 5) : BitVec 16 := im.img.chan.getD tag.toNat 0

/-- The exit queue of a port. -/
def exitKey (core q edge k : Nat) : Nat := ((core * 4 + q) * 4 + edge) * 32 + k

/-- The key of an island's decoder port, A or B, beyond those of the entry ports. -/
def islandPort (core i : Nat) (b : Bool) : Nat := 2 ^ 15 + core * 16 + 2 * i + if b then 1 else 0

/-- Whether a port can carry one more word in a core cycle: it holds no token at its head, and has carried fewer than its limit
(R60, R124). -/
def InPort.free (p : InPort) (cyc limit : Nat) : Bool := p.head.isNone && (p.at_ != cyc + 1 || decide (p.n < limit))

/-- A port that has carried one more word in a core cycle. -/
def InPort.carry (p : InPort) (cyc : Nat) : InPort := { p with at_ := cyc + 1, n := if p.at_ = cyc + 1 then p.n + 1 else 1 }

/-- A port's record. -/
def State.inPort (s : State) (key : Nat) : InPort := tgetD s.inPorts key {}

/-- A port carries a word (R60). -/
def State.carryWord (s : State) (key cyc : Nat) : State := { s with inPorts := tset s.inPorts key ((s.inPort key).carry cyc) }

/-- The image whose entry ports in a quadrant take words: proved, not killed, its ports open (R139, R141, R262). -/
def State.openImage (s : State) (core q : Nat) : Option Image :=
  match s.imageAt core q with
  | none => none
  | some (_, im) => if !im.proved || im.killed || !im.portsOpen then none else some im

/-- Whether a tag has a channel-table entry that is valid at an entry port, which one of NQ4 is not (R124, R165). -/
def Image.entryTag (im : Image) (tag : BitVec 5) : Bool := (im.chan tag).getLsbD 15 && (im.chan tag).extractLsb' 4 5 != 10

/-- Offer a token to an entry port: taken when the port takes words and is free, the tag has an entry valid there, and the queue
has room; otherwise it waits in its held slot (R60, R66, R124, R139, R141, R165, R262). -/
def State.offerPort (s : State) (core q edge k : Nat) (t : Tok) : Option State :=
  match s.openImage core q with
  | none => none
  | some im =>
    let key := exitKey core q edge k
    let pe := portElem core q edge k
    let e := s.elem pe.1
    if im.entryTag t.tag && (s.inPort key).free (s.cyc core) 1 && (e.queue pe.2).hasRoom (s.cyc core) then
      some ((s.setElem pe.1 (e.setQueue pe.2 ((e.queue pe.2).push { t with arr := s.cyc core }))).carryWord key (s.cyc core))
    else none

/-- Whether an entry port holds at its head a token that it does not take: it takes words, holds none yet, and the tag has no valid
entry (R124). -/
def State.stopsAt (s : State) (core q edge k : Nat) (tag : BitVec 5) : Bool :=
  match s.openImage core q with
  | none => false
  | some im => !im.entryTag tag && (s.inPort (exitKey core q edge k)).free (s.cyc core) 1

/-- An entry port that holds a token at its head (R124). -/
def State.holdAtPort (s : State) (core q edge k : Nat) (t : Tok) : State :=
  let key := exitKey core q edge k
  if s.stopsAt core q edge k t.tag then
    { s with inPorts := tset s.inPorts key { (s.inPort key).carry (s.cyc core) with head := some { t with arr := s.cyc core } } }
  else s

/-- Data words in a B decoder: the engine's 32 slots do not count a scale token (R66, R151). -/
def dataWords (l : List BWord) : Nat := (l.filter fun b => match b with | .data _ => true | _ => false).length

/-- Offer a word to an island's decoder (R66, R146); an island port takes 128 B, 32 words, a core cycle (R60). From GKILL to the next
proof wave words for an island port wait in their held slots as those for an entry port do: R139 names entry ports only, R141 has
engine words wait before a wave (DEDUCED, log 64). -/
def State.offerIsland (s : State) (core i : Nat) (b : Bool) (t : Tok) : Option State :=
  match s.imageAt core (i / 2) with
  | none => none
  | some (_, im) =>
    if !im.proved || im.killed then none
    else
      let isl := tgetD s.islands (core * 8 + i) {}
      let key := islandPort core i b
      if b then
        if dataWords isl.bufB < 32 && (s.inPort key).free (s.cyc core) 32 then
          some (({ s with islands := tset s.islands (core * 8 + i) { isl with bufB := isl.bufB ++ [BWord.data t] } } : State).carryWord key (s.cyc core))
        else none
      else if isl.bufA.length < 32 && (s.inPort key).free (s.cyc core) 32 then
        some (({ s with islands := tset s.islands (core * 8 + i) { isl with bufA := isl.bufA ++ [t] } } : State).carryWord key (s.cyc core))
      else none

/-- Whether a GSEED of the core waits at a port since before a time (R261). -/
def State.seedBefore (s : State) (core port since : Nat) : Bool :=
  s.ctxs.any fun e => coreOf e.1 == core && (match e.2.wait with | some ⟨.seed p, t⟩ => p == port && decide (t < since) | _ => false)

/-- Whether a word that came to a port by a time waits in the held slot of an engine (R261). -/
def State.heldBefore (s : State) (core port since : Nat) : Bool :=
  s.engines.any fun e => e.1 / 16 == core && e.2.st == .running && recDstKind e.2.record == 5
    && (match portOf (s.ctx e.2.ctx).quads (recDstSel e.2.record), e.2.held with
      | some (q, ed, k), t :: _ => exitKey core q ed k == port && decide (t.arr ≤ since)
      | _, _ => false)

/-- Whether a word that came to an engine's port before a time waits in the held slot of another engine: words enter a port in
the order in which they came to it, those of one cycle in the order of their engines (R60, R261; DESIGN CHOICE, log 64). -/
def State.heldEarlier (s : State) (e port since : Nat) : Bool :=
  s.engines.any fun x => x.1 != e && x.1 / 16 == e / 16 && x.2.st == .running && recDstKind x.2.record == 5
    && (match portOf (s.ctx x.2.ctx).quads (recDstSel x.2.record), x.2.held with
      | some (q, ed, k), t :: _ => exitKey (e / 16) q ed k == port && decide (t.arr < since)
      | _, _ => false)

/-- Whether a word of an engine is not yet the next at its port: a seed or another engine's word came before it (R60, R261). -/
def State.notNext (s : State) (e port arr : Nat) : Bool := s.seedBefore (e / 16) port arr || s.heldEarlier e port arr

/-- Offer the first held word of an engine to its port or island: taken words count (R63, R66); one that the port holds at its head
does not (R124). -/
def State.offerHeld (s : State) (e : Nat) : Nat → State
  | 0 => s
  | fuel + 1 =>
    let g := s.engine e
    let quads := (s.ctx g.ctx).quads
    match g.held with
    | [] => s
    | t :: rest =>
      let r := match recDstKind g.record with
        | 5 => match portOf quads (recDstSel g.record) with
          | some (q, ed, k) => if s.notNext e (exitKey (e / 16) q ed k) t.arr then none else s.offerPort (e / 16) q ed k t
          | none => none
        | _ => match islandOf quads (recDstSel g.record) with
          | some i => s.offerIsland (e / 16) i ((recDstSel g.record).getLsbD 3) t
          | none => none
      match r with
      | none =>
        match (if recDstKind g.record = 5 then portOf quads (recDstSel g.record) else none) with
        | some (q, ed, k) => if s.notNext e (exitKey (e / 16) q ed k) t.arr then s else s.holdAtPort (e / 16) q ed k t
        | none => s
      | some s1 => (s1.setEngine e { g with held := rest, n := g.n + 1 }).offerHeld e fuel

/-- The head token of a queue in a core cycle: its first, once it has arrived (R116). -/
def Queue.head (q : Queue) (clock : Nat) : Option Tok :=
  match q.toks with
  | [] => none
  | t :: _ => if t.arr ≤ clock then some t else none

/-- Take the head of a queue. -/
def Queue.pop (q : Queue) (clock : Nat) : Queue := { toks := q.toks.tail, popAt := clock + 1 }

/-- Take one token of the exit port into the receive buffer (R64). -/
def State.takeExit (s : State) (e : Nat) : State :=
  let g := s.engine e
  match portOf (s.ctx g.ctx).quads (recSrcSel g.record) with
  | none => s
  | some (q, ed, k) =>
    let key := exitKey (e / 16) q ed k
    let qu := tgetD s.exits key {}
    match qu.head (s.cyc (e / 16)) with
    | none => s
    | some t =>
      if t.tag = recTag g.record ∧ g.buffered < 64 ∧ qu.popAt ≠ s.cyc (e / 16) + 1 then
        { s with exits := tset s.exits key (qu.pop (s.cyc (e / 16))) }.setEngine e { g with rbuf := g.rbuf ++ [t.data.zeroExtend 64] }
      else s

/-- The slots of a consumer that a stream has: 4 of an entry port, 32 of an island port (R66). -/
def Engine.slots (g : Engine) : Nat := if recDstKind g.record = 6 then 32 else 4

/-- The words of an engine in its consumer's buffer: each takes up a slot until the consumer pops it (R66). -/
def State.inBuffer (s : State) (e : Nat) : Nat :=
  let g := s.engine e
  let mine := fun (t : Tok) => t.eng == some (e % 4)
  let quads := (s.ctx g.ctx).quads
  match recDstKind g.record with
  | 5 =>
    match portOf quads (recDstSel g.record) with
    | some (q, ed, k) => let pe := portElem (e / 16) q ed k; ((((s.elem pe.1).queue pe.2).toks).filter mine).length
    | none => 0
  | 6 =>
    match islandOf quads (recDstSel g.record) with
    | some i =>
      let isl := tgetD s.islands (e / 16 * 8 + i) {}
      if (recDstSel g.record).getLsbD 3 then (isl.bufB.filter fun b => match b with | .data t => mine t | _ => false).length
      else (isl.bufA.filter mine).length
    | none => 0
  | _ => 0

/-- Whether an engine has a slot for one more word: those it holds and those in the consumer's buffer take up theirs. An engine
with none waits (R66). -/
def State.slotFree (s : State) (e : Nat) : Bool := decide ((s.engine e).held.length + s.inBuffer e < (s.engine e).slots)

/-- Whether an engine sends to a port or an island. -/
def Engine.sends (g : Engine) : Bool := recDstKind g.record == 5 || recDstKind g.record == 6

/-- Move the words of a running engine, whole bursts at a time, until it stalls, faults or reaches its count, reading at
most `words` (R58 to R64): a burst that is whole is written before more is read, and a fault stops the engine at the last
whole burst (R68). An element of 1 or 2 bytes goes to an island as one word, its upper bits zero, as it does to a port: R60 has a word
to an island hold 4 bytes of packed values and does not say what smaller elements become (DESIGN CHOICE, log 64). -/
def State.pump (s : State) (e : Nat) (words : Nat) : Nat → State
  | 0 => s
  | fuel + 1 =>
    let g := s.engine e
    if g.st ≠ .running then s
    else if g.sends && !g.gather.isEmpty then
      if !s.slotFree e then s
      else
        (s.updEngine e fun h =>
          { h with held := h.held ++ (h.gather.take 1).map fun w => ⟨BitVec.ofNat 32 w.2, recTag h.record, s.clock, some (e % 4)⟩
                   gather := h.gather.drop 1 }).pump e words fuel
    else if !g.sends && 0 < s.burstLen g then
      match s.putBurst e (s.burstLen g) with
      | .val s1 => s1.pump e words fuel
      | .stall s1 why => s1.engineWaits e why
      | .fault s1 c k a => s1.faultEngine e c k a
    else if g.count ≤ g.taken ∨ words = 0 then s
    else
      match s.getBurst e with
      | .val s1 => s1.pump e (words - ((s1.engine e).gather.length - g.gather.length)) fuel
      | .stall s1 why => s1.engineWaits e why
      | .fault s1 c k a => if g.held.isEmpty then s1.faultEngine e c k a else s

/-- Elements that an engine moves in one event: one token a core cycle on a port, 128 B otherwise (R60, R61). -/
def Engine.budget (g : Engine) : Nat :=
  if recSrcKind g.record = 5 ∨ recDstKind g.record = 5 then 1
  else if recDstKind g.record = 6 then 32 else 128 / recSize g.record

/-- A core cycle of a running engine (R58, R61, R64, R66). -/
def execStreamBurst (core eng : Nat) (s : State) : Host.Outcome State Fault Refusal :=
  let e := core * 16 + eng
  let g := s.engine e
  if g.st ≠ .running then .next s
  else
    let s1 := if recSrcKind g.record = 5 then s.takeExit e else s
    let s2 := s1.pump e g.budget (4 * g.budget + 4)
    .next (if g.sends then s2.offerHeld e g.budget else s2)

/-- An engine meets a fault at its next element: it stops at the last whole burst (R68). -/
def execStreamFault (core eng : Nat) (s : State) : Host.Outcome State Fault Refusal :=
  let e := core * 16 + eng
  let g := s.engine e
  if g.st ≠ .running ∨ g.count ≤ g.taken ∨ 0 < s.burstLen g ∨ !g.held.isEmpty then .next s
  else
    match s.getBurst e with
    | .fault s1 c k a => .next (s1.faultEngine e c k a)
    | _ => .next s

/-- A running program has delivered its count: a destination tile becomes READY, the engine idle (R63). -/
def execStreamComplete (core eng : Nat) (s : State) : Host.Outcome State Fault Refusal :=
  let e := core * 16 + eng
  let g := s.engine e
  if g.st ≠ .running ∨ g.n < g.count then .next s
  else
    let s1 := match g.dstTile with
      | some h => s.setTileSt (pageKey (s.launchOf g.ctx) (atomPage h.atom)) .ready
      | none => s
    .next ((s1.leavePush e).setEngine e { g.ended_ .idle with rbuf := if recSrcKind g.record = 5 then g.rbuf else [] })

/-! ### Pushes (R46 to R49) -/

/-- A push engine as the reader of its stream program (R46, R58). -/
def Push.reader (u : Push) : Engine :=
  { ctx := u.ctx, record := u.record, srcBase := u.base, idxBase := u.idxBase, ext := recExt u.record, str := recStr u.record
    count := u.count, node := u.node, ended := u.ended }

/-- Read the words n to n + m of a push, in traversal order (R46, R58). -/
def State.pushWords (s : State) (g : Engine) (n : Nat) : Nat → Got (State × Engine × List Word)
  | 0 => .val (s, g, [])
  | m + 1 =>
    (s.elemRel g n).bind fun r => (r.1.readSrc 0 g n r.2).bind fun w =>
      (w.s.pushWords w.g (n + 1) m).bind fun x => .val (x.1, x.2.1, BitVec.ofNat 64 w.v :: x.2.2)

/-- A subscription receives words of its push; after a resume it drops those that it had before (R48, R49). -/
def Engine.receive (g : Engine) (ws : List Word) (unit : Nat) : Engine :=
  let n := Nat.min g.skip ws.length
  let whole := decide (g.popped + n = unit)
  { g with
    rbuf := g.rbuf ++ ws.drop n, skip := g.skip - n
    popped := if whole then 0 else g.popped + n, tokens := if whole then g.tokens + 1 else g.tokens }

/-- A push engine sends one unit to every subscription, for one permit (R47, R48). A fault of its source is a fault
of its subscriptions and ends the push (R49). -/
def execPushUnit (push : Nat) (s : State) : Host.Outcome State Fault Refusal :=
  match tget? s.pushes push with
  | none => .next s
  | some u =>
    if u.permits = 0 ∨ u.count ≤ u.n then .next s
    else
      let m := min u.unit (u.count - u.n)
      match s.pushWords u.reader u.n m with
      | .stall s1 _ => .next s1
      | .fault s1 c k a => .next (u.subs.foldl (fun s x => s.faultEngine x.1 c k a) { s1 with pushes := tdel s1.pushes push })
      | .val (s1, g, ws) =>
        let s2 := u.subs.foldl (fun s x => s.updEngine x.1 fun h => h.receive ws u.unit) s1
        .next { s2 with pushes := tset s2.pushes push { u with n := u.n + m, permits := u.permits - 1, node := g.node, ended := g.ended } }

/-- A subscription returns a space token; the joins forward one only when each child branch has given one, and a
token that reaches the push engine is a permit (R48). -/
def execSpaceToken (core eng : Nat) (s : State) : Host.Outcome State Fault Refusal :=
  let e := core * 16 + eng
  let g := s.engine e
  let p := (recSrcSel g.record).toNat
  match (if g.tokens = 0 ∨ recSrcKind g.record ≠ 4 then none else tget? s.pushes p) with
  | none => .next s
  | some u =>
    let u1 : Push := { u with subs := u.subs.map fun x => if x.1 = e then (x.1, x.2 + 1) else x }
    .next ({ s with pushes := tset s.pushes p u1.join }.setEngine e { g with tokens := g.tokens - 1 })

/-! ### ATS and PRI (R36, R37) -/

/-- Page request groups outstanding of a partition (R36). -/
def State.prgs (s : State) (part : Nat) : Nat := (s.dev.pageReqs.filter fun q => q.part == part).length

/-- The oldest page request that waits in a partition is sent, if one of its 32 groups is free (R36). -/
def State.sendPageReq (s : State) (part : Nat) : State :=
  match (if s.prgs part < 32 then s.dev.pageWait.find? fun q => q.part == part else none) with
  | none => s
  | some q =>
    { s with dev := { s.dev with pageWait := s.dev.pageWait.erase q, pageReqs := s.dev.pageReqs ++ [{ q with since := s.clock }] } }.send
      (.pageRequest q.pasid q.page q.write)

/-- A Translation Completion (R36): access is cached, in place of the oldest entry of a full cache (DESIGN CHOICE: the spec
names none; log 12); without the access asked for, a Page Request is sent, at most 32 groups outstanding a partition. Where both
a read and a write of the page have asked, the completion answers the older (DESIGN CHOICE, log 71). -/
def execTranslationCompletion (pasid page : Nat) (rd wr : Bool) (s : State) : Host.Outcome State Fault Refusal :=
  match s.dev.transReqs.find? fun q => q.names pasid page with
  | none => .next s
  | some q =>
    let s1 := { s with dev := { s.dev with transReqs := s.dev.transReqs.erase q } }
    if if q.write then wr else rd then
      let rest := s1.dev.atc.filter fun e => !(e.pasid == pasid && e.page == page)
      .next { s1 with dev := { s1.dev with atc := (⟨pasid, page, rd, wr⟩ :: rest).take 4096 } }
    else
      .next ({ s1 with dev := { s1.dev with pageWait := s1.dev.pageWait ++ [q] } }.sendPageReq q.part)

/-- The endpoint number through which a running engine waits for an access to a host page, if it does. -/
def State.hostUse (s : State) (g : Engine) (pasid page : Nat) (write : Bool) : Option Nat :=
  match g.hostWait with
  | some (n, p, w) =>
    if g.st = .running ∧ g.wait.isSome ∧ p = page ∧ w = write ∧ (s.launch (s.launchOf g.ctx)).pasid = pasid then some n else none
  | none => none

/-- Fault every engine that waits for an access to a host page: DVA_FAULT kind 6 (R36). -/
def State.failHost (s : State) (pasid page : Nat) (write : Bool) : State :=
  s.engines.foldl (fun s e =>
    match s.hostUse e.2 pasid page write with
    | some n => s.faultEngine e.1 0x04 6 (BitVec.ofNat 64 n)
    | none => s) s

/-- A Page Group Response (R36): on success the translation is asked for again; on failure the streams fault. -/
def execPageGroupResponse (pasid page : Nat) (ok : Bool) (s : State) : Host.Outcome State Fault Refusal :=
  match s.dev.pageReqs.find? fun q => q.names pasid page with
  | none => .next s
  | some q =>
    let s1 := { s with dev := { s.dev with pageReqs := s.dev.pageReqs.erase q } }.sendPageReq q.part
    if ok then
      .next ({ s1 with dev := { s1.dev with transReqs := s1.dev.transReqs ++ [{ q with since := s.clock }] } }.send
        (.transRequest pasid page q.write))
    else .next (s1.failHost pasid page q.write)

/-- A Page Request that no engine waits for any more is given up: its group is free (R36). -/
def State.dropPageReq (s : State) (q : HostReq) : State :=
  if s.engines.any fun e => (s.hostUse e.2 q.pasid q.page q.write).isSome then s
  else { s with dev := { s.dev with pageReqs := s.dev.pageReqs.erase q } }.sendPageReq q.part

/-- No Page Group Response within the launch's fault limit: the stream faults (R36). The limit counts from the sending of the
Page Request, or from when the engine came to wait where another engine had it sent before: one that still waits for a free group has
had none sent (DEDUCED, log 71). The request is given up with the last engine that waits for it, so that a later miss asks anew. -/
def execPriTimeout (core eng : Nat) (s : State) : Host.Outcome State Fault Refusal :=
  let e := core * 16 + eng
  let g := s.engine e
  let limit := 2700 * (s.launch (s.launchOf g.ctx)).faultLimit
  let late := fun (since : Nat) => decide (since + limit ≤ s.clock)
  match s.dev.pageReqs.find? fun q => (s.hostUse g q.pasid q.page q.write).isSome && late q.since
      && (match g.wait with | some w => late w.since | none => false) with
  | none => .next s
  | some q =>
    match s.hostUse g q.pasid q.page q.write with
    | some n => .next ((s.faultEngine e 0x04 6 (BitVec.ofNat 64 n)).dropPageReq q)
    | none => .next s

/-- An ATS Invalidate Request: the matching entries are dropped; bursts under them are complete between steps, so the
completion is sent at once (R37). -/
def execAtsInvalidateRequest (pasid page : Nat) (s : State) : Host.Outcome State Fault Refusal :=
  .next ({ s with dev := { s.dev with atc := s.dev.atc.filter fun e => !(e.pasid == pasid && e.page == page) } }.send
    (.invalComplete pasid page))

end Sys2Proof.Machine
end

