-- ==== Sys2Proof/Machine/Fire.lean ====
section
/-! DEFINITION. One core cycle of an element: where its outputs lead (R114, R124), when it can fire and what it then
does (R116, R133), the gates of cycles (R135), the stall counters (R117), when a region is idle or quiescent (R139,
R262). -/

namespace Sys2Proof.Machine
open Sys2Proof

/-! ### Where an element lies -/

/-- The grid row and column of a region's origin. -/
def originRow (quads : List Nat) : Nat := 32 * quads.foldl (fun m q => Nat.min m (q / 2)) 1
def originCol (quads : List Nat) : Nat := 32 * quads.foldl (fun m q => Nat.min m (q % 2)) 1

/-- An element of a loaded image. -/
structure Site where
  k : Nat
  ik : Nat
  im : Image
  e : Elem
  deriving DecidableEq, Repr

/-- The element's site when its quadrant holds an image. -/
def State.siteOf (s : State) (k : Nat) : Option Site :=
  (s.imageAt (k / 4096) (elemQuad k)).map fun i => ⟨k, i.1, i.2, s.elem k⟩

/-- Whether the element is enabled: the latest proof wave has completed, no GKILL since, not halted (R139, R141, R288). -/
def Site.enabled (t : Site) : Bool := t.im.proved && !t.im.killed && !t.e.halted

/-- The element's place relative to its region. -/
def Site.row (t : Site) : Nat := t.k % 4096 / 64 - originRow t.im.quads
def Site.col (t : Site) : Nat := t.k % 64 - originCol t.im.quads

/-- Where a drive leads: a neighbour's queue or an exit queue (R113, R124). -/
inductive Out where
  | elem (k : Nat) (side : Dir)
  | exit (key : Nat)
  deriving DecidableEq, Repr

def Site.out (t : Site) (d : Dir) : Out :=
  let core := t.k / 4096
  match nbOf t.im.img.rows t.im.img.cols (t.row * 64 + t.col) d.num with
  | some m => .elem (elemKey core (originRow t.im.quads + m / 64) (originCol t.im.quads + m % 64)) d.opp
  | none => .exit (exitKey core (elemQuad t.k) d.num (if d = .n ∨ d = .s then t.k % 32 else t.k % 4096 / 64 % 32))

/-- Whether the queue a drive feeds has a free slot beside some that firings have reserved whose outputs are held (R116, R278). -/
def State.roomPast (s : State) (o : Out) (held : Nat) : Bool :=
  match o with
  | .elem k d => ((s.elem k).queue d).roomPast (s.cycE k) held
  | .exit key => (tgetD s.exits key {}).roomPast (s.cyc (key / 512)) held

/-- Whether the queue a drive feeds has a free slot (R116). -/
def State.room (s : State) (o : Out) : Bool := s.roomPast o 0

/-- The slots toward a side that firings of an element have reserved whose accesses are not performed yet (R116, R278). -/
def Elem.reserved (e : Elem) (d : Dir) : Nat := ((e.mem.flatMap (·.outs)).filter (·.1 == d)).length

/-- Whether an element's firing finds a free slot toward a side (R116). -/
def State.sideFree (s : State) (t : Site) (d : Dir) : Bool := s.roomPast (t.out d) (t.e.reserved d)

/-- A token enters the queue that a drive feeds. -/
def State.sendTok (s : State) (o : Out) (t : Tok) : State :=
  match o with
  | .elem k d => s.setElem k ((s.elem k).setQueue d (((s.elem k).queue d).push t))
  | .exit key => { s with exits := tset s.exits key ((tgetD s.exits key {}).push t) }

/-! ### Gates (R135) -/

/-- How a firing changes a gate's count: +1 for a token it places without dequeuing one, −1 for one it dequeues
without placing one. -/
def Gate.delta (g : Gate) (deq outs : List Dir) : Int :=
  match deq.contains g.inSide, outs.contains g.outSide with
  | false, true => 1
  | true, false => -1
  | _, _ => 0

/-- Whether a gate of the element stops a firing for space. -/
def Site.gated (t : Site) (deq outs : List Dir) : Bool :=
  t.im.gates.any fun g => g.row == t.row && g.col == t.col && g.delta deq outs == 1 && decide ((g.bound : Int) ≤ g.count)

/-- The gates after a firing of the element. -/
def Site.countGates (t : Site) (deq outs : List Dir) : List Gate :=
  t.im.gates.map fun g => if g.row == t.row && g.col == t.col then { g with count := g.count + g.delta deq outs } else g

/-! ### Sources (R119, R121, R267) -/

/-- The queue a source or pass code names. -/
def srcDir (x : BitVec 3) : Option Dir := if x.toNat < 4 then some (dirOf x.toNat) else none

/-- The head token on a side in a core cycle. -/
def Elem.head (e : Elem) (clock : Nat) (d : Dir) : Option Tok := (e.queue d).head clock

/-- The value of a source; `imm` is what source code 4 reads. -/
def Elem.src (e : Elem) (clock : Nat) (imm : W32) (x : BitVec 3) : W32 :=
  match x.toNat with
  | 4 => imm
  | 5 => e.lreg
  | 6 => e.prev
  | 7 => 0
  | n => match e.head clock (dirOf n) with | some t => t.data | none => 0

/-- The tag of a source: 0 for one that is no queue (R121). -/
def Elem.srcTag (e : Elem) (clock : Nat) (x : BitVec 3) : Option (BitVec 5) :=
  match srcDir x with
  | some d => (e.head clock d).map (·.tag)
  | none => some 0

/-- Whether an op reads source code 4 as BF16 widened to FP32 (R267). -/
def isFloatOp (code : Nat) : Bool := decide (0x13 ≤ code) && decide (code ≤ 0x1A)

/-- What source code 4 reads (R267). -/
def immOf (code : Nat) (imm : BitVec 16) : W32 := if isFloatOp code then imm ++ (0 : BitVec 16) else imm.signExtend 32

/-- The truth of P: nonzero; a P of none is false (R116, R267). -/
def Elem.truth (e : Elem) (clock code : Nat) (w : ElWord) : Bool := e.src clock (immOf code w.imm) w.p != 0

/-! ### The firing rule of context words (R116) -/

/-- The sides of a drive list, with the drive codes. -/
def sidesOf (w : ElWord) : List (Dir × BitVec 3) := [(.n, w.dN), (.e, w.dE), (.s, w.dS), (.w, w.dW)]

/-- The queues that must hold a head, and that a firing dequeues: those named by A, B, P and the pass drives; for e.merge
P's queue and the one that P selects, and no other: a pass drive of an e.merge that names a further queue sends its
head, where it has one, and leaves it (R116, R281; log 33). -/
def Elem.needed (e : Elem) (clock code : Nat) (w : ElWord) : List Dir :=
  let passes := (sidesOf w).filterMap fun d => if isPass d.2 then some (dirOf (d.2.toNat - 2)) else none
  let srcs :=
    if code = 0x26 then
      match srcDir w.p with
      | some p => if (e.head clock p).isNone then [p] else [p] ++ (srcDir (if e.truth clock code w then w.a else w.b)).toList
      | none => (srcDir (if e.truth clock code w then w.a else w.b)).toList
    else [w.a, w.b, w.p].filterMap srcDir
  (if code = 0x26 then srcs else srcs ++ passes).eraseDups

/-- The sides that a firing drives. -/
def Elem.driven (e : Elem) (clock code : Nat) (w : ElWord) : List (Dir × BitVec 3) :=
  (sidesOf w).filter fun d =>
    (decide (1 ≤ d.2.toNat) && decide (d.2.toNat ≤ 5)) || (d.2 == 6 && e.truth clock code w) || (d.2 == 7 && !e.truth clock code w)

/-- Whether an e.tagchk meets a tag other than the checked one (R282). -/
def Elem.mismatch (e : Elem) (clock code : Nat) (w : ElWord) : Bool :=
  code == 0x27 && e.srcTag clock w.a != some (w.imm.extractLsb' 0 5)

/-- Whether an element can fire, and what it lacks. -/
inductive Ready where
  | operand
  | space
  | go (deq : List Dir) (outs : List (Dir × BitVec 3))
  deriving DecidableEq, Repr

/-- Whether a word reads the local or the previous-result register while the result of an access that is not performed yet is to be
written there: it finds no operand until then, so that a walk by e.ldl follows one node per memory round trip (R277, R278; DESIGN
CHOICE, R116 names queues only; log 85). -/
def Elem.awaits (e : Elem) (w : ElWord) : Bool :=
  let names := fun (x : BitVec 3) => w.a == x || w.b == x || w.p == x
  e.mem.any fun m => (m.setL && names 5) || (m.setP && names 6)

def State.ready (s : State) (t : Site) (code : Nat) (w : ElWord) : Ready :=
  let deq := t.e.needed (s.cycE t.k) code w
  if t.e.awaits w then .operand
  else if deq.any fun d => (t.e.head (s.cycE t.k) d).isNone then .operand
  else if t.e.mismatch (s.cycE t.k) code w then .go deq []
  else
    let outs := t.e.driven (s.cycE t.k) code w
    if t.gated deq (outs.map (·.1)) || outs.any fun d => !s.sideFree t d.1 then .space else .go deq outs

/-- The tag of a result (R121). A merge whose A or B queue is empty has no token to take the tag of: that tag is a
free value, a data tag: only ordering ops make tag 31 (R113, R268; log 33). -/
def State.resultTag (s : State) (now : Nat) (e : Elem) (w : ElWord) : BitVec 5 :=
  let tagOf := fun x => (e.srcTag now x).getD (BitVec.ofNat 5 ((Config.freeWord s.freeCtr).toNat % 31))
  match w.tagMode.toNat with
  | 0 => tagOf w.a
  | 1 => tagOf w.b
  | 2 => w.tag
  | _ => BitVec.ofNat 5 (((tagOf w.a).toNat + 1) % 31)

/-- The local register after a firing (R122). A firing that has no result has none to write (e.tagchk that drops). -/
def lregAfter (e : Elem) (w : ElWord) (res : Option W32) (a : W32) : W32 :=
  match w.lact.toNat with | 0 => e.lreg | 1 => res.getD e.lreg | 2 => a | _ => 0

/-- Take the heads of some queues. -/
def Elem.deq (e : Elem) (clock : Nat) (ds : List Dir) : Elem := ds.foldl (fun e d => e.setQueue d ((e.queue d).pop clock)) e

/-- Mark that an element has acted in this core cycle. -/
def Elem.act (e : Elem) (clock : Nat) : Elem := { e with acted := clock + 1 }

/-- A core cycle that counts as a stall (R116, R117). -/
def State.stallAt (s : State) (k : Nat) (space : Bool) : State :=
  let e := s.elem k
  s.setElem k (if space then { e.act (s.cycE k) with stallSp := e.stallSp + 1 }
    else { e.act (s.cycE k) with stallOp := e.stallOp + 1 })

/-- Set the record of a site's image, with flags raised (R117). -/
def State.setSiteImage (s : State) (t : Site) (gates : List Gate) (fl : FFlags) : State :=
  { s with images := tset s.images t.ik { t.im with gates := gates, flags := stick t.im.flags fl } }

/-- A firing (R116): dequeue, registers, gates and flags, and the tokens sent: a passed head one core cycle later, the
result after the op's latency. -/
def State.fired (s : State) (t : Site) (w : ElWord) (deq : List Dir) (outs : List (Dir × BitVec 3)) (lat : Nat) (res : Option W32)
    (fl : FFlags) (aval : W32) : State :=
  let now := s.cycE t.k
  let tag := s.resultTag now t.e w
  let e1 := (t.e.deq now deq).act now
  let e2 := { e1.overtaken (w.lact != 0 && (w.lact != 1 || res.isSome)) res.isSome with
    lreg := lregAfter t.e w res aval, prev := res.getD t.e.prev }
  let s1 := (s.setElem t.k e2).setSiteImage t (t.countGates deq (outs.map (·.1))) fl
  let s2 := { s1 with freeCtr := s1.freeCtr + 1 }
  outs.foldl (fun s d =>
    if isPass d.2 then
      match t.e.head now (dirOf (d.2.toNat - 2)) with
      | some h => s.sendTok (t.out d.1) { h with arr := now + 1, eng := none }
      | none => s
    else
      match res with
      | some r => s.sendTok (t.out d.1) ⟨r, tag, now + lat, none⟩
      | none => s) s2

/-- The operands of an element op. -/
structure ElIn where
  a : W32
  b : W32
  p : W32
  pt : Bool
  l : W32
  /-- The tag of A's token. -/
  tag : BitVec 5
  deriving DecidableEq, Repr

def State.elIn (s : State) (t : Site) (code : Nat) (w : ElWord) : ElIn :=
  let imm := immOf code w.imm
  let now := s.cycE t.k
  ⟨t.e.src now imm w.a, t.e.src now imm w.b, t.e.src now imm w.p, t.e.truth now code w, t.e.lreg,
   (t.e.srcTag now w.a).getD 0⟩

/-- The frame of a context word's core cycle in the element that the focus names (R116). -/
def State.element (s : State) (code : Nat) (w : ElWord) (f : Site → List Dir → List (Dir × BitVec 3) → State) :
    Host.Outcome State Fault Refusal :=
  match s.focus with
  | .elem k =>
    match s.siteOf k with
    | none => .next s
    | some t =>
      if !t.enabled || t.e.acted == s.cycE k + 1 then .next s
      else
        match s.ready t code w with
        | .operand => .next (s.stallAt k false)
        | .space => .next (s.stallAt k true)
        | .go deq outs => .next (f t deq outs)
  | _ => .fault .noElement

/-- An element op that computes one result from its operands (R270 to R275). -/
def State.elOp (s : State) (code : Nat) (w : ElWord) (f : Site → ElIn → W32 × FFlags) : Host.Outcome State Fault Refusal :=
  s.element code w fun t deq outs =>
    let x := s.elIn t code w
    let r := f t x
    s.fired t w deq outs (elLat code) (some r.1) r.2 x.a

/-! ### Trigger elements (R133, R285) -/

/-- Whether the conditions of a trigger instruction on predicates, heads and the tag hold (R133). -/
def Elem.trigHolds (e : Elem) (clock : Nat) (t : TrWord) : Bool :=
  (e.preds &&& t.mask) == t.value && (maskQueues t.head).all (fun q => (e.head clock (dirOf q)).isSome)
    && (!t.tagEn || ((e.head clock (dirOf t.tagQ.toNat)).map (·.tag)) == some t.tag)

/-- The island that a trigger element attaches to (R124). -/
def islandAt (k : Nat) : Option Nat :=
  let row := k % 4096 / 64
  let col := k % 64
  if row = 0 then some (col / 16) else if row = 63 then some (4 + col / 16) else none

/-- Whether an island's issue queue has a free entry (R148). -/
def State.issueRoom (s : State) (k : Nat) : Bool :=
  match islandAt k with
  | some i => decide ((tgetD s.islands (k / 4096 * 8 + i) {}).queue.length < 4)
  | none => false

/-- Whether every output that a trigger op drives has a free slot (R133, R285). -/
def State.trigRoom (s : State) (t : Site) (op : Nat) (w : TrWord) : Bool :=
  match op with
  | 0x01 | 0x02 | 0x03 => s.issueRoom t.k
  | 0x05 => s.issueRoom t.k && (match trSide op w with
      | some d => !t.gated ((maskQueues w.deq).map dirOf) [dirOf d] | none => true)
  | 0x04 => match islandAt t.k with | some i => !(tgetD s.islands (t.k / 4096 * 8 + i) {}).scaleHeld | none => false
  | _ =>
    match trSide op w with
    | none => true
    | some d =>
      let deq := (maskQueues w.deq).map dirOf
      !t.gated deq [dirOf d] && s.room (t.out (dirOf d))

/-- The head token that a trigger op reads: of the first queue of the head mask (R285). -/
def Elem.trigHead (e : Elem) (clock : Nat) (w : TrWord) : Tok :=
  match maskQueues w.head with
  | q :: _ => (e.head clock (dirOf q)).getD ⟨0, 0, 0, none⟩
  | [] => ⟨0, 0, 0, none⟩

/-- What a firing of a trigger instruction leaves of its element: the queues of the dequeue mask, then the clear, then
the set (R133, R285). -/
def Elem.trigAfter (e : Elem) (clock : Nat) (w : TrWord) : Elem :=
  let e1 := (e.deq clock ((maskQueues w.deq).map dirOf)).act clock
  let p1 := if w.clrEn then setBit8 e1.preds w.clrIx.toNat false else e1.preds
  { e1 with preds := if w.setEn then setBit8 p1 w.setIx.toNat true else p1 }

/-- The frame of a trigger instruction in the element that the focus names: ready, it acts, then the element's queues
and predicates follow; else the core cycle counts as a stall (R133). -/
def State.trigger (s : State) (op : Nat) (w : TrWord) (f : Site → Tok → State) : Host.Outcome State Fault Refusal :=
  match s.focus with
  | .elem k =>
    match s.siteOf k with
    | none => .next s
    | some t =>
      if !t.enabled || t.e.acted == s.cycE k + 1 then .next s
      else if !t.e.trigHolds (s.cycE k) w then .next (s.stallAt k false)
      else if !s.trigRoom t op w then .next (s.stallAt k true)
      else
        let s1 := f t (t.e.trigHead (s.cycE k) w)
        let outs := match trSide op w with | some d => [dirOf d] | none => []
        match tget? s1.images t.ik with
        | none => .next s1
        | some im =>
          let s2 := s1.setElem k ((s1.elem k).trigAfter (s.cycE k) w)
          let im' := { im with gates := t.countGates ((maskQueues w.deq).map dirOf) outs }
          .next { s2 with images := tset s2.images t.ik im' }
  | _ => .fault .noElement

/-- What a trigger op that changes its own element leaves. -/
def State.trigElem (s : State) (t : Site) (f : Elem → Elem) : State := s.setElem t.k (f (s.elem t.k))

/-- The trigger instruction that an element selects in a core cycle: the lowest ready one (R133). -/
def State.trigPick (s : State) (t : Site) : Option Word :=
  t.e.words.find? fun w =>
    w.getLsbD 63 && t.e.trigHolds (s.cycE t.k) (trFields w) && s.trigRoom t (w.extractLsb' 28 7).toNat (trFields w)

/-- Whether some instruction of a trigger element fails only for space (R133). -/
def State.trigFull (s : State) (t : Site) : Bool :=
  t.e.words.any fun w => w.getLsbD 63 && t.e.trigHolds (s.cycE t.k) (trFields w)

/-- The context word that the counter selects (R115). -/
def State.wordAt (s : State) (t : Site) : Word :=
  t.e.words.getD (((s.cycE t.k : Int) - t.im.counterBase) % (t.im.img.ii : Int)).toNat 0

/-! ### Idle and quiescent regions (R139, R262) -/

/-- Whether an element is able to fire some word that can be selected, as its queues and outputs stand. -/
def State.ableToFire (s : State) (t : Site) : Bool :=
  t.enabled && (if t.e.trig then (s.trigPick t).isSome
    else (t.e.words.take t.im.img.ii).any fun w =>
      w.extractLsb' 57 7 != 0 && (match s.ready t (w.extractLsb' 57 7).toNat (elFields w) with | .go _ _ => true | _ => false))

/-- Whether a queue holds a token still on its way. -/
def Queue.inFlight (q : Queue) (clock : Nat) : Bool := q.toks.any fun t => decide (clock < t.arr)

/-- Whether an element has a firing in flight toward it, or an access that is not performed. -/
def Elem.inFlight (e : Elem) (clock : Nat) : Bool :=
  !e.mem.isEmpty || e.qN.inFlight clock || e.qE.inFlight clock || e.qS.inFlight clock || e.qW.inFlight clock

/-- The exit queues of an image. -/
def State.imageExits (s : State) (ik : Nat) (im : Image) : List (Nat × Queue) :=
  s.exits.filter fun e => e.1 / 512 == ik / 4 && im.quads.contains (e.1 / 128 % 4)

/-- The bank of a task (R147). -/
def hdrBank (h : W32) : Bool := h.getLsbD 26

/-- Whether an island of an image has a task or a drain queued or running. -/
def Island.busy (i : Island) : Bool :=
  i.run.isSome || i.queue.any fun e => match e with | .task _ _ => true | .drain _ _ => true | _ => false

/-- Whether an island has a task under way or queued, or a clear queued: what t.mdrain waits for (R148, R152). -/
def Island.computes (i : Island) : Bool :=
  i.run.isSome || i.queue.any fun e => match e with | .task _ _ => true | .clear _ => true | _ => false

/-- Whether the islands of some quadrants of a core, with an image or without, are interlocked as by t.mdrain: no entry that changes
a bank is left (R152, R153, R260). -/
def State.banksRest (s : State) (core : Nat) (qs : List Nat) : Bool :=
  s.islands.all fun i => !(i.1 / 8 == core && qs.contains (i.1 % 8 / 2)) || !i.2.computes

/-- Whether an island's issue queue holds a t.accrd, a firing in flight whose token has not been sent (R284, R286). -/
def Island.reading (i : Island) : Bool := i.queue.any fun e => match e with | .read .. => true | _ => false

/-- Whether no island of an image has such a firing in flight. -/
def State.noReads (s : State) (ik : Nat) (im : Image) : Bool :=
  s.islands.all fun i => !(i.1 / 8 == ik / 4 && im.quads.contains (i.1 % 8 / 2)) || !i.2.reading

/-- Whether a region has no firing in flight and no element able to fire, in the core cycle that follows too, in which
the slots freed in this one are free (R116, R139, R262). -/
def State.still (s : State) (ik : Nat) (im : Image) : Bool :=
  let next : State := { s with clock := s.clock + 1 }
  ((s.imageElems ik im).all fun e => !e.2.inFlight (s.cyc (ik / 4)) && !next.ableToFire ⟨e.1, ik, im, e.2⟩)
    && s.noReads ik im
    && (s.imageExits ik im).all fun q => !q.2.inFlight (s.cyc (ik / 4))

/-- Whether a region is idle (R262). -/
def State.idle (s : State) (ik : Nat) (im : Image) : Bool :=
  s.still ik im
    && ((s.imageExits ik im).all fun q => q.2.toks.isEmpty)
    && s.islands.all fun i => !(i.1 / 8 == ik / 4 && im.quads.contains (i.1 % 8 / 2)) || !i.2.busy

/-- Whether a region holds no token in any queue, has no firing in flight, and holds no word at the head of an entry port (R124,
R139). Words in engines' held slots wait there until the proof wave (R141, R143). -/
def State.quiescent (s : State) (ik : Nat) (im : Image) : Bool :=
  ((s.imageElems ik im).all fun e => e.2.mem.isEmpty && e.2.qN.toks.isEmpty && e.2.qE.toks.isEmpty && e.2.qS.toks.isEmpty
      && e.2.qW.toks.isEmpty)
    && s.noReads ik im
    && ((s.imageExits ik im).all fun q => q.2.toks.isEmpty)
    && s.inPorts.all fun p => !(p.1 / 512 == ik / 4 && im.quads.contains (p.1 / 128 % 4)) || p.2.head.isNone

end Sys2Proof.Machine
end

