-- ==== Sys2Proof/Machine/Elements.lean ====
section
/-! DEFINITION. The element ops (R266 to R283): one firing under R116 of the element that the focus names. -/

namespace Sys2Proof.Machine
open Sys2Proof

/-! ### Integer and move ops (R270, R271) -/

/-- The comparisons eq, ne, lt, le, ltz, lez (R203, R270). -/
def cmp32 (cc : Nat) (x y : W32) : Bool :=
  match cc with
  | 0 => x == y
  | 1 => x != y
  | 2 => x.slt y
  | 3 => x.sle y
  | 4 => x.ult y
  | _ => x.ule y

/-- Shift amounts are B[4:0] (R270). -/
def sh5 (b : W32) : Nat := b.toNat % 32

/-- An integer result raises no flag (R270). -/
def plain (v : W32) : W32 × FFlags := (v, {})

/-- A float result as a token's data (R272). -/
def fres (r : Nat × FFlags) : W32 × FFlags := (BitVec.ofNat 32 r.1, r.2)

/-- e.nop never fires (R270). -/
def execENop (s : State) : Host.Outcome State Fault Refusal :=
  match s.focus with
  | .elem _ => .next s
  | _ => .fault .noElement

/-- e.add (R270). -/
def execEAdd (w : ElWord) (s : State) : Host.Outcome State Fault Refusal :=
  s.elOp 0x01 w fun _ x => plain (x.a + x.b)

/-- e.sub (R270). -/
def execESub (w : ElWord) (s : State) : Host.Outcome State Fault Refusal :=
  s.elOp 0x02 w fun _ x => plain (x.a - x.b)

/-- e.mul: the low 32 bits (R270). -/
def execEMul (w : ElWord) (s : State) : Host.Outcome State Fault Refusal :=
  s.elOp 0x03 w fun _ x => plain (x.a * x.b)

/-- e.mulh: the high 32 bits, signed for cond 0 (R270). -/
def execEMulh (w : ElWord) (s : State) : Host.Outcome State Fault Refusal :=
  s.elOp 0x04 w fun _ x => plain (if w.cond = 0 then BitVec.ofInt 32 (x.a.toInt * x.b.toInt / 2 ^ 32) else BitVec.ofNat 32 (x.a.toNat * x.b.toNat / 2 ^ 32))

/-- e.and (R270). -/
def execEAnd (w : ElWord) (s : State) : Host.Outcome State Fault Refusal :=
  s.elOp 0x05 w fun _ x => plain (x.a &&& x.b)

/-- e.or (R270). -/
def execEOr (w : ElWord) (s : State) : Host.Outcome State Fault Refusal :=
  s.elOp 0x06 w fun _ x => plain (x.a ||| x.b)

/-- e.xor (R270). -/
def execEXor (w : ElWord) (s : State) : Host.Outcome State Fault Refusal :=
  s.elOp 0x07 w fun _ x => plain (x.a ^^^ x.b)

/-- e.shl (R270). -/
def execEShl (w : ElWord) (s : State) : Host.Outcome State Fault Refusal :=
  s.elOp 0x08 w fun _ x => plain (x.a <<< sh5 x.b)

/-- e.shr (R270). -/
def execEShr (w : ElWord) (s : State) : Host.Outcome State Fault Refusal :=
  s.elOp 0x09 w fun _ x => plain (x.a >>> sh5 x.b)

/-- e.sar (R270). -/
def execESar (w : ElWord) (s : State) : Host.Outcome State Fault Refusal :=
  s.elOp 0x0A w fun _ x => plain (x.a.sshiftRight (sh5 x.b))

/-- e.min: signed for cond 0 (R270). -/
def execEMin (w : ElWord) (s : State) : Host.Outcome State Fault Refusal :=
  s.elOp 0x0B w fun _ x => plain (if (if w.cond = 0 then x.a.sle x.b else x.a.ule x.b) then x.a else x.b)

/-- e.max: signed for cond 0 (R270). -/
def execEMax (w : ElWord) (s : State) : Host.Outcome State Fault Refusal :=
  s.elOp 0x0C w fun _ x => plain (if (if w.cond = 0 then x.a.sle x.b else x.a.ule x.b) then x.b else x.a)

/-- e.cmp (R270). -/
def execECmp (w : ElWord) (s : State) : Host.Outcome State Fault Refusal :=
  s.elOp 0x0D w fun _ x => plain (if cmp32 w.cond.toNat x.a x.b then 1 else 0)

/-- e.sel (R270). -/
def execESel (w : ElWord) (s : State) : Host.Outcome State Fault Refusal :=
  s.elOp 0x0E w fun _ x => plain (if x.pt then x.a else x.b)

/-- e.mov (R270). -/
def execEMov (w : ElWord) (s : State) : Host.Outcome State Fault Refusal :=
  s.elOp 0x0F w fun _ x => plain x.a

/-- e.const (R271). -/
def execEConst (w : ElWord) (s : State) : Host.Outcome State Fault Refusal :=
  s.elOp 0x10 w fun _ _ => plain (if w.cond = 0 then w.imm.signExtend 32 else if w.cond = 1 then w.imm.zeroExtend 32 else w.imm ++ (0 : BitVec 16))

/-- e.cnt: (local register + 1) mod n, 0 meaning 65,536 (R271). -/
def execECnt (w : ElWord) (s : State) : Host.Outcome State Fault Refusal :=
  s.elOp 0x11 w fun _ x => plain (BitVec.ofNat 32 ((x.l.toNat + 1) % 2 ^ 32 % (if w.imm = 0 then 65536 else w.imm.toNat)))

/-- e.acc: a true P starts a new sum (R271). -/
def execEAcc (w : ElWord) (s : State) : Host.Outcome State Fault Refusal :=
  s.elOp 0x12 w fun _ x => plain ((if x.pt then 0 else x.l) + x.a)

/-! ### Float ops (R272, R273) -/

/-- e.fadd (R272). -/
def execEFadd (w : ElWord) (s : State) : Host.Outcome State Fault Refusal :=
  s.elOp 0x13 w fun _ x => fres (addVal (v32 x.a) (v32 x.b))

/-- e.fsub (R272). -/
def execEFsub (w : ElWord) (s : State) : Host.Outcome State Fault Refusal :=
  s.elOp 0x14 w fun _ x => fres (addVal (v32 x.a) (negVal (v32 x.b)))

/-- e.fmul (R272). -/
def execEFmul (w : ElWord) (s : State) : Host.Outcome State Fault Refusal :=
  s.elOp 0x15 w fun _ x => fres (mulVal (v32 x.a) (v32 x.b))

/-- e.ffma: RN(A · B + P) (R272). -/
def execEFfma (w : ElWord) (s : State) : Host.Outcome State Fault Refusal :=
  s.elOp 0x16 w fun _ x => fres (fmaVal (v32 x.a) (v32 x.b) (v32 x.p))

/-- e.fmin (R272). -/
def execEFmin (w : ElWord) (s : State) : Host.Outcome State Fault Refusal :=
  s.elOp 0x17 w fun _ x => fres (minMax fp32 false x.a.toNat x.b.toNat)

/-- e.fmax (R272). -/
def execEFmax (w : ElWord) (s : State) : Host.Outcome State Fault Refusal :=
  s.elOp 0x18 w fun _ x => fres (minMax fp32 true x.a.toNat x.b.toNat)

/-- e.fcmp (R272). -/
def execEFcmp (w : ElWord) (s : State) : Host.Outcome State Fault Refusal :=
  s.elOp 0x19 w fun _ x => let r := fcmpVal w.cond.toNat (v32 x.a) (v32 x.b); (if r.1 then 1 else 0, r.2)

/-- e.facc: −0 + A when P is true, else local register + A (R273). -/
def execEFacc (w : ElWord) (s : State) : Host.Outcome State Fault Refusal :=
  s.elOp 0x1A w fun _ x => fres (addVal (if x.pt then .fin true 0 0 else v32 x.l) (v32 x.a))

/-! ### Converter and function elements (R274, R275) -/

/-- A scale register of a quadrant: register 0 reads 1.0, GLOAD sets the others to 1.0 (R127). -/
def State.scaleReg (s : State) (core q n : Nat) : W32 := if n = 0 then 0x3F800000 else tgetD s.scales ((core * 4 + q) * 16 + n) 0x3F800000

/-- The exact product of two values (R274). -/
def mulExact (x y : FVal) : FVal × FFlags :=
  match x, y with
  | .nan a, .nan b => (.nan false, { invalid := a || b })
  | .nan a, _ => (.nan false, { invalid := a })
  | _, .nan b => (.nan false, { invalid := b })
  | .inf a, .inf b => (.inf (a != b), {})
  | .inf a, .fin n m _ => if m = 0 then (.nan false, { invalid := true }) else (.inf (a != n), {})
  | .fin n m _, .inf a => if m = 0 then (.nan false, { invalid := true }) else (.inf (a != n), {})
  | .fin n m e, .fin n' m' e' => (.fin (n != n') (m * m') (e + e'), {})

/-- The value of a token's low bits read in a format (R274). -/
def tokenVal (f x : Nat) : FVal :=
  match floatFmt f, intFmt f with
  | some g, _ => g.value (x % 2 ^ g.width)
  | none, some (w, sg) => .fin (decide (intOf w sg x < 0)) (intOf w sg x).natAbs 0
  | none, none => .nan false

/-- The conversion of e.cvt from format f under scale sc to format d (R274). -/
def cvtToken (f d : Nat) (sat : Bool) (mode : Nat) (sc x : W32) : W32 × FFlags :=
  let widen := fun (r : Nat) => if d ≤ 1 then (BitVec.ofInt 32 (intOf (8 * fmtSize d) true r)) else BitVec.ofNat 32 r
  let r : Nat × FFlags :=
    match intFmt f, intFmt d with
    | some (w, sg), some (w', sg') =>
      if sc = 0x3F800000 then intToInt w' sg' sat (intOf w sg x.toNat)
      else
        let p := mulExact (tokenVal f x.toNat) (v32 sc)
        let n := floatToInt w' sg' mode p.1
        (patOf w' n.1, p.2.join n.2)
    | _, some (w', sg') =>
      let p := mulExact (tokenVal f x.toNat) (v32 sc)
      let n := floatToInt w' sg' mode p.1
      (patOf w' n.1, p.2.join n.2)
    | _, none =>
      let p := mulExact (tokenVal f x.toNat) (v32 sc)
      match floatFmt d with
      | some g => let n := floatToFloat g sat mode p.1; (n.1, p.2.join n.2)
      | none => (0, p.2)
  (widen r.1, r.2)

/-- The scale register of a tag's channel-table entry, in the element's quadrant (R127). -/
def State.chanScale (s : State) (t : Site) (tag : BitVec 5) : W32 :=
  s.scaleReg (t.k / 4096) (elemQuad t.k) ((t.im.chan tag).extractLsb' 0 4).toNat

/-- e.cvt (R274). -/
def execECvt (w : ElWord) (s : State) : Host.Outcome State Fault Refusal :=
  s.elOp 0x1B w fun t x =>
    cvtToken ((t.im.chan x.tag).extractLsb' 4 5).toNat (w.aux.toNat % 32) (w.cond.getLsbD 2) (w.cond.toNat % 4) (s.chanScale t x.tag) x.a

/-- A function element: its input scaled, then the function; exact and with no flag when the scale is 1.0 (R275). -/
def funcOf (f : W32 → Nat × FFlags) (sc x : W32) : W32 × FFlags :=
  let y : Nat × FFlags := if sc = 0x3F800000 then (x.toNat, {}) else mulVal (v32 x) (v32 sc)
  let r := f (BitVec.ofNat 32 y.1)
  (BitVec.ofNat 32 r.1, y.2.join r.2)

/-- e.exp2 (R168, R275). -/
def execEExp2 (w : ElWord) (s : State) : Host.Outcome State Fault Refusal :=
  s.elOp 0x1C w fun t x => funcOf exp2Bits (s.chanScale t x.tag) x.a

/-- e.log2 (R169, R275). -/
def execELog2 (w : ElWord) (s : State) : Host.Outcome State Fault Refusal :=
  s.elOp 0x1D w fun t x => funcOf log2Bits (s.chanScale t x.tag) x.a

/-- e.rcp (R170, R275). -/
def execERcp (w : ElWord) (s : State) : Host.Outcome State Fault Refusal :=
  s.elOp 0x1E w fun t x => funcOf rcpBits (s.chanScale t x.tag) x.a

/-- e.rsq (R171, R275). -/
def execERsq (w : ElWord) (s : State) : Host.Outcome State Fault Refusal :=
  s.elOp 0x1F w fun t x => funcOf rsqBits (s.chanScale t x.tag) x.a

/-! ### Memory elements (R276 to R279) -/

/-- The oldest pending access has been performed: its outputs go out, the result after 8 core cycles, passed heads after one, and the
registers follow (R122, R267, R278, R284). -/
def State.memDone (s : State) (t : Site) (m : MemPend) (v : W32) : State :=
  m.outs.foldl (fun s o =>
    match o.2.1 with
    | some d => s.sendTok (t.out o.1) ⟨d, o.2.2, s.cycE t.k + 1, none⟩
    | none => s.sendTok (t.out o.1) ⟨v, o.2.2, s.cycE t.k + 8, none⟩) (s.setElem t.k ((s.elem t.k).performed v))

/-- Perform the pending accesses of an element, in the order of its firings, while they can be performed; one that ends in an error
is over, and the gang with it (R278, R279). An access whose mapping is gone is tried at the walker's retry only. -/
def State.performMem (s : State) (t : Site) (retry : Bool) : Nat → State
  | 0 => s
  | n + 1 =>
    match (s.elem t.k).mem with
    | [] => s
    | m :: _ =>
      if m.dva && !retry then s
      else
        match s.tryAccess (t.k / 4096) t.im m with
        | .done s1 v => (s1.memDone t m v).performMem t false n
        | .fail s1 code => (s1.setElem t.k (s1.elem t.k).lost).abandonErr (s.ctx t.im.ctx).gang code
        | .wait s1 why dva => s1.setElem t.k ((s1.elem t.k).delayed why dva s1.clock)

/-- The accesses that an element's firings have begun are tried again, before its word of the core cycle (R116, R278). -/
def State.retryMem (s : State) (k : Nat) : State :=
  match s.siteOf k with
  | none => s
  | some t => s.performMem t false t.e.mem.length

/-- The access that a firing of a memory element begins: the offset (A + imm16) · size, the value to store, and the outputs
held until it is performed (R276, R278). -/
def State.memPend (s : State) (t : Site) (code op : Nat) (w : ElWord) (outs : List (Dir × BitVec 3)) : MemPend :=
  let x := s.elIn t code w
  { word := w, op := op, off := ((x.a.toNat : Int) + w.imm.toInt) * (2 ^ (w.cond.toNat % 4) : Int), aval := x.a, value := x.b
    outs := outs.map fun d =>
      if isPass d.2 then
        match t.e.head (s.cycE t.k) (dirOf (d.2.toNat - 2)) with
        | some h => (d.1, some h.data, h.tag)
        | none => (d.1, some 0, 0)
      else (d.1, none, s.resultTag (s.cycE t.k) t.e w)
    since := s.clock, why := .other, dva := false, setL := w.lact == 1, setP := true }

/-- The state in which that access is tried: the operands are taken, a register action that needs no result is done, and the access
is pending behind those of earlier firings (R116, R122, R278). -/
def State.memFired (s : State) (t : Site) (m : MemPend) (deq : List Dir) (outs : List (Dir × BitVec 3)) : State :=
  let e := ((t.e.deq (s.cycE t.k) deq).act (s.cycE t.k)).overtaken (m.word.lact != 0) true
  (s.setElem t.k { e with mem := e.mem ++ [m], lreg := lregAfter t.e m.word none m.aval }).setSiteImage t
    (t.countGates deq (outs.map (·.1))) {}

/-- A core cycle of a memory element's word: its operands are taken, its destination slots reserved, and its outputs held until its
access is performed, which may be at once (R116, R278). -/
def State.memOp (s : State) (code op : Nat) (w : ElWord) : Host.Outcome State Fault Refusal :=
  s.element code w fun t deq outs =>
    (s.memFired t (s.memPend t code op w outs) deq outs).performMem t false (t.e.mem.length + 1)

/-- e.ld (R277). -/
def execELd (w : ElWord) (s : State) : Host.Outcome State Fault Refusal := s.memOp 0x20 0 w

/-- e.st: its result is B (R277). -/
def execESt (w : ElWord) (s : State) : Host.Outcome State Fault Refusal := s.memOp 0x21 1 w

/-- e.ldl: the word read, plus imm16 (R277). -/
def execELdl (w : ElWord) (s : State) : Host.Outcome State Fault Refusal := s.memOp 0x22 2 w

/-- The walker retries a translation for a memory element's access (R32): performed when the mapping is back; once the launch's
fault limit has passed, the access is given up and the gang abandoned with DVA_FAULT. A gang that is being abandoned ends when
the last such access has come to its end (R279). -/
def execDvaRetry (core row col : Nat) (s : State) : Host.Outcome State Fault Refusal :=
  let k := elemKey core row col
  match s.siteOf k with
  | none => .next s
  | some t =>
    match t.e.mem with
    | [] => .next s
    | m :: _ =>
      let gk := (s.ctx t.im.ctx).gang
      if !m.dva then .next s
      else if m.since + 2700 * (s.launch (s.launchOf t.im.ctx)).faultLimit < s.clock then
        .next (((s.setElem k t.e.lost).abandonErr gk 4).endDue gk)
      else .next ((s.performMem t true t.e.mem.length).endDue gk)

/-! ### Ordering, steering, checking (R280 to R283) -/

/-- e.ordf: an ordering token to each driven side, with data 0 (R280). -/
def execEOrdf (w : ElWord) (s : State) : Host.Outcome State Fault Refusal := s.elOp 0x23 w fun _ _ => plain 0

/-- e.ordj (R280). -/
def execEOrdj (w : ElWord) (s : State) : Host.Outcome State Fault Refusal := s.elOp 0x24 w fun _ _ => plain 0

/-- e.steer: the result is A (R281). -/
def execESteer (w : ElWord) (s : State) : Host.Outcome State Fault Refusal := s.elOp 0x25 w fun _ x => plain x.a

/-- e.merge: A when P is true, else B (R281). -/
def execEMerge (w : ElWord) (s : State) : Host.Outcome State Fault Refusal :=
  s.elOp 0x26 w fun _ x => plain (if x.pt then x.a else x.b)

/-- e.tagchk (R282): a match passes A; a mismatch abandons the gang (cond 0) or consumes the token, driving nothing and
counting one stall_operand (cond 1). -/
def execETagchk (w : ElWord) (s : State) : Host.Outcome State Fault Refusal :=
  s.element 0x27 w fun t deq outs =>
    let x := s.elIn t 0x27 w
    if !t.e.mismatch (s.cycE t.k) 0x27 w then s.fired t w deq outs (elLat 0x27) (some x.a) {} x.a
    else if w.cond = 0 then s.abandonErr (s.ctx t.im.ctx).gang 1
    else
      let s1 := s.fired t w deq [] 1 none {} x.a
      s1.setElem t.k { s1.elem t.k with stallOp := (s1.elem t.k).stallOp + 1 }

/-- e.sink consumes its heads and produces nothing (R283). -/
def execESink (w : ElWord) (s : State) : Host.Outcome State Fault Refusal :=
  s.element 0x28 w fun t deq outs => s.fired t w deq outs 0 none {} 0

end Sys2Proof.Machine
end

