-- ==== Sys2Proof/Machine/Islands.lean ====
section
/-! DEFINITION. Matrix islands (R144 to R153): operand packets, tasks and their accumulation order, scale tokens,
reads and drains. -/

namespace Sys2Proof.Machine
open Sys2Proof

/-! ### Headers and classes (R145, R147) -/

def hdrTag (h : W32) : BitVec 5 := h.extractLsb' 27 5
def hdrClear (h : W32) : Bool := h.getLsbD 25
def hdrSat (h : W32) : Bool := h.getLsbD 24
def hdrK (h : W32) : Nat := (h.extractLsb' 12 12).toNat + 1

/-- The header fields that are wrong on their own: tag 31, nonzero bits [11:0] (R152). -/
def hdrBad (h : W32) : Bool := hdrTag h == 31 || h.extractLsb' 0 12 != 0

/-- The class of a pairing: 1 FP8, 2 INT8, 3 BF16, 4 FP16, 5 NQ4; 0 for any other (R145). -/
def classOf (a b : Nat) : Nat :=
  let fp8 := fun f => f == 5 || f == 6
  let i8 := fun f => f == 0 || f == 3
  if fp8 a && fp8 b then 1
  else if i8 a && i8 b then 2
  else if a == 8 && b == 8 then 3
  else if a == 7 && b == 7 then 4
  else if fp8 a && b == 10 then 5
  else 0

/-- Words of one k-step of a format: 32 for 1-byte, 64 for 2-byte formats (R146). -/
def stepWords (f : Nat) : Nat := if fmtSize f = 2 then 64 else 32

/-- The class of a k-step whose words have some formats: that of every pairing, 0 where they differ (R145, R146). -/
def classAll (fA fB : List Nat) : Nat :=
  let c := classOf (fA.headD 0) (fB.headD 0)
  if fA.all fun a => fB.all fun b => classOf a b == c then c else 0

/-- Value i of a k-step: the format of its own word, and its bit pattern (R146). Words of a step are of one size. -/
def stepVal? (fmt : BitVec 5 → Nat) (ws : List (W32 × BitVec 5)) (i : Nat) : Nat × Nat :=
  if fmtSize (fmt (ws.headD (0, 0)).2) = 2 then
    let w := ws.getD (i / 2) (0, 0)
    (fmt w.2, (w.1.extractLsb' (16 * (i % 2)) 16).toNat)
  else
    let w := ws.getD (i / 4) (0, 0)
    (fmt w.2, (w.1.extractLsb' (8 * (i % 4)) 8).toNat)

/-! ### The accumulators (R149) -/

/-- One multiply-accumulate of a float class: the exact product, one rounding; a NaN input, Inf × 0 and Inf − Inf raise
invalid. -/
def macFloat (acc : W32) (a b : FVal) : W32 × FFlags :=
  let r := fmaVal a b (v32 acc)
  (BitVec.ofNat 32 r.1, if isNaN a || isNaN b then { r.2 with invalid := true } else r.2)

/-- One multiply-accumulate of the INT8 class. -/
def macInt (sat : Bool) (acc : W32) (a b : Int) : W32 × FFlags :=
  let v := acc.toInt + a * b
  if sat && (decide (v < -(2 ^ 31 : Int)) || decide (2 ^ 31 - 1 < v)) then
    (if v < 0 then 0x80000000 else 0x7FFFFFFF, { overflow := true })
  else (BitVec.ofInt 32 v, {})

/-- The exact sum of two values that are products (R149): invalid for Inf + (−Inf). -/
def addExact (x y : FVal × FFlags) : FVal × FFlags :=
  let fl := x.2.join y.2
  match x.1, y.1 with
  | .nan _, _ => (.nan false, fl)
  | _, .nan _ => (.nan false, fl)
  | .inf a, .inf b => if a = b then (.inf a, fl) else (.nan false, { fl with invalid := true })
  | .inf a, _ => (.inf a, fl)
  | _, .inf a => (.inf a, fl)
  | .fin n1 m1 e1, .fin n2 m2 e2 => let r := exactAdd n1 m1 e1 n2 m2 e2; (.fin r.1 r.2.1 r.2.2, fl)

/-- A level of the NQ4 codebook as a value (R149). -/
def levelVal (code : Nat) : FVal := .fin (decide (nq4Level code < 0)) (nq4Level code).natAbs (-8)

/-- An NQ4 product; a NaN input raises invalid. -/
def nqMul (a : FVal) (code : Nat) : FVal × FFlags :=
  let r := mulExact a (levelVal code)
  (r.1, if isNaN a then { r.2 with invalid := true } else r.2)

/-- P after one pair of k-steps: RN(P + (a[k]·l[k] + a[k+1]·l[k+1])), the inner sum exact. -/
def nqPair (p : W32) (a0 a1 : FVal) (c0 c1 : Nat) : W32 × FFlags :=
  let t := addExact (nqMul a0 c0) (nqMul a1 c1)
  let r := addVal (v32 p) t.1
  (BitVec.ofNat 32 r.1, t.2.join r.2)

/-- A byte of a weight tile (R72, R146). -/
def weightByte (ws : List W32) (i : Nat) : Nat := ((ws.getD (i / 4) 0).extractLsb' (8 * (i % 4)) 8).toNat

/-- The code of tile element (n, k). -/
def weightCode (ws : List W32) (n k : Nat) : Nat :=
  let b := weightByte ws (n * 64 + k / 2)
  if k % 2 = 0 then b % 16 else b / 16

/-- A product of an island, rounded: every NaN input raises invalid (R149, R156). -/
def islMul (x y : FVal) : Nat × FFlags :=
  let r := mulVal x y
  (r.1, if isNaN x || isNaN y then { r.2 with invalid := true } else r.2)

/-- F_j of a block: RN(S·(bsc + 1)/256) (R149). -/
def weightF (ws : List W32) (j blk : Nat) : Nat × FFlags :=
  islMul (v32 (ws.getD 2112 0)) (.fin false (weightByte ws (8192 + 2 * j + blk) + 1) (-8))

/-- The end of a block: acc := RN(acc + RN(P·F)). -/
def nqFold (acc p : W32) (f : Nat × FFlags) : W32 × FFlags :=
  let q := islMul (v32 p) (fp32.value f.1)
  let r := addVal (v32 acc) (fp32.value q.1)
  (BitVec.ofNat 32 r.1, f.2.join (q.2.join r.2))

/-- Map every element of a 128 × 128 array of words, unlisted elements being zero, gathering flags. -/
def mapBank (b : Tab W32) (f : Nat → Nat → W32 → W32 × FFlags) : Tab W32 × FFlags :=
  (List.range 16384).foldr (fun p r =>
    let v := f (p / 128) (p % 128) (tgetD b p 0)
    (if v.1 = 0 then r.1 else (p, v.1) :: r.1, v.2.join r.2)) ([], {})

/-! ### The record and its surroundings -/

/-- An island's record. -/
def State.island (s : State) (k : Nat) : Island := tgetD s.islands k {}
def State.setIsland (s : State) (k : Nat) (i : Island) : State := { s with islands := tset s.islands k i }

/-- A bank and its latch. -/
def Island.bank (i : Island) (b : Bool) : Tab W32 := if b then i.bank1 else i.bank0
def Island.setBank (i : Island) (b : Bool) (t : Tab W32) : Island := if b then { i with bank1 := t } else { i with bank0 := t }
def Island.latch (i : Island) (b : Bool) : Option Latch := if b then i.lat1 else i.lat0
def Island.setLatch (i : Island) (b : Bool) (l : Latch) : Island := if b then { i with lat1 := some l } else { i with lat0 := some l }

/-- The m-th trigger element attached to an island and its island-side queue (R124, R147). -/
def attached (core isl m : Nat) : Nat × Dir :=
  if isl < 4 then (elemKey core 0 (16 * isl + m), .n) else (elemKey core 63 (16 * (isl - 4) + m), .s)

/-- A token enters an element's queue, if it has a free slot. -/
def State.enter (s : State) (e : Nat × Dir) (t : Tok) : Option State :=
  if ((s.elem e.1).queue e.2).hasRoom (s.cycE e.1) then
    some (s.setElem e.1 ((s.elem e.1).setQueue e.2 (((s.elem e.1).queue e.2).push t)))
  else none

/-- Raise flags in the region that holds an island (R149, R172). -/
def State.raiseFlags (s : State) (ik : Nat) (fl : FFlags) : State :=
  match tget? s.images ik with
  | some im => { s with images := tset s.images ik { im with flags := stick im.flags fl } }
  | none => s

/-- A channel entry's format, if the entry is valid. -/
def Image.chanFmt (im : Image) (tag : BitVec 5) : Option Nat :=
  if (im.chan tag).getLsbD 15 then some ((im.chan tag).extractLsb' 4 5).toNat else none

/-! ### The decoders (R146, R147) -/

/-- Deliver the header of the next A packet to the first attached element; K k-steps of data words follow it (R146). -/
def State.islHeader (s : State) (im : Image) (core isl : Nat) : State :=
  let k := core * 8 + isl
  let i := s.island k
  match i.bufA with
  | [] => s
  | t :: r =>
    if i.aLeft ≠ 0 ∨ i.aStep ≠ 0 ∨ (im.chanFmt t.tag).isNone then s
    else
      match s.enter (attached core isl 0) ⟨t.data, hdrTag t.data, s.cyc core, none⟩ with
      | none => s
      | some s1 => s1.setIsland k { i with bufA := r, aLeft := hdrK t.data }

/-- Move nq4 words at the head of the B decoder into the two weight buffers of 2,113 words (R146), those that come among the B
words of another format too (DESIGN CHOICE, log 37). -/
def loadWeights (im : Image) (i : Island) : Nat → Island
  | 0 => i
  | n + 1 =>
    match i.bufB with
    | .data t :: r =>
      if im.chanFmt t.tag != some 10 then i
      else
        match i.weights with
        | [] => loadWeights im { i with bufB := r, weights := [[t]] } n
        | [w] =>
          if w.length < 2113 then loadWeights im { i with bufB := r, weights := [w ++ [t]] } n
          else loadWeights im { i with bufB := r, weights := [w, [t]] } n
        | w :: v :: _ =>
          if v.length < 2113 then loadWeights im { i with bufB := r, weights := [w, v ++ [t]] } n else i
    | _ => i

/-- The format of a channel, 0 where its entry is not valid. -/
def Image.fmtOf (im : Image) (tag : BitVec 5) : Nat := (im.chanFmt tag).getD 0

/-- The place in its packet after an A word of a format: the first word of a k-step says how many words the step has (R146). -/
def Island.countA (i : Island) (f : Nat) : Island :=
  if i.aStep = 0 then { i with aLeft := i.aLeft - 1, aStep := stepWords f - 1 } else { i with aStep := i.aStep - 1 }

/-- Move A words of the running task's next k-step into its latches, each with its channel; the first one's channel names
A's scale register (DESIGN CHOICE where they carry several tags: R148 names no word; log 37). -/
def takeA (im : Image) (i : Island) (u : Run) (need : Nat) : Nat → Island × Run
  | 0 => (i, u)
  | n + 1 =>
    match i.bufA with
    | [] => (i, u)
    | t :: r =>
      if i.aLeft = 0 ∧ i.aStep = 0 ∨ need ≤ u.stepA.length ∨ (im.chanFmt t.tag).isNone then (i, u)
      else
        takeA im { i.countA (im.fmtOf t.tag) with bufA := r }
          { u with stepA := u.stepA ++ [(t.data, t.tag)], tagA := if u.stepA.isEmpty then t.tag else u.tagA } need n

/-- Move B words of the running task's next k-step into its latches; a scale token at the head stops them (R151). The first one's
channel names B's scale register (DESIGN CHOICE where they carry several tags, log 37). -/
def takeB (im : Image) (i : Island) (u : Run) (need : Nat) : Nat → Island × Run
  | 0 => (i, u)
  | n + 1 =>
    match i.bufB with
    | .data t :: r =>
      if need ≤ u.stepB.length ∨ (im.chanFmt t.tag).isNone ∨ im.fmtOf t.tag = 10 then (i, u)
      else
        takeB im { i with bufB := r }
          { u with stepB := u.stepB ++ [(t.data, t.tag)], tagB := if u.stepB.isEmpty then t.tag else u.tagB } need n
    | _ => (i, u)

/-- The channel of the word at the head of the B decoder. -/
def Island.headB (i : Island) : BitVec 5 :=
  match i.bufB with
  | .data t :: _ => t.tag
  | _ => 0

/-! ### Tasks (R148, R149, R152) -/

/-- The bank that an entry of the issue queue names. -/
def IslOp.bankOf (o : IslOp) : Bool :=
  match o with
  | .task h _ => hdrBank h
  | .clear b => b
  | .drain b _ => b
  | .read b _ _ _ _ _ _ => b

/-- A task error of R152 at the first k-step: a pairing outside R145, saturate outside INT8, NQ4 with K ≠ 128, clear = 0
on a bank whose latched class differs. -/
def taskBad (i : Island) (h : W32) (cls : Nat) : Bool :=
  cls == 0 || (hdrSat h && cls != 2) || (cls == 5 && hdrK h != 128)
    || (!hdrClear h && (match i.latch (hdrBank h) with | some l => l.cls != cls | none => false))

/-- One k-step of a class but NQ4, on the bank; `fmt` gives the formats of the channels (R149). -/
def stepBank (cls : Nat) (fmt : BitVec 5 → Nat) (u : Run) (b : Tab W32) : Tab W32 × FFlags :=
  let a := (List.range 128).map fun i => stepVal? fmt u.stepA i
  let w := (List.range 128).map fun j => stepVal? fmt u.stepB j
  mapBank b fun i j acc =>
    let x := a.getD i (0, 0)
    let y := w.getD j (0, 0)
    if cls = 2 then macInt (hdrSat u.header) acc (intOf 8 (x.1 == 0) x.2) (intOf 8 (y.1 == 0) y.2)
    else macFloat acc (tokenVal x.1 x.2) (tokenVal y.1 y.2)

/-- The latches after a step are empty. -/
def Run.next (u : Run) (n : Nat) : Run := { u with k := u.k + n, started := true, stepA := [], stepB := [] }

/-- A pair of k-steps of the NQ4 class; the last pair of a block folds P into the bank (R149). -/
def stepNq (fmt : BitVec 5 → Nat) (u : Run) (ws : List W32) (b : Tab W32) : Run × Tab W32 × FFlags :=
  let fresh := u.k % 64 = 0
  let a := fun (n i : Nat) => let x := stepVal? fmt ((u.stepA.drop (32 * n)).take 32) i; tokenVal x.1 x.2
  let p := mapBank (if fresh then [] else u.part) fun i j v =>
    nqPair v (a 0 i) (a 1 i) (weightCode ws j u.k) (weightCode ws j (u.k + 1))
  if u.k % 64 = 62 then
    let r := mapBank b fun i j acc => nqFold acc (tgetD p.1 (i * 128 + j) 0) (weightF ws j (u.k / 64))
    ({ u.next 2 with part := [] }, r.1, p.2.join r.2)
  else ({ u.next 2 with part := p.1 }, b, p.2)

/-- Latch a task at its first k-step: its class, the scales of its channels, the bank; the bank starts at zero under
`clear` (R147, R148). -/
def Island.latchTask (i : Island) (h : W32) (cls : Nat) (sA sB : W32) : Island :=
  let i1 := { i.setLatch (hdrBank h) ⟨cls, sA, sB⟩ with lastBank := hdrBank h }
  if hdrClear h then i1.setBank (hdrBank h) [] else i1

/-- The scale that a channel names, in the island's quadrant. -/
def State.islScale (s : State) (im : Image) (core isl : Nat) (tag : BitVec 5) : W32 :=
  s.scaleReg core (isl / 2) ((im.chan tag).extractLsb' 0 4).toNat

/-- Advance the running task by what its decoders hold: at most one k-step, or one pair for NQ4. B is a weight tile
when the weight buffers hold one, since its words came before whatever the decoder holds. The channel of the first word of B names B's
scale register, that of the first word of the tile where B is an NQ4 tile: DESIGN CHOICE where the words carry several tags, R148 names
no word. A k-step after the first whose formats give another class than the one latched abandons the gang with ILLEGAL as a task error
does: DESIGN CHOICE, R152 lists no such error; log 37. -/
def State.islRun (s : State) (ik : Nat) (im : Image) (core isl : Nat) (u : Run) : State :=
  let k := core * 8 + isl
  let i := s.island k
  let nq := !i.weights.isEmpty && u.stepB.isEmpty
  let tile := i.weights.headD []
  let headA := (i.bufA.head?.map (·.tag)).getD 0
  let stepA := stepWords (im.fmtOf (if u.stepA.isEmpty then headA else u.tagA))
  let needA := if nq then stepA * Nat.min 2 (hdrK u.header - u.k) else stepA
  let x := takeA im i u needA 64
  let needB := stepWords (im.fmtOf (if u.stepB.isEmpty then x.1.headB else u.tagB))
  let y := if nq then (x.1, { x.2 with tagB := (tile.head?.map (·.tag)).getD 0 }) else takeB im x.1 x.2 needB 64
  let i1 := y.1
  let u1 := y.2
  let full := u1.stepA.length == needA && (if nq then tile.length == 2113 else u1.stepB.length == needB)
  if !full then s.setIsland k { i1 with run := some u1 }
  else
    let fB := if nq then [10] else u1.stepB.map fun w => im.fmtOf w.2
    let cls := classAll (u1.stepA.map fun w => im.fmtOf w.2) fB
    let bad := if u.started then (match i1.latch (hdrBank u.header) with | some l => l.cls != cls | none => true)
      else taskBad i1 u.header cls
    if bad then s.abandonErr (s.ctx im.ctx).gang 1
    else
      let i2 := if u.started then i1
        else i1.latchTask u.header cls (s.islScale im core isl u1.tagA) (s.islScale im core isl u1.tagB)
      let b := i2.bank (hdrBank u.header)
      let r : Run × Tab W32 × FFlags :=
        if nq then stepNq im.fmtOf u1 (tile.map (·.data)) b
        else let z := stepBank cls im.fmtOf u1 b; (u1.next 1, z.1, z.2)
      let i3 := i2.setBank (hdrBank u.header) r.2.1
      let ends := decide (hdrK u.header ≤ r.1.k)
      (s.setIsland k { i3 with run := if ends then none else some r.1
                               weights := if ends && nq then i3.weights.tail else i3.weights }).raiseFlags ik r.2.2

/-! ### Clears, drains, reads (R152) -/

/-- A word of a bank as it is read: a float-class bank scaled, the scales' product and the word's each a rounded product of the
island, an integer-class bank raw. -/
def Island.readAt (i : Island) (b : Bool) (p : Nat) : W32 × FFlags :=
  let v := tgetD (i.bank b) p 0
  match i.latch b with
  | none => (v, {})
  | some l =>
    if l.cls = 2 then (v, {})
    else
      let sc := islMul (v32 l.sA) (v32 l.sB)
      if sc.1 = 0x3F800000 then (v, sc.2)
      else let r := islMul (v32 v) (fp32.value sc.1); (BitVec.ofNat 32 r.1, sc.2.join r.2)

/-- Drain: each attached element takes its next word, when its island-side queue has a free slot. -/
def State.drainOne (s : State) (ik core isl m : Nat) (b : Bool) (tag : BitVec 5) : State :=
  let k := core * 8 + isl
  let i := s.island k
  let n := i.drainPos.getD m 0
  if 1024 ≤ n then s
  else
    let v := i.readAt b (m * 1024 + n)
    match s.enter (attached core isl m) ⟨v.1, tag, s.cyc core, none⟩ with
    | none => s
    | some s1 => (s1.setIsland k { i with drainPos := lset i.drainPos m (n + 1) }).raiseFlags ik v.2

/-- The place of the next entry of a bank that may be performed: the first naming it, while no task runs on it. -/
def Island.nextOf (i : Island) (b : Bool) : Option (Nat × IslOp) :=
  if (match i.run with | some u => hdrBank u.header == b | none => false) then none
  else
    match i.queue.findIdx? fun o => o.bankOf == b with
    | none => none
    | some n => (i.queue[n]?).map fun o => (n, o)

/-- Whether a drain of a bank must wait for one of the other bank: one under way, or one issued earlier that may begin. The
attached elements take one token a core cycle, so one drain goes at a time (R152). -/
def Island.drainWaits (i : Island) (b : Bool) (at_ : Nat) : Bool :=
  if !i.drainPos.isEmpty then i.drainBank != b
  else match i.nextOf (!b) with | some (n, .drain _ _) => decide (n < at_) | _ => false

/-- One entry of the issue queue that is the first to name its bank, while no task runs on the bank: performed, and
taken out of the queue at its place. A task starts only when no other runs and it is the first task of the queue. -/
def State.islEntry (s : State) (ik : Nat) (im : Image) (core isl at_ : Nat) (o : IslOp) : State :=
  let k := core * 8 + isl
  let i := s.island k
  let out := fun (i : Island) => { i with queue := i.queue.eraseIdx at_ }
  match o with
  | .task h _ =>
    if i.run.isSome || (i.queue.take at_).any (fun e => match e with | .task _ _ => true | _ => false) then s
    else s.setIsland k { out i with run := some { header := h } }
  | .clear b => s.setIsland k (out (i.setBank b []))
  | .drain b tag =>
    if i.drainWaits b at_ then s
    else
      let s0 := if i.drainPos.isEmpty then s.setIsland k { i with drainPos := List.replicate 16 0, drainBank := b } else s
      let s1 := (List.range 16).foldl (fun s m => s.drainOne ik core isl m b tag) s0
      let i1 := s1.island k
      if i1.drainPos.all (· == 1024) then s1.setIsland k { out i1 with drainPos := [] } else s1
  | .read b r c row col side tag =>
    let e := elemKey core row col
    let v := i.readAt b (r * 128 + c)
    let o := (⟨e, ik, im, s.elem e⟩ : Site).out side
    if s.room o then
      ((s.setIsland k (out i)).sendTok o ⟨v.1, tag, s.cyc core + 4, none⟩).raiseFlags ik v.2
    else s

/-- An island acts (R148, R149): it delivers a header, loads weights, performs an entry of each bank, and advances its
task. A header and a drained token may enter the first attached element's queue in one core cycle, the header first (DESIGN
CHOICE, log 37). -/
def execIslandTask (core isl : Nat) (s : State) : Host.Outcome State Fault Refusal :=
  let k := core * 8 + isl
  match s.imageAt core (isl / 2) with
  | none => .next s
  | some (ik, im) =>
    if !im.proved || im.killed then .next s
    else
      let s1 := s.islHeader im core isl
      let s2 := s1.setIsland k (loadWeights im (s1.island k) 64)
      let entry := fun (s : State) (b : Bool) =>
        match (s.island k).nextOf b with
        | some (n, o) => s.islEntry ik im core isl n o
        | none => s
      let s3 := entry (entry s2 false) true
      match (s3.island k).run with
      | some u => .next (s3.islRun ik im core isl u)
      | none => .next s3

/-- Whether a task that has not reached its first k-step has all the B words of that step out of the buffer: it latches the
old scale, so a scale token behind them waits (R151). The first weight tile is that of the running task only if this task is
one of the NQ4 class that has begun; else it is a later task's. -/
def Island.latchDue (i : Island) (im : Image) : Bool :=
  let begun := match i.run with
    | some u => u.started && (match i.latch (hdrBank u.header) with | some l => l.cls == 5 | none => false)
    | none => false
  let step := match i.run with
    | some u => !u.started && !u.stepB.isEmpty && decide (stepWords (im.fmtOf u.tagB) ≤ u.stepB.length)
    | none => false
  step || (if begun then i.weights.drop 1 else i.weights).any fun w => decide (2113 ≤ w.length)

/-- A scale token at the head of a B decoder writes its scale register; a write to register 0 is discarded (R127, R151). -/
def execScaleToken (core isl : Nat) (s : State) : Host.Outcome State Fault Refusal :=
  let k := core * 8 + isl
  let i := s.island k
  match i.bufB, s.imageAt core (isl / 2) with
  | .scale r v :: rest, some (_, im) =>
    if i.latchDue im then .next s
    else
    let s1 := s.setIsland k { i with bufB := rest, scaleHeld := false }
    .next (if r = 0 then s1 else { s1 with scales := tset s1.scales ((core * 4 + isl / 2) * 16 + r) v })
  | _, _ => .next s

end Sys2Proof.Machine
end

