-- ==== Sys2Proof/Machine/Triggers.lean ====
section
/-! DEFINITION. The trigger ops (R285 to R288): one firing under R133 of the trigger element that the focus names. -/

namespace Sys2Proof.Machine
open Sys2Proof

/-! ### Island ops (R286) -/

/-- Append an entry to the issue queue of the island that an element attaches to (R148). -/
def State.issueIsl (s : State) (t : Site) (o : IslOp) : State :=
  match islandAt t.k with
  | none => s
  | some i =>
    let key := t.k / 4096 * 8 + i
    let r := s.island key
    s.setIsland key { r with queue := r.queue ++ [o] }

/-- A task error: the gang is abandoned with the ILLEGAL code, without requeue (R152). -/
def State.taskError (s : State) (t : Site) : State := s.abandonErr (s.ctx t.im.ctx).gang 1

/-- t.mma: a task with the head's data as its header (R147, R286). -/
def execTMma (t : TrWord) (s : State) : Host.Outcome State Fault Refusal :=
  s.trigger 0x01 t fun x h => if hdrBad h.data then s.taskError x else s.issueIsl x (.task h.data h.tag)

/-- t.mclr (R286). -/
def execTMclr (t : TrWord) (s : State) : Host.Outcome State Fault Refusal :=
  s.trigger 0x02 t fun x _ => s.issueIsl x (.clear (t.operand.getLsbD 0))

/-- t.mdrain (R152, R286). -/
def execTMdrain (t : TrWord) (s : State) : Host.Outcome State Fault Refusal :=
  s.trigger 0x03 t fun x _ => s.issueIsl x (.drain (t.operand.getLsbD 0) (t.operand.extractLsb' 1 5))

/-- t.mscale: a scale token in the B decoder, behind every word it has accepted (R151, R286). -/
def execTMscale (t : TrWord) (s : State) : Host.Outcome State Fault Refusal :=
  s.trigger 0x04 t fun x h =>
    match islandAt x.k with
    | none => s
    | some i =>
      let key := x.k / 4096 * 8 + i
      let r := s.island key
      s.setIsland key { r with bufB := r.bufB ++ [.scale (t.operand.toNat % 16) h.data], scaleHeld := true }

/-- t.accrd: a read of C[i][j], sent to a side once its interlock ends (R152, R286). -/
def execTAccrd (t : TrWord) (s : State) : Host.Outcome State Fault Refusal :=
  s.trigger 0x05 t fun x h =>
    if h.data &&& ~~~(0x007F007F : W32) != 0 then s.taskError x
    else s.issueIsl x (.read (t.operand.getLsbD 2) (h.data.extractLsb' 16 7).toNat (h.data.extractLsb' 0 7).toNat
      (x.k % 4096 / 64) (x.k % 64) (dirOf (t.operand.toNat % 4)) (t.operand.extractLsb' 3 5))

/-! ### Queue, register and predicate ops (R287) -/

/-- Send a token on the side that an op's operand names, one core cycle later (R284, R285). -/
def State.trigSend (s : State) (x : Site) (t : TrWord) (data : W32) (tag : BitVec 5) : State :=
  s.sendTok (x.out (dirOf (t.operand.toNat % 4))) ⟨data, tag, s.cycE x.k + 1, none⟩

/-- t.deq: nothing beyond the dequeue mask and the predicate updates. -/
def execTDeq (t : TrWord) (s : State) : Host.Outcome State Fault Refusal := s.trigger 0x06 t fun _ _ => s

/-- t.enq sends the local register. -/
def execTEnq (t : TrWord) (s : State) : Host.Outcome State Fault Refusal :=
  s.trigger 0x07 t fun x _ => s.trigSend x t x.e.lreg (t.operand.extractLsb' 3 5)

/-- t.pset sets every predicate of its mask. -/
def execTPset (t : TrWord) (s : State) : Host.Outcome State Fault Refusal :=
  s.trigger 0x08 t fun x _ => s.trigElem x fun e => { e with preds := e.preds ||| t.operand.extractLsb' 0 8 }

/-- t.pclr clears every predicate of its mask. -/
def execTPclr (t : TrWord) (s : State) : Host.Outcome State Fault Refusal :=
  s.trigger 0x09 t fun x _ => s.trigElem x fun e => { e with preds := e.preds &&& ~~~(t.operand.extractLsb' 0 8) }

/-- t.seed sends zext(operand[15:8]). -/
def execTSeed (t : TrWord) (s : State) : Host.Outcome State Fault Refusal :=
  s.trigger 0x0B t fun x _ => s.trigSend x t ((t.operand.extractLsb' 8 8).zeroExtend 32) (t.operand.extractLsb' 3 5)

/-- t.tagset sends the head's data with a new tag. -/
def execTTagset (t : TrWord) (s : State) : Host.Outcome State Fault Refusal :=
  s.trigger 0x0C t fun x h => s.trigSend x t h.data (t.operand.extractLsb' 3 5)

/-- t.cnt adds sext(operand) to the local register. -/
def execTCnt (t : TrWord) (s : State) : Host.Outcome State Fault Refusal :=
  s.trigger 0x0D t fun x _ => s.trigElem x fun e => { e with lreg := e.lreg + t.operand.signExtend 32 }

/-- t.mov sends the head unchanged, tag included, or writes its data to the local register. -/
def execTMov (t : TrWord) (s : State) : Host.Outcome State Fault Refusal :=
  s.trigger 0x0E t fun x h =>
    if t.operand.getLsbD 2 then s.trigElem x fun e => { e with lreg := h.data } else s.trigSend x t h.data h.tag

/-- t.cmp: a predicate becomes (local register cond X), X the head's data or sext(operand[15:7]). -/
def execTCmp (t : TrWord) (s : State) : Host.Outcome State Fault Refusal :=
  s.trigger 0x0F t fun x h =>
    let y := if t.operand.getLsbD 6 then (t.operand.extractLsb' 7 9).signExtend 32 else h.data
    s.trigElem x fun e =>
      { e with preds := setBit8 e.preds (t.operand.toNat % 8) (cmp32 (t.operand.extractLsb' 3 3).toNat e.lreg y) }

/-! ### t.sig, t.halt (R288) -/

/-- t.sig: one arrival at a named barrier of the holding context's gang, or the event flag of that context; a barrier
not bound to the gang abandons it with ILLEGAL. -/
def execTSig (t : TrWord) (s : State) : Host.Outcome State Fault Refusal :=
  s.trigger 0x0A t fun x _ =>
    let gk := (s.ctx x.im.ctx).gang
    if t.operand.getLsbD 5 then s.updCtx x.im.ctx fun c => { c with event := true }
    else
      let key := x.k / 4096 * 32 + t.operand.toNat % 32
      if (s.bar key).gang == some gk then s.arriveBar key gk else s.abandonErr gk 1

/-- t.halt: the element fires nothing until the next proof wave of its region. -/
def execTHalt (t : TrWord) (s : State) : Host.Outcome State Fault Refusal :=
  s.trigger 0x10 t fun x _ => s.trigElem x fun e => { e with halted := true }

end Sys2Proof.Machine
end

