-- ==== Sys2Proof/Machine/SaveImage.lean ====
section
/-! DEFINITION. The bytes of a save image (R315, R361): the member's part of 1,024 bytes, then one section for each
quadrant. -/

namespace Sys2Proof.Machine
open Sys2Proof

/-- n zero bytes. -/
def zeroBytes (n : Nat) : List Byte := List.replicate n 0

/-- A saved handle register: atom, then view, pin and bound (R315). -/
def State.saveHandle (s : State) (k : Nat) (h : Handle) : List Byte :=
  let keys := s.tileKeys (pageKey (s.launchOf k) (atomPage h.atom))
  let pinned := h.bound && s.frames.any fun f =>
    match f.2 with | .page key pins => decide (f.1 / 4096 = coreOf k) && keys.contains key && pins.contains k | _ => false
  toBytes h.atom.toNat 8 ++ toBytes (h.pcols.toNat * 2 ^ 32 + h.vcol.toNat * 2 ^ 24 + h.vrow.toNat * 2 ^ 16
    + (if pinned then 2 else 0) + (if h.bound then 1 else 0)) 8

/-- An image source of R361. -/
def srcWord (x : ImgSrc) : Nat := match x with | .pantry => 0 | .device a => 2 ^ 63 + a.toNat % 2 ^ 48

/-- Whether a member is the lowest rank of its gang on its core. -/
def State.lowestOnCore (s : State) (k : Nat) : Bool :=
  match (s.gangOf k).members.find? fun m => coreOf m == coreOf k with | some m => m == k | none => false

/-- The first 1,024 bytes: CP state, barriers, image sources (R315). -/
def State.saveHead (s : State) (k size mask ccid : Nat) (im : Option Image) : List Byte :=
  let x := s.ctx k
  let bars := (List.range 32).map fun b => s.bar (coreOf k * 32 + b)
  let mine := fun (b : Barrier) => s.lowestOnCore k && b.gang == some x.gang
  let barMask := (List.range 32).foldl (fun m i => if mine (bars.getD i {}) then m + 2 ^ i else m) 0
  let srcs := match im with | some i => srcWord i.src :: (i.patches.take 23).map fun (p : Nat × ImgSrc) => srcWord p.2 | none => []
  toBytes (size * 2 ^ 32 + ccid * 2 ^ 16 + mask * 2 ^ 12) 8
    ++ toBytes ((if x.event then 2 ^ 33 else 0) + (if x.handler then 2 ^ 32 else 0) + x.pc.toNat % 2 ^ 32) 8
    ++ toBytes (x.p.toNat / 2) 8
    ++ (x.g.toList.drop 1).flatMap (fun v => toBytes v.toNat 8)
    ++ x.h.toList.flatMap (s.saveHandle k)
    ++ [x.trapCause, x.trapPc, x.trapAddr, x.trapVec, x.fxFlags.zeroExtend 64, x.fxMode.zeroExtend 64].flatMap (fun v => toBytes v.toNat 8)
    ++ toBytes barMask 8
    ++ bars.flatMap (fun b => toBytes (if mine b then (if b.phase then 2 ^ 12 else 0) + b.expected.toNat * 64 + b.arrivals.toNat else 0) 2)
    ++ (List.range 24).flatMap (fun i => toBytes (srcs.getD i 0) 8)
    ++ zeroBytes 184

/-- The four queues of an element in the order N, E, S, W. -/
def Elem.queues (e : Elem) : List Queue := [e.qN, e.qE, e.qS, e.qW]

/-- The elements of a quadrant, row-major. -/
def State.quadElems (s : State) (core q : Nat) : List Elem :=
  (List.range 1024).map fun i => s.elem (elemKey core (q / 2 * 32 + i / 32) (q % 2 * 32 + i % 32))

/-- Numbers of 37 bits packed from the lowest bit on. -/
def packTokens (l : List Tok) : Nat := l.foldr (fun t n => n * 2 ^ 37 + t.tag.toNat * 2 ^ 32 + t.data.toNat) 0

/-- An engine record of a section (R315). -/
def saveEngine (g : Engine) : List Byte :=
  let first : Nat :=
    if g.record.isEmpty then 0
    else match g.src with
      | .pantry n => 2 ^ 63 + n % 1024
      | .device dpa => dpa % 2 ^ 52
      | .tile page off => 2 ^ 62 + page % 2 ^ 37 * 2 ^ 16 + off % 2 ^ 16
  let slot := fun (h : Option Handle) (r : Nat) => if h.isSome then 16 + r else 0
  toBytes first 8 ++ toBytes (g.n % 2 ^ 32 * 2 ^ 32 + slot g.slot0 g.reg0 + slot g.slot1 g.reg1 * 32) 8

/-- The word counter of an image modulo II (R115); before the proof wave the field holds the value it will start at. -/
def State.counter (s : State) (core : Nat) (im : Image) : Nat :=
  ((if im.proved then (s.cyc core : Int) - im.counterBase else im.counterBase) % (im.img.ii : Int)).toNat

/-- What the 64 bytes of island state record (R315): of each attached island the latch of each bank and the bank of the last
task. -/
def Island.stateWords (i : Island) : List Nat :=
  let l := fun (x : Option Latch) => match x with | some l => [1, l.cls, l.sA.toNat, l.sB.toNat] | none => [0, 0, 0, 0]
  l i.lat0 ++ l i.lat1 ++ [if i.lastBank then 1 else 0]

/-- A quadrant's section (R315). The spec gives no layout within the 64 bytes of island state: each byte is a free value of
what they record (log 34). -/
def State.saveSection (s : State) (core q : Nat) (im : Option Image) : List Byte :=
  let es := s.quadElems core q
  let toks := es.flatMap fun e => e.queues.flatMap (·.toks)
  let tlen := (37 * toks.length + 511) / 512 * 64
  let isl := [2 * q, 2 * q + 1].map fun i => tgetD s.islands (core * 8 + i) {}
  let bank := fun (b : Tab W32) => (List.range 16384).flatMap fun p => toBytes (tgetD b p 0).toNat 4
  let trigRow := if q / 2 = 0 then 0 else 63
  let opened := fun (i : Image) => if (s.gang (s.ctx i.ctx).gang).closing.isSome then i.wasOpen else i.portsOpen
  toBytes (match im with | some i => s.counter core i * 16 + (if opened i then 8 else 0) | none => 0) 8
    ++ toBytes (match im with | some i => i.flags.toNat | none => 0) 8
    ++ (match im with
        | some i => toBytes i.patches.length 2 ++ (List.range 23).flatMap fun n => toBytes ((i.patches.getD n (0, .pantry)).1) 2
        | none => zeroBytes 48)
    ++ (List.range 4).flatMap (fun v => saveEngine (s.engine (core * 16 + engBase q + v)))
    ++ (List.range 32).flatMap (fun c => toBytes (s.elem (elemKey core trigRow (q % 2 * 32 + c))).preds.toNat 1)
    ++ es.flatMap (fun e => toBytes e.lreg.toNat 4 ++ toBytes e.prev.toNat 4)
    ++ es.flatMap (fun e => toBytes ((e.queues.zip (List.range 4)).foldl (fun n x => n + (2 ^ x.1.toks.length - 1) * 2 ^ (4 * x.2)) 0) 2)
    ++ toBytes (packTokens toks) tlen
    ++ (List.range 64).map (Config.islandByte (isl.flatMap Island.stateWords))
    ++ isl.flatMap (fun i => (if i.lat0.isSome then bank i.bank0 else []) ++ (if i.lat1.isSome then bank i.bank1 else []))

/-- The save image of a context for some physical quadrants: its image fields describe what the region's last GLOAD loaded
(R263, R315, R361). -/
def State.saveBytes (s : State) (k : Nat) (qs : List Nat) : List Byte :=
  let core := coreOf k
  let im := (s.ctx k).lastLoad.bind fun i => tget? s.images i
  let body := qs.flatMap fun q => s.saveSection core q ((s.imageAt core q).map (·.2))
  let mask := qs.foldl (fun m q => m + 2 ^ q) 0
  s.saveHead k (1024 + body.length) mask ((im.map (·.img.ccid)).getD 0) im ++ body

end Sys2Proof.Machine
end

