-- ==== Sys2Proof/Machine/Unkar.lean ====
section
/-! DEFINITION. Unkar graphs (R331 to R333): how a graph is read, and the physical image that a placement makes of it. The
placement is a free value (log 8); what a derived image holds follows from it. -/

namespace Sys2Proof.Machine
open Sys2Proof

/-- A node of a graph (R332): trigger mode, placement class, words. -/
structure UNode where
  trig : Bool
  cls : Nat
  words : List Word
  deriving DecidableEq, Repr

/-- A graph (R332). -/
structure Unkar where
  ccid : Nat
  chan : List Word
  wins : List Word
  nodes : List UNode
  edges : List Word
  deriving DecidableEq, Repr

/-- The nodes of a graph, and the edges that follow them; none when it is too short or a zero field is not
zero. -/
def unkarNodes (l : List Word) : Nat → Option (List UNode × List Word)
  | 0 => some ([], l)
  | n + 1 =>
    match l with
    | [] => none
    | h :: r =>
      let m := if h.getLsbD 63 then 8 else (h.extractLsb' 56 4).toNat + 1
      if r.length < m ∨ h.extractLsb' 0 56 ≠ 0 then none
      else (unkarNodes (r.drop m) n).map fun x => (⟨h.getLsbD 63, (h.extractLsb' 60 3).toNat, r.take m⟩ :: x.1, x.2)

/-- The ends of an edge: node and side, node 0xFFFF a port; the port's edge and k. -/
def edgeSrc (e : Word) : Nat × Nat := ((e.extractLsb' 48 16).toNat, (e.extractLsb' 46 2).toNat)
def edgeDst (e : Word) : Nat × Nat := ((e.extractLsb' 30 16).toNat, (e.extractLsb' 28 2).toNat)
def edgePort (e : Word) : Nat × Nat := ((e.extractLsb' 26 2).toNat, (e.extractLsb' 21 5).toNat)

/-- Whether an edge keeps R332: one end at most is a port, and only then the port field may be nonzero. -/
def edgeOk (e : Word) : Bool :=
  let s := (edgeSrc e).1 == 0xFFFF
  let t := (edgeDst e).1 == 0xFFFF
  !(s && t) && (s || t || e.extractLsb' 21 7 == 0) && e.extractLsb' 0 21 == 0

/-- Read a graph: none where it is not laid out as R332 says, a zero field is not zero, or an edge makes it unusable. -/
def parseUnkar (g : List Word) : Option Unkar :=
  let h := g.getD 0 0
  if g.length < 25 ∨ h.extractLsb' 0 16 ≠ 0 then none
  else
    match unkarNodes (g.drop 25) (h.extractLsb' 48 16).toNat with
    | none => none
    | some (ns, es) =>
      if es.length == (h.extractLsb' 32 16).toNat && es.all edgeOk then
        some ⟨(h.extractLsb' 16 16).toNat, (g.drop 1).take 8, (g.drop 9).take 16, ns, es⟩
      else none

/-- Whether an element at grid coordinates is of a placement class (R332). -/
def classPlace (cls row col : Nat) : Bool :=
  match cls with
  | 0 => true
  | 1 => row == 0 || row == 63
  | 2 => placeOk row col 0x1B
  | 3 => placeOk row col 0x1C
  | 4 => placeOk row col 0x20
  | _ => false

/-- The side of an element that faces a neighbour. -/
def sideTo (rows cols p m : Nat) : Option Nat := (List.range 4).find? fun d => nbOf rows cols p d == some m

/-- What a chain of pass drives ends in: a queue of an element, or a port on a side of the region. -/
inductive ChainEnd where
  | elem (p side : Nat)
  | port (side k : Nat)
  deriving DecidableEq, Repr

/-- Whether an element's outward side is a port (R124, R332). -/
def isPort (rows cols p side k : Nat) : Bool :=
  (nbOf rows cols p side).isNone && (if side % 2 = 0 then p % 64 % 32 else p / 64 % 32) == k

/-- The passes of a chain: element, queue passed, side driven. `q` is the queue on which what comes next is entered. None
where the chain does not lead from neighbour to neighbour into its end. -/
def chainPasses (rows cols : Nat) (fin : ChainEnd) (q : Nat) (l : List Nat) : Option (List (Nat × Nat × Nat)) :=
  match l with
  | [] => match fin with | .elem _ side => if q = side then some [] else none | .port _ _ => some []
  | p :: r =>
    let d := match r, fin with
      | m :: _, _ => sideTo rows cols p m
      | [], .elem m _ => sideTo rows cols p m
      | [], .port side k => if isPort rows cols p side k then some side else none
    match d with
    | none => none
    | some d => (chainPasses rows cols fin (oppN d) r).map fun x => (p, q, d) :: x

/-- The passes that serve an edge, from its source: a node's side, or a port. -/
def edgePasses (rows cols : Nat) (nodes : List Nat) (e : Word) (chain : List Nat) : Option (List (Nat × Nat × Nat)) :=
  let port := edgePort e
  let fin : ChainEnd := if (edgeDst e).1 = 0xFFFF then .port port.1 port.2 else .elem (nodes.getD (edgeDst e).1 0) (edgeDst e).2
  let first := match chain, fin with | p :: _, _ => some p | [], .elem p _ => some p | [], .port _ _ => none
  if (edgeSrc e).1 = 0xFFFF then
    match first with
    | none => none
    | some p => if isPort rows cols p port.1 port.2 then chainPasses rows cols fin port.1 chain else none
  else
    let p := nodes.getD (edgeSrc e).1 0
    match first with
    | none => if (edgeSrc e).2 = port.1 ∧ isPort rows cols p port.1 port.2 = true then some [] else none
    | some m =>
      if nbOf rows cols p (edgeSrc e).2 = some m then chainPasses rows cols fin (oppN (edgeSrc e).2) chain else none

/-- The context word of a pass element: it passes one queue on one side. Which op such a word carries is not in the spec:
an e.mov, whose result goes nowhere (DESIGN CHOICE, log 8). -/
def passWord (q d : Nat) : Word :=
  BitVec.ofNat 64 (0x0F * 2 ^ 57 + q * 2 ^ 54 + 7 * 2 ^ 51 + 7 * 2 ^ 48 + (2 + q) * 2 ^ (45 - 3 * d))

/-- The passes of every edge, in order. -/
def allPasses (rows cols : Nat) (nodes : List Nat) : List (Word × List Nat) → Option (List (Nat × Nat × Nat))
  | [] => some []
  | x :: r =>
    match edgePasses rows cols nodes x.1 x.2, allPasses rows cols nodes r with
    | some a, some b => some (a ++ b)
    | _, _ => none

/-- A record of one element. -/
def recOf (trig : Bool) (p : Nat) (ws : List Word) : PatRec := ⟨trig, [⟨p / 64, p % 64, 1, 1⟩], ws⟩

/-- Whether the native elements that a numbering gives the ends of an edge are joined as the edge says: neighbours, a port,
or, over elements that are no nodes, some other way (R332, R333). -/
def homeEdge (rows cols : Nat) (home : List Nat) (e : Word) : Bool :=
  let port := edgePort e
  let src := edgeSrc e
  let dst := edgeDst e
  if src.1 = 0xFFFF then
    match nbOf rows cols (home.getD dst.1 0) dst.2 with
    | none => dst.2 == port.1 && isPort rows cols (home.getD dst.1 0) port.1 port.2
    | some m => !home.contains m
  else
    match nbOf rows cols (home.getD src.1 0) src.2 with
    | none => dst.1 == 0xFFFF && src.2 == port.1 && isPort rows cols (home.getD src.1 0) port.1 port.2
    | some m => !home.contains m || dst.1 != 0xFFFF && home.getD dst.1 0 == m && dst.2 == oppN src.2

/-- Whether a numbering of a graph's nodes is one of its native image: each node has an element of its own, which holds its
words, and each edge joins the elements of its nodes (R331, R333). -/
def Unkar.homeOk (u : Unkar) (home : List Nat) (nat : ImgData) : Bool :=
  home.length == u.nodes.length && home.eraseDups.length == home.length
    && ((u.nodes.zip home).all fun x => tget? nat.elems x.2 == some ⟨x.1.trig, x.1.words⟩)
    && u.edges.all (homeEdge nat.rows nat.cols home)

/-- The derived image of a graph under a placement, in a region of a shape and an origin (R331, R332): the nodes' words on
their elements, a pass element for each place of a chain. It keeps II, C and the configuration id of the native image.
None where the placement is no placement of the graph: a node off its class, an element used twice, a broken chain, a
numbering that is none of the native image. -/
def placeUnkar (u : Unkar) (m : Config.UnkarMap) (nat : ImgData) (rows cols r0 c0 : Nat) : Option ImgData :=
  let placed := m.nodes.length == u.nodes.length && m.chains.length == u.edges.length && u.homeOk m.home nat
    && ((u.nodes.zip m.nodes).all fun x => classPlace x.1.cls (r0 + x.2 / 64) (c0 + x.2 % 64) && decide (x.2 / 64 < rows) && decide (x.2 % 64 < cols))
    && (m.nodes ++ m.chains.flatten).eraseDups.length == (m.nodes ++ m.chains.flatten).length
  if !placed then none
  else
    (allPasses rows cols m.nodes (u.edges.zip m.chains)).map fun ps =>
      { nat with rows := rows, cols := cols, row0 := r0, col0 := c0
                 chan := chanOf u.chan, wins := winsOf u.wins, gates := m.gates
                 recs := (u.nodes.zip m.nodes).map (fun x => recOf x.1.trig x.2 x.1.words)
                   ++ ps.map fun p => recOf false p.1 (List.replicate nat.c (passWord p.2.1 p.2.2)) }

/-- The derived image of a patch on a placed target (R333), without routing of its own: the words of each of its nodes go
where the base's placement puts the node that stands for the element they replace. None where an element that it replaces is
none of the base's, or its graph does not hold the words of its native image. -/
def placePatch (u : Unkar) (m : Config.UnkarMap) (nat : ImgData) (rows cols r0 c0 : Nat) : Option ImgData :=
  let els := nat.elems
  if !(u.nodes.map fun n => (n.trig, n.words)).isPerm (els.map fun e => (e.2.trig, e.2.words)) || !els.all fun e => m.home.contains e.1 then
    none
  else
    some { nat with rows := rows, cols := cols, row0 := r0, col0 := c0
                    chan := chanOf u.chan, wins := winsOf u.wins, gates := m.gates
                    recs := els.map fun e => recOf e.2.trig (m.nodes.getD (m.home.idxOf e.1) 0) e.2.words }

end Sys2Proof.Machine
end

