-- ==== Sys2Proof/Machine/Grid.lean ====
section
/-! DEFINITION. The grid instructions (R259 to R264), the loader (R131, R139 to R141) and the proof wave. -/

namespace Sys2Proof.Machine
open Sys2Proof

/-! ### Masks (R234) -/

/-- The physical quadrants of a mask; none for a mask of zero or one that names a quadrant outside the region. -/
def Ctx.maskQuads (x : Ctx) (q : BitVec 4) : Option (List Nat) :=
  let l := (List.range 4).filter fun i => q.getLsbD i
  if l.isEmpty || l.any fun i => decide (x.quads.length ≤ i) then none else some (l.filterMap fun i => x.quads[i]?)

/-- The images that quadrants hold, whole or in part. -/
def State.imagesOn (s : State) (core : Nat) (qs : List Nat) : List (Nat × Image) :=
  s.images.filter fun i => i.1 / 4 == core && i.2.quads.any qs.contains

/-- Whether quadrants cover whole loaded images. -/
def coversWhole (qs : List Nat) (l : List (Nat × Image)) : Bool := l.all fun i => i.2.quads.all qs.contains

/-- A command on quadrants that must cover whole loaded images (R234, R259). -/
def State.withQuads (s : State) (k : Nat) (x : Ctx) (q : BitVec 4) (f : List Nat → List (Nat × Image) → Res) : Res :=
  match x.maskQuads q with
  | none => .trap (.illegal)
  | some qs => let l := s.imagesOn (coreOf k) qs; if coversWhole qs l then f qs l else .trap (.illegal)

/-- The shapes of a region (R114). -/
def isRegion (qs : List Nat) : Bool :=
  [[0], [1], [2], [3], [0, 1], [2, 3], [0, 2], [1, 3], [0, 1, 2, 3]].contains qs

/-- Rows and columns of a region. -/
def regionRows (qs : List Nat) : Nat := if qs.any (· < 2) && qs.any (2 ≤ ·) then 64 else 32
def regionCols (qs : List Nat) : Nat := if qs.any (· % 2 = 0) && qs.any (· % 2 = 1) then 64 else 32

/-! ### Fetching an image (R131, R331) -/

/-- The trap of a failed image check (R134). -/
def imgTrap (e : Nat × Word) : Trap := .illegal e.1 e.2

/-- The trap of a device read of the loader, with the state that its walks have left (R30). -/
def AccErr.trap (e : (State × AccErr) × Word) : State × Trap :=
  match e.1.2 with
  | .dva kind => (e.1.1, .dvaFault kind e.2)
  | _ => (e.1.1, .eccFatal)

/-- Read n doublewords at a device address. -/
def State.readWords (s : State) (k : Nat) (a : Word) (n : Nat) : Except (State × Trap) (State × List Word) :=
  match s.devReadLong k a n with
  | .error e => .error (AccErr.trap e)
  | .ok (s1, bs) => .ok (s1, dwords bs)

/-- Read the pattern records of an image, as many doublewords as each record's own counts say (R130). -/
def State.readRecs (s : State) (k : Nat) (a : Word) (c : Nat) : Nat → Except (State × Trap) (State × List Word)
  | 0 => .ok (s, [])
  | n + 1 =>
    match s.readWords k a 1 with
    | .error t => .error t
    | .ok (s1, h) =>
      let hd := h.headD 0
      let m := (hd.extractLsb' 48 8).toNat + (if hd.getLsbD 63 then 8 else c)
      match s1.readWords k (a + 8) m with
      | .error t => .error t
      | .ok (s2, ws) =>
        match s2.readRecs k (a + BitVec.ofNat 64 (8 + 8 * m)) c n with
        | .error t => .error t
        | .ok (s3, r) => .ok (s3, h ++ ws ++ r)

/-- Read an image at a device address (R125): a descriptor whose counts are out of range is malformed. -/
def State.readImage (s : State) (k : Nat) (a : Word) : Except (State × Trap) (State × List Word) :=
  match s.readWords k a 26 with
  | .error t => .error t
  | .ok (s1, hd) =>
    let dsc := hd.getD 1 0
    let nrec := (dsc.extractLsb' 48 16).toNat
    let ncyc := (dsc.extractLsb' 40 8).toNat
    if nrec = 0 ∨ 4096 < nrec ∨ 16 < ncyc then .error (s1, imgTrap (1, offAddr []))
    else
      match s1.readWords k (a + 208) ncyc with
      | .error t => .error t
      | .ok (s2, cyc) =>
        match s2.readRecs k (a + BitVec.ofNat 64 (208 + 8 * ncyc)) (((hd.getD 0 0).extractLsb' 32 4).toNat + 1) nrec with
        | .error t => .error t
        | .ok (s3, recs) =>
          match s3.readWords k (a + BitVec.ofNat 64 (208 + 8 * ncyc + 8 * recs.length)) 4 with
          | .error t => .error t
          | .ok (s4, sig) => .ok (s4, hd ++ cyc ++ recs ++ sig)

/-- Parse an image whose signature must match; a second fetch reads the same words (R131). -/
def parseSigned (ws : List Word) : Except Trap ImgData :=
  if !imageSigned ws then .error .eccFatal
  else match parseImage (ws.take (ws.length - 4)) with | .ok d => .ok d | .error e => .error (imgTrap e)

/-- Whether a region takes the native image as written or translated, rather than a placement (R331). -/
def nativeTarget (qs : List Nat) : Bool := [[0], [1], [0, 1], [0, 2], [1, 3], [0, 1, 2, 3]].contains qs

/-- The physical image that a pantry entry gives for a region (R331, R333): the native one, or what the placement of its
Unkar graph makes of it, a patch under its base's placement (log 8). -/
def Pantry.physical (p : Pantry) (entry : Nat) (qs : List Nat) : Except Trap ImgData :=
  let e := tgetD p.grids entry {}
  let own := tgetD p.unkar entry []
  let base := if e.base = 0 then own else tgetD p.unkar e.base []
  match parseSigned e.words with
  | .error t => .error t
  | .ok d =>
    if nativeTarget qs then .ok d
    else
      match parseUnkar own, Config.unkarMap base (qs.foldl (fun m q => m + 2 ^ q) 0) with
      | some u, some m =>
        let r := (regionRows qs, regionCols qs, originRow qs, originCol qs)
        let img := if e.base = 0 then placeUnkar u m d r.1 r.2.1 r.2.2.1 r.2.2.2
          else placePatch u m d r.1 r.2.1 r.2.2.1 r.2.2.2
        (match img with | some d' => .ok d' | none => .error (.illegal))
      | _, _ => .error (.illegal)

/-! ### The configuration cache (R140, R183) -/

/-- The blocks of 4 KiB that an image's words take. -/
def ImgData.blocks (d : ImgData) : Nat := (8 * (d.recs.foldl (fun n r => n + r.words.length) 0) + 4095) / 4096

/-- The same, of a cached image. -/
def CfgEnt.blocks (c : CfgEnt) : Nat := c.img.blocks

/-- The regions that load an image as it stands: all of a native shape, or the one it is placed for (R183, R331). -/
def cfgTargets (qs : List Nat) : List (List Nat) :=
  if nativeTarget qs then
    [[0], [1], [0, 1], [0, 2], [1, 3], [0, 1, 2, 3]].filter fun t => regionRows t == regionRows qs && regionCols t == regionCols qs
  else [qs]

/-- The image of a core's configuration cache for a load. -/
def State.cfgHit (s : State) (core launch entry : Nat) (qs : List Nat) : Option CfgEnt :=
  s.cfg.find? fun c => c.core == core && c.launch == launch && c.src == .pantry && c.entry == entry && c.targets.contains qs

/-- Whether a region's configuration is pinned: from its proof wave until a GLOAD, GKILL or release (R140), and while the wave of its
load has yet to complete (DESIGN CHOICE, log 65). -/
def Image.holds (im : Image) : Bool := im.active || !im.proved

/-- Whether a cached image is the configuration of a region. That of a patched region is neither its base nor a patch but what
they make together, with the region's own words (R139): it takes blocks of its own (DESIGN CHOICE, log 65). -/
def State.cfgIs (s : State) (i : Nat × Image) (c : CfgEnt) : Bool :=
  i.1 / 4 == c.core && s.launchOf i.2.ctx == c.launch && c.targets.contains i.2.quads && i.2.patches.isEmpty
    && i.2.src == c.src && (c.src != .pantry || c.entry == i.2.img.ccid)

/-- Whether a cached image is pinned (R140). -/
def State.cfgPinned (s : State) (c : CfgEnt) : Bool := s.images.any fun i => i.2.holds && s.cfgIs i c

/-- The blocks of a core's cache that are pinned: cached images, and configurations of regions that no cached image is (R140). -/
def State.cfgHeld (s : State) (core : Nat) (l : List CfgEnt) : Nat :=
  ((l.filter fun c => c.core == core && s.cfgPinned c).map (·.blocks)).sum
    + ((s.images.filter fun i => i.1 / 4 == core && i.2.holds && !l.any (s.cfgIs i)).map (·.2.img.blocks)).sum

/-- Keep the unpinned images of a core that fit in some blocks, the last used first: from the first that does not fit on, none
is kept (R140). -/
def State.cfgKeep (s : State) (core : Nat) : List CfgEnt → Nat → List CfgEnt
  | [], _ => []
  | c :: r, room =>
    if c.core ≠ core ∨ s.cfgPinned c then c :: s.cfgKeep core r room
    else if c.blocks ≤ room then c :: s.cfgKeep core r (room - c.blocks)
    else s.cfgKeep core r 0

/-- Drop the least recently used unpinned images of a core until its cache holds 256 blocks at most, the pinned ones counted
(R140); the list is in the order of last use. -/
def State.cfgTrim (s : State) (core : Nat) (l : List CfgEnt) : List CfgEnt :=
  s.cfgKeep core l (256 - s.cfgHeld core l)

/-- An image enters a core's configuration cache, or is used there again (R140). -/
def State.cfgPut (s : State) (core launch : Nat) (src : ImgSrc) (entry : Nat) (qs : List Nat) (d : ImgData) : State :=
  let e : CfgEnt := ⟨core, launch, src, entry, cfgTargets qs, d⟩
  let same := fun (c : CfgEnt) => c.core == core && c.launch == launch && c.src == src && c.entry == entry && c.targets == e.targets
  { s with cfg := s.cfgTrim core (e :: s.cfg.filter fun c => !same c) }

/-- The images of a launch's pantry for a region that a core's configuration cache lacks. Which of a pantry's images an
operator needs the spec does not say: DESIGN CHOICE, all of the region's shape, log 65. -/
def State.cfgLacks (s : State) (core launch : Nat) (qs : List Nat) : List (Nat × ImgData) :=
  let p := (s.launch launch).pantry
  if qs.isEmpty then []
  else
    p.grids.filterMap fun e =>
      match s.cfgHit core launch e.1 qs, p.physical e.1 qs with
      | none, .ok d => if d.rows = regionRows qs ∧ d.cols = regionCols qs then some (e.1, d) else none
      | _, _ => none

/-- The images of a pantry for a region go to a core with the microprogram, as far as its cache lacks them (R183). -/
def State.cfgSend (s : State) (core launch : Nat) (qs : List Nat) : State :=
  (s.cfgLacks core launch qs).foldl (fun s e => s.cfgPut core launch .pantry e.1 qs e.2) s

/-- Fetch an image for a region; its shape must be the region's (R126). One in the core's configuration cache is taken
from it (R142), one at a device address is read there at every load. -/
def State.fetchImage (s : State) (k : Nat) (src : ImgSrc) (entry : Nat) (qs : List Nat) : Except (State × Trap) (State × ImgData) :=
  let shaped := fun (s : State) (d : ImgData) =>
    if d.rows = regionRows qs ∧ d.cols = regionCols qs then .ok (s, d) else .error (s, imgTrap (1, offAddr []))
  match src with
  | .pantry =>
    match s.cfgHit (coreOf k) (s.launchOf k) entry qs with
    | some c => .ok (s, c.img)
    | none =>
      match (s.launch (s.launchOf k)).pantry.physical entry qs with
      | .error t => .error (s, t)
      | .ok d => shaped s d
  | .device a =>
    match s.readImage k a with
    | .error t => .error t
    | .ok (s1, ws) => match parseSigned ws with | .error t => .error (s1, t) | .ok d => shaped s1 d

/-! ### Windows (R128) -/

/-- The windows that some e.st of an image writes. -/
def ImgData.stored (d : ImgData) : List Nat :=
  (d.elems.filter fun e => !e.2.trig).flatMap fun e =>
    (e.2.words.filter fun w => w.extractLsb' 57 7 == 0x21).map fun w => (w.extractLsb' 16 3).toNat

/-- Resolve a window (R128, R32). Each page of a DVA window that some e.st writes is translated as for a write, so that one without
write access traps with kind 2 and D is set at the load: DESIGN CHOICE, R32 names unmapped pages only, log 70. -/
def State.resolveWin (s : State) (k : Nat) (x : Ctx) (stored : Bool) (w : Word × Word) : Except (State × Trap) (State × Win) :=
  if !w.1.getLsbD 63 then .ok (s, {})
  else
    let off := (w.1.extractLsb' 0 48).toInt
    let extent := (w.2.extractLsb' 0 48).toNat
    if w.1.getLsbD 62 then
      let base := x.rg (w.1.extractLsb' 57 5) + BitVec.ofInt 64 off
      match s.rangeOk (coreOf k) (s.launchOf k) base stored ((base.toNat % 4096 + extent + 4095) / 4096) with
      | .error (s1, kind, a) => .error (s1, .dvaFault kind a)
      | .ok s1 => .ok (s1, { valid := true, isDva := true, base := base, extent := extent })
    else
      let h := x.rh (w.1.extractLsb' 57 4)
      let key := pageKey (s.launchOf k) (atomPage h.atom)
      if !h.bound then .error (s, .tileState)
      else
        match s.tile? key with
        | none => .error (s, if stored && !atomWritable h.atom then .tileState else .tileFault 1 (tileAddr key 0))
        | some t =>
          let e := s.dirE key
          let mine := t.st == .empty && atomWritable h.atom && !e.sealed && e.owner == x.gang
          let size := if t.fmt = 10 then 8452 else atomRows h.atom * h.pitch
          if !(mine || (!stored && t.st == .ready)) then .error (s, .tileState)
          else if off < 0 ∨ (size : Int) < off + extent then .error (s, .tileFault 3 (tileAddr key 0))
          else .ok (s, { valid := true, base := BitVec.ofInt 64 ((h.offset 0 0 : Nat) + off), extent := extent, handle := h })

/-- The order in which one of several traps is taken, for those a window meets (R108). -/
def trapRank (t : Trap) : Nat := match t.code with | 6 => 0 | 5 => 1 | _ => 2

/-- Resolve windows in turn: the state, the windows, and of several traps the first of R108. -/
def State.resolveFrom (s : State) (k : Nat) (x : Ctx) (st : List Nat) (d : ImgData) (i : Nat) : Nat → State × List Win × Option Trap
  | 0 => (s, [], none)
  | n + 1 =>
    match s.resolveWin k x (st.contains i) (d.wins.getD i (0, 0)) with
    | .ok (s1, w) => let r := s1.resolveFrom k x st d (i + 1) n; (r.1, w :: r.2.1, r.2.2)
    | .error (s1, t) =>
      let r := s1.resolveFrom k x st d (i + 1) n
      (r.1, {} :: r.2.1, some (match r.2.2 with | some u => if trapRank u < trapRank t then u else t | none => t))

/-- Resolve every window; of several traps the first of R108. -/
def State.resolveWins (s : State) (k : Nat) (x : Ctx) (d : ImgData) : Except (State × Trap) (State × List Win) :=
  let r := s.resolveFrom k x d.stored d 0 8
  match r.2.2 with
  | none => .ok (r.1, r.2.1)
  | some t => .error (r.1, t)

/-! ### Writing an image -/

/-- The (word, rectangle) pairs of an image's records (R142). -/
def ImgData.pairs (d : ImgData) : Nat := d.recs.foldl (fun n r => n + r.words.length * r.rects.length) 0

/-- The core cycle in which a load's last word has been written, taken at the bound of R142 (log 6). -/
def State.waveStart (s : State) (core : Nat) (d : ImgData) : Nat := s.cyc core + 64 + (d.pairs + 31) / 32

/-- The grid key of an element of a region, by its region-relative row·64 + column. -/
def regionElem (core : Nat) (qs : List Nat) (p : Nat) : Nat := elemKey core (originRow qs + p / 64) (originCol qs + p % 64)

/-- What the release of its image leaves of an island: nothing queued, under way or in the decoders, and banks without a partial sum: the
bank of a task under way is zero, without its latch. R260 and R153 do not say what becomes of the work of an island whose quadrant
then holds no image (DESIGN CHOICE, log 86). -/
def Island.unload (i : Island) : Island :=
  let mid := fun (b : Bool) => i.run.any fun u => u.started && hdrBank u.header == b
  { bank0 := if mid false then [] else i.bank0, lat0 := if mid false then none else i.lat0
    bank1 := if mid true then [] else i.bank1, lat1 := if mid true then none else i.lat1, lastBank := i.lastBank }

/-- Release images whole: nothing of theirs is loaded any more, and the islands of their quadrants are at rest (R260). -/
def State.releaseImages (s : State) (l : List (Nat × Image)) : State :=
  { s with
    images := s.images.filter fun i => !(l.map (·.1)).contains i.1
    islands := s.islands.map fun i =>
      if l.any fun x => x.1 / 4 == i.1 / 8 && x.2.quads.contains (i.1 % 8 / 2) then (i.1, i.2.unload) else i }

/-- Write an image into a region (R260 steps 4 to 6): words, cleared element state, islands and scale registers, then
the proof wave. -/
def State.writeImage (s : State) (core k : Nat) (qs : List Nat) (d : ImgData) (src : ImgSrc) (wins : List Win) (gates : List Gate) : State :=
  let ik := core * 4 + qs.headD 0
  let elems := s.elems.filter fun e => !(e.1 / 4096 == core && qs.contains (elemQuad e.1))
  let im : Image :=
    { quads := qs, ctx := k, img := d, src := src, wins := wins, gates := gates, waveFrom := s.waveStart (coreOf k) d }
  { s with
    elems := d.elems.foldl (fun t e => tset t (regionElem core qs e.1) { trig := e.2.trig, words := e.2.words }) elems
    exits := s.exits.filter fun e => !(e.1 / 512 == core && qs.contains (e.1 / 128 % 4))
    inPorts := s.inPorts.filter fun e => !(e.1 / 512 == core && qs.contains (e.1 / 128 % 4))
    scales := s.scales.filter fun e => !(e.1 / 64 == core && qs.contains (e.1 / 16 % 4))
    islands := s.islands.filter fun e => !(e.1 / 8 == core && qs.contains (e.1 % 8 / 2))
    images := tset s.images ik im }

/-- GLOAD (R260): quiescence, the image's checks, the windows, then the load; the image is then in the configuration
cache (R140). -/
def State.gloadRes (s : State) (k : Nat) (x : Ctx) (qs : List Nat) (src : ImgSrc) (entry : Nat) : Res :=
  let core := coreOf k
  let old := s.imagesOn core qs
  if !old.all fun i => s.quiescent i.1 i.2 then .wait s .other
  else
    match s.fetchImage k src entry qs with
    | .error (s1, t) => .trapIn s1 t
    | .ok (s1, d) =>
      match checkImage d (originRow qs) (originCol qs) with
      | .error e => .trapIn s1 (imgTrap e)
      | .ok gates =>
        match s1.resolveWins k x d with
        | .error (s2, t) => .trapIn s2 t
        | .ok (s2, wins) =>
          let s3 := (s2.releaseImages old).writeImage core k qs d src wins gates
          .done ((s3.cfgPut core (s.launchOf k) src entry qs d).updCtx k fun x => { x with lastLoad := some (core * 4 + qs.headD 0) })

/-- The quadrants of a GLOAD: a region's shape inside the context's region (R260). -/
def State.gloadQuads (x : Ctx) (q : BitVec 4) (f : List Nat → Res) : Res :=
  match x.maskQuads q with
  | none => .trap (.illegal)
  | some qs => if isRegion qs then f qs else .trap (.illegal)

/-- GLOAD from a device address (R260). -/
def execGload (c : Guard) (q : BitVec 4) (a : BitVec 5) (s : State) : Host.Outcome State Fault Refusal :=
  s.cp c fun k x => State.gloadQuads x q fun qs =>
    if (x.rg a).toNat % 64 != 0 then .trap (.misalign (x.rg a)) else s.gloadRes k x qs (.device (x.rg a)) 0

/-- A pantry entry that exists (R234). -/
def State.gridEntry (s : State) (k : Nat) (entry : BitVec 10) (f : GridEnt → Res) : Res :=
  match tget? (s.launch (s.launchOf k)).pantry.grids entry.toNat with
  | some e => if entry = 0 then .trap (.illegal) else f e
  | none => .trap (.illegal)

/-- GLOAD from the pantry (R260). -/
def execGloadPantry (c : Guard) (q : BitVec 4) (entry : BitVec 10) (s : State) : Host.Outcome State Fault Refusal :=
  s.cp c fun k x => State.gloadQuads x q fun qs => s.gridEntry k entry fun _ => s.gloadRes k x qs .pantry entry.toNat

/-! ### GPATCH (R139, R260) -/

/-- The patch list after one more application (R260). -/
def patchList (l : List (Nat × ImgSrc)) (p : Nat × ImgSrc) : List (Nat × ImgSrc) := l.filter (· != p) ++ [p]

/-- The gates of a patched image: a gate that stays keeps its count. -/
def keepCounts (old new : List Gate) : List Gate :=
  new.map fun g => match old.find? fun o => o.row == g.row && o.col == g.col && o.inSide == g.inSide && o.outSide == g.outSide with
    | some o => { g with count := o.count }
    | none => g

/-- Write a patched image's words and start its proof wave; queues, registers, predicates, counters, flags, scales and
windows stay (R139). -/
def State.writePatch (s : State) (ik : Nat) (im : Image) (d p : ImgData) (gates : List Gate) (patches : List (Nat × ImgSrc)) : State :=
  let core := ik / 4
  let named := p.recs.flatMap PatRec.cells
  { s with
    elems := (d.elems.filter fun e => named.contains e.1).foldl (fun t e =>
      tupd t (regionElem core im.quads e.1) {} fun x => { x with trig := e.2.trig, words := e.2.words }) s.elems
    images := tset s.images ik
      { im with img := d, patches := patches, gates := keepCounts im.gates gates, proved := false, counterBase := 0,
                waveFrom := s.waveStart (ik / 4) p } }

/-- Whether a pantry patch's base is the image that the region's last GLOAD loaded (R260). -/
def State.baseOk (s : State) (k : Nat) (im : Image) (src : ImgSrc) (entry : Nat) : Bool :=
  src != .pantry || (im.src == .pantry && im.img.ccid == (tgetD (s.launch (s.launchOf k)).pantry.grids entry {}).base)

/-- GPATCH of a loaded image (R139, R260): it waits until no firing is in flight and no element can fire. -/
def State.patchImage (s : State) (k ik : Nat) (im : Image) (src : ImgSrc) (entry : Nat) : Res :=
  if !s.still ik im then .wait s .other
  else
    match s.fetchImage k src entry im.quads with
    | .error (s1, t) => .trapIn s1 t
    | .ok (s1, p) =>
      match im.img.patched p with
      | .error e => .trapIn s1 (imgTrap e)
      | .ok d =>
        let patches := patchList im.patches (p.ccid, src)
        if s.effects k && decide (23 < patches.length) then .trapIn s1 (.illegal 12)
        else
          match checkImage d (originRow im.quads) (originCol im.quads) with
          | .error e => .trapIn s1 (imgTrap e)
          | .ok gates => .done ((s1.writePatch ik im d p gates patches).cfgPut (ik / 4) (s.launchOf k) src entry im.quads p)

/-- GPATCH (R260): ILLEGAL where the mask covers no one loaded image or the base is another, before MISALIGN (R108). -/
def State.gpatchRes (s : State) (k : Nat) (qs : List Nat) (l : List (Nat × Image)) (src : ImgSrc) (entry : Nat) : Res :=
  match l with
  | [(ik, im)] =>
    if im.quads != qs || !s.baseOk k im src entry then .trap (.illegal)
    else
      match src with
      | .device a => if a.toNat % 64 != 0 then .trap (.misalign a) else s.patchImage k ik im src entry
      | .pantry => s.patchImage k ik im src entry
  | _ => .trap (.illegal)

/-- GPATCH from a device address. -/
def execGpatch (c : Guard) (q : BitVec 4) (a : BitVec 5) (s : State) : Host.Outcome State Fault Refusal :=
  s.cp c fun k x => s.withQuads k x q fun qs l => s.gpatchRes k qs l (.device (x.rg a)) 0

/-- GPATCH from the pantry. -/
def execGpatchPantry (c : Guard) (q : BitVec 4) (entry : BitVec 10) (s : State) : Host.Outcome State Fault Refusal :=
  s.cp c fun k x => s.withQuads k x q fun qs l => s.gridEntry k entry fun e =>
    if e.base = 0 then .trap (.illegal) else s.gpatchRes k qs l .pantry entry.toNat

/-! ### The proof wave (R141) -/

/-- The core cycles that the wave takes from the origin to the far corner (R141, R142). -/
def Image.waveTime (im : Image) : Nat := im.img.rows + im.img.cols - 2

/-- The proof wave of a region reaches its far corner (R115, R141, R262, R288): elements are enabled, the counter starts,
the ports open, halted elements go on. -/
def execProofWave (core : Nat) (q : BitVec 4) (s : State) : Host.Outcome State Fault Refusal :=
  let qs := (List.range 4).filter fun i => q.getLsbD i
  let ik := core * 4 + qs.headD 0
  match tget? s.images ik with
  | none => .next s
  | some im =>
    if im.quads != qs || im.proved || decide (s.cyc core < im.waveFrom + im.waveTime) then .next s
    else
      .next { s with
        images := tset s.images ik
          { im with proved := true, killed := false, active := true, portsOpen := im.portsOpen || !im.keepPorts, keepPorts := false,
                    counterBase := (s.cyc core : Int) - im.counterBase }
        elems := s.elems.map fun e =>
          if e.1 / 4096 == core && qs.contains (elemQuad e.1) then (e.1, { e.2 with halted := false }) else e }

/-- GPROOF waits until the latest proof wave of every named quadrant has completed (R261). -/
def execGproof (c : Guard) (q : BitVec 4) (s : State) : Host.Outcome State Fault Refusal :=
  s.cp c fun k x => s.withQuads k x q fun _ l => if l.all fun i => i.2.proved then .done s else .wait s .other

/-! ### GSEED, GDRAIN, GWAIT, GKILL (R261 to R263) -/

/-- GSEED (R261): the token enters in its turn among the words that have come to the port, as an engine word would: one whose tag
has no valid entry the port holds at its head, and the GSEED is over (R124; DEDUCED, log 64). -/
def execGseed (c : Guard) (q : BitVec 4) (a b : BitVec 5) (s : State) : Host.Outcome State Fault Refusal :=
  s.cp c fun k x =>
    match x.maskQuads q with
    | some [p] =>
      let v := x.rg b
      let edge := (v.extractLsb' 5 2).toNat
      let inner := match acrossEdge p edge with | some n => x.quads.contains n | none => false
      if v &&& ~~~(0x1F7F : Word) != 0 || v.extractLsb' 8 5 == 31 || inner then .trap (.illegal)
      else if (s.imageAt (coreOf k) p).isNone then .trap (.illegal)
      else
        let port := exitKey (coreOf k) p edge (v.extractLsb' 0 5).toNat
        let since := match x.wait with | some w => w.since | none => s.clock
        let i := (v.extractLsb' 0 5).toNat
        let t : Tok := ⟨(x.rg a).extractLsb' 0 32, v.extractLsb' 8 5, 0, none⟩
        if s.heldBefore (coreOf k) port since then .wait s (.seed port)
        else
          match s.offerPort (coreOf k) p edge i t with
          | some s1 => .done s1
          | none =>
            let pe := portElem (coreOf k) p edge i
            if s.stopsAt (coreOf k) p edge i t.tag && ((s.elem pe.1).queue pe.2).hasRoom (s.cyc (coreOf k)) then
              .done (s.holdAtPort (coreOf k) p edge i t)
            else .wait s (.seed port)
    | _ => .trap (.illegal)

/-- Close or open the entry ports of images. -/
def State.setPorts (s : State) (l : List (Nat × Image)) (opened : Bool) : State :=
  { s with images := l.foldl (fun t i => tset t i.1 { i.2 with portsOpen := opened }) s.images }

/-- GDRAIN closes the entry ports (R262). -/
def execGdrain (c : Guard) (q : BitVec 4) (s : State) : Host.Outcome State Fault Refusal :=
  s.cp c fun k x => s.withQuads k x q fun _ l => .done (s.setPorts l false)

/-- GDRAIN.open reopens them (R262). -/
def execGdrainOpen (c : Guard) (q : BitVec 4) (s : State) : Host.Outcome State Fault Refusal :=
  s.cp c fun k x => s.withQuads k x q fun _ l => .done (s.setPorts l true)

/-- Wait until every named quadrant is idle (R262). -/
def State.gwaitRes (s : State) (l : List (Nat × Image)) : Res :=
  if l.all fun i => s.idle i.1 i.2 then .done s else .wait s .other

/-- GWAIT: with the ports closed idle already implies the drain marker; with them open it acts as GWAIT.idle (R262). -/
def execGwait (c : Guard) (q : BitVec 4) (s : State) : Host.Outcome State Fault Refusal :=
  s.cp c fun k x => s.withQuads k x q fun _ l => s.gwaitRes l

/-- GWAIT.idle (R262). -/
def execGwaitIdle (c : Guard) (q : BitVec 4) (s : State) : Host.Outcome State Fault Refusal :=
  s.cp c fun k x => s.withQuads k x q fun _ l => s.gwaitRes l

/-- Whether a record has a port or island of some quadrants of a region on either side (R263). -/
def recTouches (quads qs : List Nat) (r : List Word) : Bool :=
  let side := fun (kind : Nat) (sel : BitVec 10) =>
    match kind with
    | 5 => match portOf quads sel with | some (q, _, _) => qs.contains q | none => false
    | 6 => match islandOf quads sel with | some i => qs.contains (i / 2) | none => false
    | _ => false
  side (recSrcKind r) (recSrcSel r) || side (recDstKind r) (recDstSel r)

/-- The words of killed quadrants' exit ports that stand in an engine's receive buffer are never delivered (R64, R139). -/
def State.dropLeft (s : State) (quads qs : List Nat) (e : Nat) : State :=
  let g := s.engine e
  let stays := fun (sel : BitVec 10) => match portOf quads sel with | some (q, _, _) => !qs.contains q | none => true
  let idle := g.st == .idle && recSrcKind g.record == 5 && !stays (recSrcSel g.record)
  if g.left.all (fun w => stays w.1) && (!idle || g.rbuf.isEmpty) then s
  else s.setEngine e { g with left := g.left.filter (fun w => stays w.1), rbuf := if idle then [] else g.rbuf }

/-- GKILL (R139, R153, R263): an access whose firing has happened is performed first, GKILL waits for one that cannot be yet, and
one that ends the gang ends it (R276, R279). It reaches the named quadrants that hold no image too. -/
def execGkill (c : Guard) (q : BitVec 4) (s : State) : Host.Outcome State Fault Refusal :=
  s.cp c fun k x => s.withQuads k x q fun qs l =>
    let r := s.settleAll true l
    match r.2 with
    | some code => .stop (s.abandonErr x.gang code)
    | none =>
    if s.accessStuck true l then .wait s .other
    else
    let s1 := (l.foldl (fun s i => s.killSettled i.1) r.1).killQuads (coreOf k) qs
    .done ((s1.ctxEngines k).foldl (fun s e =>
      (if recTouches x.quads qs (s.engine e).record then s.haltEngine e else s).dropLeft x.quads qs e) s1)

/-! ### GSAVE, GSTALL (R263, R264) -/

/-- A byte list in pieces of eight. -/
def chunks8 (l : List Byte) : List (List Byte) := (List.range (l.length / 8)).map fun i => (l.drop (8 * i)).take 8

/-- GSAVE: ILLEGAL kind 10 outside `effects` operators; waits as GWAIT.idle and until the islands have no task or clear under
way or queued; writes the save image (R153, R263, R315). -/
def execGsave (c : Guard) (q : BitVec 4) (a : BitVec 5) (s : State) : Host.Outcome State Fault Refusal :=
  s.cp c fun k x =>
    if !s.effects k then .trap (.illegal 10)
    else s.withQuads k x q fun qs l =>
      if (x.rg a).toNat % 64 != 0 then .trap (.misalign (x.rg a))
      else if !((l.all fun i => s.idle i.1 i.2) && s.banksRest (coreOf k) qs) then .wait s .other
      else
        match s.devWriteLong k (x.rg a) (chunks8 (s.saveBytes k qs)) with
        | .error (e, at_) => AccErr.res e at_
        | .ok s1 => .done s1

/-- GSTALL (R264). -/
def execGstall (c : Guard) (d a : BitVec 5) (s : State) : Host.Outcome State Fault Refusal :=
  s.cp c fun k x =>
    let v := x.rg a
    let row := (v.extractLsb' 8 6).toNat
    let col := (v.extractLsb' 0 6).toNat
    if v &&& ~~~(0x13F3F : Word) != 0 || x.quads.isEmpty || decide (regionRows x.quads ≤ row) || decide (regionCols x.quads ≤ col) then
      .trap (.illegal)
    else
      let e := s.elem (regionElem (coreOf k) x.quads (row * 64 + col))
      s.setsG k d ((if v.getLsbD 16 then e.stallSp else e.stallOp).zeroExtend 64)

/-- GSTALL.flags: the sticky flags of the one image that the mask covers (R172, R264). -/
def execGstallFlags (c : Guard) (d : BitVec 5) (q : BitVec 4) (s : State) : Host.Outcome State Fault Refusal :=
  s.cp c fun k x => s.withQuads k x q fun _ l =>
    match l with
    | [] => s.setsG k d 0
    | [i] => s.setsG k d (i.2.flags.zeroExtend 64)
    | _ => .trap (.illegal)

end Sys2Proof.Machine
end

