-- ==== Sys2Proof/Machine/Place.lean ====
section
/-! DEFINITION. Placing gangs (R305 to R308, R331): regions an operator may be granted, the fit of a gang, the order of
the queues and what they hold back, stealing. -/

namespace Sys2Proof.Machine
open Sys2Proof

/-! ### Regions (R16, R305, R331) -/

/-- The regions that a grid code may be granted, in the order of R305. -/
def gridShapes (grid : Nat) : List (List Nat) :=
  match grid with
  | 1 => [[0], [1], [2], [3]]
  | 2 => [[0, 1], [2, 3]]
  | 3 => [[0, 2], [1, 3]]
  | 4 => [[0, 1, 2, 3]]
  | _ => [[]]

/-- The grid images that an operator's code names in its GLOADs and GPATCHes from the pantry; an extension word is none
(R101). -/
def imageEntries (ws : List W32) (ext : Bool) : List Nat :=
  match ws with
  | [] => []
  | w :: r =>
    if ext then imageEntries r false
    else
      match decode (wordBytes w) with
      | .ok (.gloadPantry _ _ entry, _) => entry.toNat :: imageEntries r false
      | .ok (.gpatchPantry _ _ entry, _) => entry.toNat :: imageEntries r false
      | _ => imageEntries r (isTwoWords w)

/-- Whether a target takes one image: the derived image passes R134, a patch is derived at all (R333) and is checked with its
base at GPATCH; a signature is left to GLOAD (R131, R331). -/
def Pantry.takes (p : Pantry) (qs : List Nat) (entry : Nat) : Bool :=
  match tget? p.grids entry with
  | none => true
  | some g =>
    match parseSigned g.words with
    | .error t => t.code == 0x0B || g.base != 0
    | .ok d =>
      if d.rows != regionRows qs || d.cols != regionCols qs then true
      else
        match p.physical entry qs with
        | .error _ => false
        | .ok d' => g.base != 0 || (match checkImage d' (originRow qs) (originCol qs) with | .ok _ => true | .error _ => false)

/-- The targets of an operator that all its images can take (R305, R331). -/
def Pantry.targets (p : Pantry) (o : Oper) : List (List Nat) :=
  if o.grid = 0 then [[]]
  else (gridShapes o.grid).filter fun qs => (imageEntries o.code false).all (p.takes qs)

/-! ### The fit of a gang (R305, R306) -/

/-- What is taken: contexts, quadrants (core·4 + quadrant), frames in use by core, and cores held back or closed to
placement. -/
structure Busy where
  ctxs : List Nat
  quads : List Nat
  frames : Nat → Nat
  closed : List Nat

/-- The frames that a member needs reserved (R305). -/
def Oper.reserve (o : Oper) (qs : List Nat) : Nat := if o.effects && !qs.isEmpty then 1 + 144 * qs.length else 0

/-- The context and region that a core gives a member, if it can take one (R305). -/
def Busy.take (b : Busy) (o : Oper) (targets : List (List Nat)) (core : Nat) : Option (Nat × List Nat) :=
  if b.closed.contains core then none
  else
    match (List.range 8).find? fun i => !b.ctxs.contains (core * 8 + i) with
    | none => none
    | some i =>
      (targets.find? fun qs => qs.all (fun q => !b.quads.contains (core * 4 + q))
        && decide (b.frames core + o.reserve qs ≤ 4096)).map fun qs => (core * 8 + i, qs)

/-- What is taken after one more member. -/
def Busy.add (b : Busy) (o : Oper) (m : Nat × List Nat) : Busy :=
  { b with
    ctxs := m.1 :: b.ctxs, quads := m.2.map (coreOf m.1 * 4 + ·) ++ b.quads
    frames := fun c => b.frames c + (if c = coreOf m.1 then o.reserve m.2 else 0) }

/-- Place n further members in rank order, each on the first core that can take it (R306). -/
def Busy.fit (b : Busy) (o : Oper) (targets : List (List Nat)) (cores : List Nat) : Nat → Option (List (Nat × List Nat))
  | 0 => some []
  | n + 1 =>
    match cores.findSome? fun c => b.take o targets c with
    | none => none
    | some m => ((b.add o m).fit o targets cores n).map (m :: ·)

/-- The cores in the order of R306, from the leader's core. -/
def placeOrder (cores : List Nat) (lead : Nat) : List Nat :=
  [lead] ++ cores.filter (fun c => c != lead && c / 4 == lead / 4)
    ++ cores.filter (fun c => c / 4 != lead / 4 && c / 16 == lead / 16) ++ cores.filter (fun c => c / 16 != lead / 16)

/-- Place a whole gang with its leader on a core (R306). -/
def Busy.gang (b : Busy) (o : Oper) (targets : List (List Nat)) (cores : List Nat) (lead : Nat) : Option (List (Nat × List Nat)) :=
  match b.take o targets lead with
  | none => none
  | some m => ((b.add o m).fit o targets (placeOrder cores lead) (o.gang - 1)).map (m :: ·)

/-- Whether every engine of a quadrant is idle (R305). -/
def State.enginesIdle (s : State) (core q : Nat) : Bool :=
  (List.range 4).all fun v => (s.engine (core * 16 + engBase q + v)).st == .idle

/-- What is taken in a state. -/
def State.busyNow (s : State) (p : Nat) (held : List Nat) : Busy :=
  { ctxs := (s.ctxs.filter (·.2.status != .free)).map (·.1)
    quads := s.ctxs.flatMap (fun e => e.2.quads.map (coreOf e.1 * 4 + ·))
      ++ (s.partCores p).flatMap fun c => ((List.range 4).filter fun q => !s.enginesIdle c q).map (c * 4 + ·)
    frames := s.usedFrames
    closed := held ++ (List.range 64).filter fun c => !(s.partCores p).contains c || (s.core c).fenced }

/-- What some gangs alone take, the frames that they have pinned with it: all else counted as free (R85, R193, R305). -/
def State.busyOf (s : State) (p : Nat) (gks : List Nat) : Busy :=
  { ctxs := (s.ctxs.filter fun e => e.2.status != .free && gks.contains e.2.gang).map (·.1)
    quads := (s.ctxs.filter fun e => gks.contains e.2.gang).flatMap fun e => e.2.quads.map (coreOf e.1 * 4 + ·)
    frames := fun c => s.frames.foldl (fun n f =>
      if f.1 / 4096 = c then
        match f.2 with
        | .reserved k => if gks.contains (s.ctx k).gang then n + 1 else n
        | .page key pins => if gks.contains (s.dirE key).owner || pins.any (fun k => gks.contains (s.ctx k).gang) then n + 1 else n
      else n) 0
    closed := (List.range 64).filter fun c => !(s.partCores p).contains c || (s.core c).fenced }

/-- The operator of an application (R181). -/
def State.raOper (s : State) (i : Nat) : Option Oper :=
  tget? (s.launch ((s.ra i).part * 4 + (s.ra i).slot)).pantry.ops ((s.raOp i).extractLsb' 32 16).toNat

/-- Place an application's gang with its leader on a core, given what is taken. -/
def State.fitRa (s : State) (b : Busy) (i lead : Nat) : Option (List (Nat × List Nat)) :=
  let r := s.ra i
  match s.raOper i with
  | none => none
  | some o => b.gang o ((s.launch (r.part * 4 + r.slot)).pantry.targets o) (s.partCores r.part) lead

/-- Whether a gang could be placed on an idle partition, counting only present cores (R305). -/
def State.couldPlace (s : State) (p slot : Nat) (o : Oper) : Bool :=
  let b := s.busyOf p []
  (b.fit o ((s.launch (p * 4 + slot)).pantry.targets o) (s.partCores p) o.gang).isSome

/-! ### The order of the queues and what they hold back (R307) -/

/-- The core whose queue an application is in. -/
def RA.queue (r : RA) : Option Nat := match r.st with | .queued c => some c | _ => none

/-- The queued applications of a partition whose launches may place, in order (R307, R313). -/
def State.queuedRas (s : State) (p : Nat) : List (Nat × RA) :=
  s.raOrder (s.ras.filter fun r => r.2.part == p && r.2.queue.isSome && (s.launch (p * 4 + r.2.slot)).state == 2)

/-- The first in the order of each cluster. -/
def State.fronts (s : State) (p : Nat) : List (Nat × RA) :=
  let l := s.queuedRas p
  l.filter fun r => ((l.find? fun x => x.2.queue.map (· / 4) == r.2.queue.map (· / 4)).map (·.1)) == some r.1

/-- The cores that hold back for a gang at the front: those of its cluster, and of its die where its members may reach
beyond the cluster (R307; log 53). -/
def State.reach (s : State) (i lead : Nat) : List Nat :=
  let n := match s.raOper i with | some o => o.gang | none => 1
  (List.range 64).filter fun c => if n ≤ 1 then c / 4 == lead / 4 else c / 16 == lead / 16

/-- The cores held back for the gangs at some fronts, in order, each with the application that it is held for: that of the first
gang that cannot start and could use it (R307). -/
def State.holds (s : State) (p : Nat) (l : List (Nat × RA)) (held : List (Nat × Nat)) : List (Nat × Nat) :=
  match l with
  | [] => held
  | f :: r =>
    let lead := f.2.queue.getD 0
    let cores := held.map (·.1)
    if (s.fitRa (s.busyNow p cores) f.1 lead).isSome then s.holds p r held
    else s.holds p r (held ++ ((s.reach f.1 lead).filter fun c => !cores.contains c).map (·, f.1))

/-- The cores that an application may not use: those held back for fronts that come before it (R307). -/
def State.heldFor (s : State) (p : Nat) (x : Nat × RA) : List Nat :=
  (s.holds p ((s.fronts p).filter fun f => f.1 != x.1 && s.raBefore f.2 x.2) []).map (·.1)

/-- The frames of one core that the gang of an application could use: those of as many members as fit on the core (R305,
R307). -/
def State.couldUse (s : State) (i : Nat) : Nat :=
  match s.raOper i with
  | none => 0
  | some o =>
    let qs := ((s.launch ((s.ra i).part * 4 + (s.ra i).slot)).pantry.targets o).headD []
    if qs.isEmpty then 0 else Nat.min o.gang (4 / qs.length) * o.reserve qs

/-- The cores held back in every partition, each with the frames that its gang could use there (R307). -/
def State.heldFrames (s : State) : Tab Nat :=
  s.parts.flatMap fun e => ((s.holds e.1 (s.fronts e.1) []).filter fun h => (s.partCores e.1).contains h.1).map fun h => (h.1, s.couldUse h.2)

/-- Frames are held back, on each core, for the gang that it is held for (R307). -/
def State.holdFrames (s : State) : State :=
  let held := s.heldFrames
  (List.range 64).foldl (fun t c =>
    if (t.core c).framesHeld = tgetD held c 0 then t else t.updCore c fun x => { x with framesHeld := tgetD held c 0 }) s

/-- Where the gang of a queued application is placed, if it is its turn (R306, R307). -/
def State.placement (s : State) (p : Nat) (x : Nat × RA) : Option (List (Nat × List Nat)) :=
  let lead := x.2.queue.getD 0
  let held := s.heldFor p x
  let before := (s.queuedRas p).filter fun y => y.1 != x.1 && s.raBefore y.2 x.2 && y.2.queue.map (· / 4) == some (lead / 4)
  if before.any fun y => (s.fitRa (s.busyNow p held) y.1 (y.2.queue.getD 0)).isSome then none
  else s.fitRa (s.busyNow p held) x.1 lead

/-! ### Taking a place -/

/-- A gang.id that no live gang of the partition has, nor the application's last one, from one on (R96). -/
def State.freeGangId (s : State) (p last from_ : Nat) : Nat → Nat
  | 0 => from_
  | fuel + 1 =>
    let key := p * 65536 + from_
    let next := if from_ + 1 = 65536 then 1 else from_ + 1
    if key == last || (tget? s.gangs key).isSome || (tget? s.saved key).isSome || s.plans.any fun e => e.2.gang == key then
      s.freeGangId p last next fuel
    else from_

/-- Reserve n frames of a core for a member's save image (R305). -/
def State.reserveFrames (s : State) (k : Nat) : Nat → State
  | 0 => s
  | n + 1 =>
    match s.freeFrame (coreOf k) with
    | none => s
    | some f => { s with frames := tset s.frames (coreOf k * 4096 + f) (.reserved k) }.reserveFrames k n

/-- Place the members of a gang: contexts placed, regions and frames taken (R305). -/
def State.takeMembers (s : State) (gk : Nat) (o : Oper) (l : List (Nat × List Nat)) (rank : Nat) : State :=
  match l with
  | [] => s
  | m :: r =>
    let x : Ctx := { status := .placed, gang := gk, rank := rank, quads := m.2 }
    ((s.setCtx m.1 x).reserveFrames m.1 (o.reserve m.2)).takeMembers gk o r (rank + 1)

/-- Place an application's gang (R305, R306): a checkpointed gang keeps its gang.id, any other takes a new one, from a
free value on (log 12). -/
def State.takePlace (s : State) (i : Nat) (l : List (Nat × List Nat)) : State :=
  let r := s.ra i
  match s.raOper i with
  | none => s
  | some o =>
    let id := s.freeGangId r.part r.lastGang (1 + (Config.freeWord s.freeCtr).toNat % 65535) 65536
    let gk := r.saved.getD (r.part * 65536 + id)
    let n := l.length
    let old := r.saved.bind fun k => (tget? s.saved k).map (·.gang)
    let g : Gang :=
      match old with
      | some g => { g with members := l.map (·.1), started := false }
      | none =>
        { part := r.part, slot := r.slot, op := ((s.raOp i).extractLsb' 32 16).toNat, ra := i, effects := o.effects
          members := l.map (·.1), colls := List.replicate n none, ncoll := List.replicate n 0
          commits := List.replicate n false }
    let s1 := (s.setGang gk g).takeMembers gk o l 0
    let s2 := if r.saved.isSome then s1 else { s1 with freeCtr := s1.freeCtr + 1 }
    (s2.setRa i { r with st := .placed gk, gang := gk, lastGang := gk }).fillQueues

/-- The queued application of a launch with its `(` in a cell. -/
def State.raAt (s : State) (p slot cell : Nat) : Option (Nat × RA) :=
  s.ras.find? fun r => r.2.part == p && r.2.slot == slot && r.2.cell == cell

/-- Placement of the gang of the application whose `(` is in a cell (R182, R305 to R307). -/
def execPlaceGang (part slot cell : Nat) (s : State) : Host.Outcome State Fault Refusal :=
  match s.raAt part slot cell with
  | none => .next s
  | some x =>
    if x.2.queue.isNone || (s.launch (part * 4 + slot)).state != 2 then .next s
    else
      match s.placement part x with
      | none => .next s
      | some l => .next (s.takePlace x.1 l)

/-- Stealing of a gang by another core of the cluster (R308). -/
def execSteal (part slot cell core : Nat) (s : State) : Host.Outcome State Fault Refusal :=
  match s.raAt part slot cell with
  | none => .next s
  | some x =>
    match x.2.queue with
    | none => .next s
    | some c =>
      let due := x.2.fast || decide (x.2.since + 10 ≤ s.tick part)
      if c = core ∨ c / 4 ≠ core / 4 ∨ (s.launch (part * 4 + slot)).state ≠ 2 ∨ due = false then .next s
      else
        match s.fitRa (s.busyNow part (s.heldFor part x)) x.1 core with
        | none => .next s
        | some l => .next (s.takePlace x.1 l)

/-- Whether a core lacks a gang's microprogram, or a configuration image for the region of one of its members there (R183). -/
def State.lacks (s : State) (g : Gang) (core : Nat) : Bool :=
  !(s.core core).code.contains (g.part, g.slot, g.op)
    || (g.members.filter fun k => coreOf k == core).any fun k => !(s.cfgLacks core (g.part * 4 + g.slot) (s.ctx k).quads).isEmpty

/-- The multicast of an operator's microprogram and configuration images reaches a core that holds a placed member and lacks
them (R183). -/
def execOperatorLoad (part slot op core : Nat) (s : State) : Host.Outcome State Fault Refusal :=
  let due := s.gangs.filter fun g => g.2.part == part && g.2.slot == slot && g.2.op == op
  let here := due.flatMap fun g => g.2.members.filter fun k => coreOf k == core
  if !here.isEmpty && due.any fun g => s.lacks g.2 core then
    .next (here.foldl (fun s k => s.cfgSend core (part * 4 + slot) (s.ctx k).quads)
      (s.updCore core fun c => { c with code := if c.code.contains (part, slot, op) then c.code else (part, slot, op) :: c.code }))
  else .next s

end Sys2Proof.Machine
end

