-- ==== Sys2Proof/Machine/Tree.lean ====
section
/-! DEFINITION. The reduction cycle: discovery passes (R179 to R181), commit steps and kneads (R185 to R192), ROW_FULL
(R193), the rebalance (R194), the end of a launch (R195, R196). -/

namespace Sys2Proof.Machine
open Sys2Proof

/-! ### Writing cells -/

/-- Make cells free. -/
def freeCells (row : Tab Cell) (cs : List Nat) : Tab Cell := cs.foldl tdel row

/-- Fill cells with symbols of a launch, one each. -/
def putCells (row : Tab Cell) (slot : Nat) (cs : List Nat) (ws : List Word) : Tab Cell :=
  (cs.zip ws).foldl (fun t e => tset t e.1 ⟨e.2, slot⟩) row

/-- Move the contents of cells, free cells included, all at once. -/
def moveCells (row : Tab Cell) (ms : List (Nat × Nat)) : Tab Cell :=
  let old := ms.map fun m => (m.2, tget? row m.1)
  old.foldl (fun t e => match e.2 with | some x => tset t e.1 x | none => tdel t e.1) (freeCells row (ms.map (·.1)))

/-- The level at which two cells meet (R173). -/
def meetLevel (a b : Nat) : Nat → Nat
  | 0 => 0
  | fuel + 1 => if a = b then 0 else 1 + meetLevel (a / 4) (b / 4) fuel

/-! ### The knead pass -/

/-- What a knead does to the row: the symbols that move, the span cells that are given up, and the cells that the
result takes. -/
structure Knead where
  moves : List (Nat × Nat)
  vacated : List Nat
  cells : List Nat
  deriving DecidableEq, Repr

/-- A shrinking commit (R187): n result symbols from the `(` cell on; the vacated cells pool at the right end of its
level-2 subtree. -/
def State.shrink (s : State) (p slot o last n : Nat) : Knead :=
  let span := s.cellsBetween p slot o last
  let hi := o / 16 * 16 + 15
  let vac := span.drop n
  let into := vac.filter (· ≤ hi)
  let tail := if last < hi then s.cellsBetween p slot (last + 1) hi else []
  let dests := (into ++ tail).take tail.length
  { moves := (tail.zip dests).filter fun m => m.1 != m.2, vacated := vac, cells := span.take n }

/-- A growing commit (R188): d more cells from the smallest subtree of the `)` cell that has them; none where no
subtree has. -/
def State.grow (s : State) (p slot o c d : Nat) : Option Knead :=
  let span := s.cellsBetween p slot o c
  let isFree := fun x => (tget? s.row x).isNone && !(decide (o ≤ x) && decide (x ≤ c))
  let frees := fun k => ((List.range (4 ^ k)).map (c / 4 ^ k * 4 ^ k + ·)).filter fun x => s.inPart p x && isFree x
  match [1, 2, 3, 4, 5, 6, 7].find? fun k => decide (d ≤ (frees k).length) with
  | none => none
  | some k =>
    let right := ((frees k).filter (c < ·)).take d
    let left := (((frees k).filter (· < o)).reverse).take (d - right.length)
    let rr := match right.getLast? with | some f => s.cellsBetween p slot (c + 1) f | none => []
    let ll := match left.getLast? with | some f => s.cellsBetween p slot f (o - 1) | none => []
    let rs := rr.filter fun x => !right.contains x
    let ls := ll.filter fun x => !left.contains x
    some { moves := (rs.zip (rr.drop right.length) ++ ls.zip ll).filter fun m => m.1 != m.2
           vacated := [], cells := ll.drop ls.length ++ span ++ rr.take right.length }

/-- Apply a knead: vacate, move, write the result. -/
def State.kneadRow (s : State) (slot : Nat) (k : Knead) (result : List Word) : State :=
  { s with row := putCells (moveCells (freeCells s.row k.vacated) k.moves) slot k.cells result }

/-- The tree cycles within which a knead that moves symbols ends: m + 4k; 0 for one that moves none (R189). -/
def State.moveBound (s : State) (k : Knead) : Nat :=
  let syms := k.moves.filter fun m => (tget? s.row m.1).isSome
  let lvl := syms.foldl (fun a m => Nat.max a (meetLevel m.1 m.2 7)) 0
  if syms.isEmpty then 0 else syms.length + 4 * lvl

/-- The tree cycles that writing the n result symbols adds at most: n + 4j (R189). -/
def writeBound (lead : Option Nat) (first n : Nat) : Nat :=
  n + 4 * (match lead with | some c => Nat.max 4 (meetLevel (c * 256) first 7) | none => 4)

/-- When a knead that starts in a tree cycle ends: a free time within its bound (R189; log 54). -/
def State.moveEnd (s : State) (k : Knead) (from_ : Nat) : Nat :=
  from_ + (if s.moveBound k = 0 then 0 else 1 + Config.kneadTime s.freeCtr % s.moveBound k)

/-- Whether a gang has been placed and no member has started (R182). -/
def State.unstarted (s : State) (gk : Nat) : Bool := (tget? s.gangs gk).isSome && !(s.gang gk).started

/-- Take a placed gang that has not started out of its place: contexts, regions and frames are freed (R182, R313). -/
def State.unplace (s : State) (gk : Nat) : State :=
  let s1 := (s.gang gk).members.foldl State.freeCtx s
  { s1 with gangs := tdel s1.gangs gk }

/-- An application's record after its cells have moved: one whose `(` has gone to another core goes to that core's
queue with its age, unless a member has started (R182). -/
def State.followCell (s : State) (i : Nat) (dst : Nat) : State :=
  let r := s.ra i
  let moved := decide (dst / 256 ≠ r.cell / 256)
  match r.st with
  | .queued _ =>
    if moved then
      let s1 := s.setRa i { r with cell := dst, st := .marked }
      if s1.queueLen (dst / 256) < 32 then s1.setRa i { r with cell := dst, st := .queued (dst / 256) } else s1
    else s.setRa i { r with cell := dst }
  | .placed gk =>
    if moved && s.unstarted gk then (s.unplace gk).setRa i { r with cell := dst, st := .marked, gang := 0 }
    else s.setRa i { r with cell := dst }
  | _ => s.setRa i { r with cell := dst }

/-- Hold the applications of a partition a cell of whose span a knead moves, until the knead ends: the result is written after that
(R173, R189, R190; 18_program_distribute.md, E9 and E10). -/
def State.holdMoved (s : State) (p skip until_ : Nat) (k : Knead) : State :=
  { s with ras := s.ras.map fun (r : Nat × RA) =>
      let span := s.cellsBetween p r.2.slot r.2.cell (s.raLast r.1)
      if r.2.part == p && r.1 != skip && k.moves.any (fun m => span.contains m.1) then
        (r.1, { r.2 with heldUntil := Nat.max r.2.heldUntil until_ })
      else r }

/-- Every application's record follows its `(` cell. -/
def State.followMoves (s : State) (p slot : Nat) (ms : List (Nat × Nat)) : State :=
  (s.ras.filter fun r => r.2.part == p && r.2.slot == slot).foldl (fun s r =>
    match ms.find? fun m => m.1 == r.2.cell with
    | some m => s.followCell r.1 m.2
    | none => s) s

/-! ### Applying a commit (R186) -/

/-- The tiles that the TILE atoms of some symbols name, by key. -/
def atomTiles (launch : Nat) (ws : List Word) : List Nat :=
  (ws.filter fun w => kindOf w == 9).map fun w => pageKey launch (atomPage w)

/-- The result's symbols as the row holds them: TILE atoms with writable clear (R89, R174). -/
def rowSymbol (w : Word) : Word := if kindOf w = 9 then w &&& ~~~(0x10000000000 : Word) else w

/-- The pinned frame of a page stays pinned until the count of its sealed tile reaches zero; a page that no frame of the
writer's core is pinned for stays as it is (R85). -/
def State.keepPin (s : State) (key : Nat) : State :=
  let w := s.writerCore (s.dirE key)
  if s.pagePinned w key then s.pinPage w key sealPin else s

/-- Seal the open tiles that a result names, pinned where an atom's bit 39 says so, and free the others (R85, R89). -/
def State.closeTiles (s : State) (gk launch : Nat) (result : List Word) : State :=
  (s.openTiles gk).foldl (fun s key =>
    if (atomTiles launch result).contains key then
      let pinned := result.any fun w => kindOf w == 9 && pageKey launch (atomPage w) == key && atomPinned w
      let s1 := if pinned then (s.tileKeys key).foldl State.keepPin s else s
      s1.sealTile key pinned
    else s.freeTile key) s

/-- Adjust reference counts at a commit and free every sealed tile of the launch that no atom names, one that none has named since
its load too (R88; DEDUCED that the tiles are those of the launch, log 79). -/
def State.countAtoms (s : State) (launch : Nat) (gone result : List Word) : State :=
  let s1 := (atomTiles launch gone).foldl (fun s k => s.addRef k false) s
  let s2 := (atomTiles launch result).foldl (fun s k => s.addRef k true) s1
  ((s2.tiles.map (·.1)).filter fun k => keyLaunch k == launch).foldl (fun s k =>
    if (tget? s.dir k).isSome && (s.dirE k).sealed && (s.dirE k).refs == 0 then s.freeTile k else s) s2

/-- After the span is rewritten: tiles, the store logs, the members (R186, R246). -/
def State.afterKnead (s : State) (launch i : Nat) (gone : List Word) : State :=
  let r := s.ra i
  let result := r.result.map rowSymbol
  let s1 := if r.gang = 0 ∨ r.failed then s else s.closeTiles r.gang launch result
  let s2 := s1.countAtoms launch gone result
  let s3 := if r.gang = 0 ∨ r.failed then s2 else (s2.gang r.gang).members.foldl State.publish s2
  let s4 := if r.gang = 0 then s3 else (s3.endGang r.gang).dropPlans r.gang
  { s4 with ras := tdel s4.ras i }

/-- A commit step under way: the state, the end of its kneads so far, the slots of the commits applied, whether cells
have been freed, the slots with a waiting growing commit. -/
structure StepSt where
  s : State
  till : Nat
  slots : List Nat := []
  freed : Bool := false
  blocked : List Nat := []

/-- The row limit of a launch (R178, R191). -/
def State.rowLimit (s : State) (p slot : Nat) : Nat :=
  let l := s.launch (p * 4 + slot)
  if l.limit = 0 then (s.partCells p).length else l.limit

/-- The knead of an application's commit, or none when R191 gives no room. -/
def State.kneadOf (s : State) (i : Nat) : Option Knead :=
  let r := s.ra i
  let syms := (s.raSyms i).length
  let len := s.raLen i
  let n := r.result.length
  if n ≤ len then some (s.shrink r.part r.slot r.cell (s.raLast i) n)
  else if s.rowLimit r.part r.slot < (s.symsOf r.part r.slot).length - syms + n then none
  else s.grow r.part r.slot r.cell (s.raLast i) (n - len)

/-- A growing commit leaves its step and waits, and the others of its launch wait behind it; that of a restartable gang whose
launch is pre-empted leaves the wait too: the gang is dropped and its application requeued (R192, R313). -/
def StepSt.await (y : StepSt) (i : Nat) : StepSt :=
  let r := y.s.ra i
  let s1 := y.s.setRa i { r with st := .waiting }
  let g := s1.gang r.gang
  if !g.effects && (s1.launch (r.part * 4 + r.slot)).state == 3 && (tget? s1.gangs r.gang).isSome then
    { y with s := s1.abandon r.gang }
  else { y with s := s1, blocked := r.slot :: y.blocked }

/-- Try one commit of a step (R185 to R192). -/
def StepSt.apply (y : StepSt) (i : Nat) : StepSt :=
  let s := y.s
  let r := s.ra i
  let n := r.result.length
  let growing := decide (s.raLen i < n)
  match (if growing && y.blocked.contains r.slot then none else s.kneadOf i) with
  | none => y.await i
  | some k =>
    let gone := (s.raSyms i).map (·.2)
    let lead := if r.failed then none else (s.gang r.gang).members.head?.map coreOf
    let first := k.cells.headD r.cell
    let moved := s.moveEnd k y.till
    let till := moved + 1 + Config.kneadTime (s.freeCtr + 1) % writeBound lead first n
    let s1 := { s.holdMoved r.part i moved k with freeCtr := s.freeCtr + 2 }
    let s2 := (s1.kneadRow r.slot k (r.result.map rowSymbol)).followMoves r.part r.slot k.moves
    { s := s2.afterKnead (r.part * 4 + r.slot) i gone, till := till, slots := r.slot :: y.slots
      freed := y.freed || decide (n < s.raLen i), blocked := y.blocked }

/-- Waiting growing commits, oldest first (R192). -/
def State.waitingRas (s : State) (p : Nat) : List (Nat × RA) :=
  let older := fun (a b : RA) => if a.agePass != b.agePass then decide (a.agePass < b.agePass) else decide (a.ageCell < b.ageCell)
  sortBy (fun a b => older a.2 b.2) (s.ras.filter fun r => r.2.part == p && r.2.st == .waiting)

/-- Accepted commits and tree-side reductions that a step may take, in descending cell order: those accepted in an earlier
tree cycle and not held (R185, R190), and no fired store of the gang waits for its mapping (R279). -/
def State.acceptedRas (s : State) (p : Nat) : List (Nat × RA) :=
  sortBy (fun a b => decide (b.2.cell < a.2.cell))
    (s.ras.filter fun r => r.2.part == p && r.2.st == .accepted && !(r.2.gang != 0 && s.endWaits r.2.gang) && decide (r.2.heldUntil ≤ s.treeNow p) && decide (r.2.accAt < s.treeNow p))

/-! ### ROW_FULL (R193) -/

/-- The growing commits of a launch that wait, oldest first. -/
def State.waitingOf (s : State) (p slot : Nat) : List (Nat × RA) := (s.waitingRas p).filter (·.2.slot == slot)

/-- Whether some queued application of a launch could be placed with all that no waiting gang holds free. -/
def State.couldStart (s : State) (p slot : Nat) (gks : List Nat) : Bool :=
  s.ras.any fun r => r.2.part == p && r.2.slot == slot && (r.2.queue.isSome || r.2.saved.isSome)
    && ((s.partCores p).filter fun c => c / 4 == r.2.queue.getD (r.2.cell / 256) / 4).any fun c =>
      (s.fitRa (s.busyOf p gks) r.1 c).isSome

/-- Cells still needed by a waiting commit, less those that R191 could give it, and whether the row limit is what is
short (R193). -/
def State.shortfall (s : State) (i : Nat) : Nat × Bool :=
  let r := s.ra i
  let n := r.result.length
  let len := s.raLen i
  let rest := (s.symsOf r.part r.slot).length - (s.raSyms i).length
  let o := r.cell
  let c := s.raLast i
  let free := ((s.partCells r.part).filter fun x => (tget? s.row x).isNone && (decide (x < o) || decide (c < x))).length
  let limit := s.rowLimit r.part r.slot
  (n - len - Nat.min free (limit - (rest + len)), decide (limit < rest + n))

/-- Stop a launch with ROW_FULL when every condition of R193 holds. The gangs that wait are those of every launch of the
partition. Cells that have been freed put the decision off until they have been tried, but for a shortfall against the row limit,
in which no other launch plays a part (R346). A gang of another launch that is placed and not started is none of the three that R193
names, a running context, a pending commit or a queued RA, and does not put it off: DESIGN CHOICE, log 77. -/
def State.rowFull (s : State) (p slot : Nat) : State :=
  match s.waitingOf p slot with
  | [] => s
  | w :: _ =>
    let gks := ((s.waitingRas p).map (·.2.gang)).filter (· != 0)
    let inStep := fun (ok : Nat → Bool) => decide (s.treeNow p < (s.part p).stepEnd) && (s.part p).stepOf.any ok
    let others := s.ctxs.any fun e => e.2.status != .free && (s.gang e.2.gang).part == p && (s.gang e.2.gang).slot == slot
      && !gks.contains e.2.gang
    let accepted := s.ras.any fun x => x.2.part == p && x.2.slot == slot && x.2.st == .accepted
    let short := s.shortfall w.1
    let busy := s.ctxs.any (fun e => e.2.status == .running && (s.gang e.2.gang).part == p && (s.gang e.2.gang).slot != slot)
      || inStep (· != slot)
      || s.ras.any fun x => x.2.part == p && x.2.slot != slot && (x.2.st == .accepted || x.2.queue.isSome)
    if others || accepted || inStep (· == slot) || ((s.part p).cellsFreed && !short.2) || s.couldStart p slot gks || (busy && !short.2) then s
    else s.stopLaunch (p * 4 + slot) 1 short.1

/-- ROW_FULL over every launch of a partition. -/
def State.rowFullAll (s : State) (p : Nat) : State := [0, 1, 2, 3].foldl (fun s i => s.rowFull p i) s

/-! ### The commit step -/

/-- A commit step of a partition (R185 to R192): waiting growing commits first, then what has been accepted, in
descending cell order; a step is under way until its results are written. The order is that of the `(` cells as they stand when the
step starts: R185 does not say whether a knead of the step that moves a `(` changes it (DESIGN CHOICE, log 88). An application that
the step requeues is in its queue before ROW_FULL is decided (R193). -/
def execCommitStep (part : Nat) (s : State) : Host.Outcome State Fault Refusal :=
  let p := s.part part
  let due := s.acceptedRas part
  let waits := s.waitingRas part
  if s.treeNow part < p.stepEnd || p.passDue || (due.isEmpty && (waits.isEmpty || !p.cellsFreed)) then .next s
  else
    let s0 := s.updPart part fun x => { x with cellsFreed := false }
    let y : StepSt := (waits ++ due).foldl (fun (y : StepSt) r => y.apply r.1) { s := s0, till := s.treeNow part }
    let s1 := y.s.updPart part fun x =>
      { x with
        rowDirty := x.rowDirty || !y.slots.isEmpty, passDue := x.passDue || x.rowDirty || !y.slots.isEmpty
        cellsFreed := x.cellsFreed || y.freed, stepEnd := y.till, stepOf := y.slots }
    .next (s1.fillQueues.rowFullAll part)

/-! ### The end of a launch (R195, R196) -/

/-- Round up to a multiple of 64. -/
def up64 (n : Nat) : Nat := (n + 63) / 64 * 64

/-- The distinct tiles that symbols name, in order of first appearance, each with its offset from a start on, and the
end of the layout (R196). -/
def State.tileOffsets (s : State) (keys : List Nat) (at_ end_ : Nat) : Tab Nat × Nat :=
  match keys with
  | [] => ([], end_)
  | k :: r =>
    let n := match s.tile? k with | some t => tileBytes t.fmt t.rows t.cols | none => 0
    let rest := s.tileOffsets r (up64 (at_ + n)) (at_ + n)
    ((k, at_) :: rest.1, rest.2)

/-- A byte of a tile as the launch logic reads it: a byte of a lost page is a free value (R91). -/
def State.tileByte (s : State) (key off : Nat) : Byte :=
  let e := s.dirE (key + off / 2048)
  if e.lost then (Config.freeWord (s.freeCtr + off)).truncate 8 else mget e.data (off % 2048)

/-- The bytes of a launch's result (R196): the count, the symbols, the tiles. -/
def State.resultBytes (s : State) (l : Nat) : List Byte :=
  let ws := (s.symsOf (l / 4) (l % 4)).map (·.2)
  let keys := (atomTiles l ws).eraseDups
  let offs := s.tileOffsets keys (up64 (8 + 8 * ws.length)) (8 + 8 * ws.length)
  let word := fun (w : Word) =>
    if kindOf w = 9 then
      (w &&& ~~~(0x19FFFFFFFFF : Word)) ||| BitVec.ofNat 64 (((offs.1.find? fun e => e.1 == pageKey l (atomPage w)).map (·.2)).getD 0 / 64)
    else w
  let head := toBytes ws.length 8 ++ ws.flatMap fun w => toBytes (word w).toNat 8
  offs.1.foldl (fun bs e =>
    let n := match s.tile? e.1 with | some t => tileBytes t.fmt t.rows t.cols | none => 0
    bs ++ List.replicate (e.2 - bs.length) 0 ++ (List.range n).map (s.tileByte e.1)) head

/-- The bytes of free values that a read of lost pages takes. -/
def freeStride : Nat := 2 ^ 17

/-- End a launch (R195): the result goes to endpoint 0, cells and pages are freed, the vector is raised; an extent too
small stops it with LAUNCH_FAULT and the bytes needed. Endpoint 0 is translated as any endpoint is (R36): the bytes up to the
first host page without write access are written, that page is asked for, and the rest waits. A failed Page Request is made
again: DESIGN CHOICE, R36 names a fault of streams only, log 73. -/
def State.finish (s : State) (l : Nat) : State :=
  let bs := s.resultBytes l
  let x := s.launch l
  let e := x.ends.headD {}
  let from_ := x.ending.getD 0
  let written := fun (n : Nat) => msetN s.host (x.pasid * 2 ^ 64 + e.addr.toNat + from_) ((bs.take n).drop from_)
  if e.extent < bs.length then s.stopLaunch l 4 bs.length
  else
    match s.atcMiss x.pasid (e.addr.toNat + from_) (bs.length - from_) true with
    | some page =>
      let n := Nat.max from_ (page * 4096 - e.addr.toNat)
      ({ s with host := written n }.setLaunch l { x with ending := some n }).atcAsk (l / 4) x.pasid page true
    | none =>
      let s2 := { s with host := written bs.length, freeCtr := s.freeCtr + freeStride }.dropLaunch l
      let s3 := s2.setLaunch l { s2.launch l with state := 4, fault := 0, detail := 0, pantry := {}, backUsed := [], ending := none }
      (s3.updPart (l / 4) fun p => { p with cellsFreed := true }).raise (6 * (l / 4) + l % 4)

/-! ### The discovery pass -/

/-- The `(` cells of the innermost applications of a launch's symbols (R175, R179): those whose matching `)` comes
before any further `(`. -/
def innermost (l : List (Nat × Word)) (cur : Option Nat) : List Nat :=
  match l with
  | [] => []
  | e :: r =>
    if kindOf e.2 = 3 then innermost r (some e.1)
    else if kindOf e.2 = 5 then
      match cur with
      | some c => c :: innermost r none
      | none => innermost r none
    else innermost r cur

/-- Mark an application (R179 to R181, R305): one with an error operand, an unknown operator or a gang that no
partition could place is reduced by the tree. -/
def State.markRa (s : State) (p slot pass cell : Nat) : State :=
  let i := s.nextRa
  let s1 := { s.setRa i { RA.blank with part := p, slot := slot, cell := cell, agePass := pass, ageCell := cell } with nextRa := i + 1 }
  match (s1.operandSyms i).find? fun w => kindOf w == 0xB with
  | some e => s1.reduceErr i (e.extractLsb' 0 16).toNat
  | none =>
    match s1.raOper i with
    | none => s1.reduceErr i 1
    | some o => if s1.couldPlace p slot o then s1 else s1.reduceErr i 1

/-- The part of a pass for one launch (R178, R179, R195). -/
def State.passLaunch (s : State) (p slot pass : Nat) : State :=
  let l := s.launch (p * 4 + slot)
  if l.state ≠ 2 ∧ l.state ≠ 3 then s
  else
    let syms := s.symsOf p slot
    if !l.checked && !oneElement (syms.map (·.2)) then s.stopLaunch (p * 4 + slot) 2 0
    else
      let s1 := s.setLaunch (p * 4 + slot) { l with checked := true }
      let new := (innermost syms none).filter fun c => !(s1.ras.any fun r => r.2.part == p && r.2.slot == slot && r.2.cell == c)
      let s2 := new.foldl (fun s c => s.markRa p slot pass c) s1
      if s2.ras.any fun r => r.2.part == p && r.2.slot == slot then s2 else s2.finish (p * 4 + slot)

/-- A discovery pass (R179): only if the row has changed, and not while a commit step is under way. -/
def execDiscoveryPass (part : Nat) (s : State) : Host.Outcome State Fault Refusal :=
  let p := s.part part
  if !p.passDue || decide (s.treeNow part < p.stepEnd) then .next s
  else
    let pass := p.passes + 1
    let s0 := s.updPart part fun x => { x with passDue := false, rowDirty := false, passes := pass }
    let s1 := [0, 1, 2, 3].foldl (fun s i => s.passLaunch part i pass) s0
    .next (s1.fillQueues.rowFullAll part)

/-! ### The rebalance (R194) -/

/-- Lay every symbol of a partition out evenly over its present cells: symbol s of N to present cell s·F/N. Symbols
that no cell is left for are not in the spec; they share the last cells (log 40). -/
def State.rebalance (s : State) (p : Nat) (old : List Nat) : State :=
  let mine := s.row.filter fun e => old.contains e.1
  let cells := s.partCells p
  let n := mine.length
  let ms := (mine.zip (List.range n)).map fun x => (x.1.1, cells.getD (x.2 * cells.length / (if n = 0 then 1 else n)) 0)
  let till := s.treeNow p + 1 + Config.kneadTime s.freeCtr % 65536
  let s1 := { s with
    row := moveCells s.row ms, freeCtr := s.freeCtr + 1
    ras := s.ras.map fun (r : Nat × RA) =>
      if r.2.part == p then (r.1, { r.2 with heldUntil := Nat.max r.2.heldUntil till }) else r }
  let s2 := [0, 1, 2, 3].foldl (fun s slot => s.followMoves p slot ms) s1
  s2.updPart p fun x => { x with passDue := true, rowDirty := true, cellsFreed := true, stepEnd := Nat.max x.stepEnd till }

end Sys2Proof.Machine
end

