-- ==== Sys2Proof/Machine/Launch.lean ====
section
/-! DEFINITION. Starting a launch: the LAUNCH register (R323), the launch record (R303, R304), the pantry image (R360),
the load (R84, R88, R177, R178, R331), the STATUS register (R324). -/

namespace Sys2Proof.Machine
open Sys2Proof

/-! ### Reading at .sys scope -/

/-- Whether a range of DPAs lies in the fabric window or in the granted pinned aperture (R24, R304). -/
def State.inWindows (s : State) (p a n : Nat) : Bool :=
  decide (a + n ≤ 2 ^ 51) || (decide (2 ^ 51 ≤ a) && decide (a + n ≤ 2 ^ 51 + (s.part p).pinnedCap))

/-- n doublewords of a DPA range, or none where one lies nowhere or in a poisoned line (log 41). -/
def State.dpaWords (s : State) (p a : Nat) : Nat → Option (List Word)
  | 0 => some []
  | n + 1 =>
    match s.resolve p a with
    | some (.mem key) =>
      if s.poison.contains (key / 64) then none
      else (s.dpaWords p (a + 8) n).map (BitVec.ofNat 64 (mread s.mem key 8) :: ·)
    | _ => none

/-! ### The pantry image (R360) -/

/-- Bits [hi:lo] of a doubleword as a number. -/
def fld (w : Word) (hi lo : Nat) : Nat := (w.extractLsb' lo (hi + 1 - lo)).toNat

/-- The doublewords of a byte range of an image; its start is a multiple of 8. -/
def sect (ws : List Word) (off len : Nat) : List Word := (ws.drop (off / 8)).take ((len + 7) / 8)

/-- 32-bit words of a list of doublewords. -/
def halves (l : List Word) : List W32 := l.flatMap fun w => [w.extractLsb' 0 32, w.extractLsb' 32 32]

/-- An entry of the table: its two doublewords. -/
structure PEnt where
  kind : Nat
  num : Nat
  off : Nat
  len : Nat
  field : Nat
  zero : Bool
  deriving DecidableEq, Repr

/-- The entry table of an image. -/
def pEnts (ws : List Word) (n : Nat) : List PEnt :=
  (List.range n).map fun i =>
    let a := ws.getD (8 + 2 * i) 0
    let b := ws.getD (9 + 2 * i) 0
    ⟨fld a 63 60, fld a 47 32, fld a 31 0, fld b 63 32, fld b 31 0, fld a 59 48 == 0⟩

/-- Whether an entry's field and section are as its kind requires (R93, R360). -/
def PEnt.ok (e : PEnt) (ws : List Word) : Bool :=
  let w0 := ws.getD (e.off / 8) 0
  e.zero && decide (e.off % 64 = 0) && match e.kind with
  | 1 => decide (e.field / 256 = 0) && decide (e.field / 16 % 8 ≤ 4) && decide (8 ≤ e.len) && decide (e.len % 4 = 0)
      && decide ((e.len - 8) / 4 ≤ 32768) && decide (fld w0 31 17 = 0)
  | 2 => decide (e.field = 0) && decide (e.len = 64)
  | 3 => decide (e.field / 65536 = 0) && decide (e.len % 8 = 0) && decide (240 ≤ e.len)
  | 4 => decide (e.field = 0) && decide (e.len % 8 = 0) && decide (200 ≤ e.len)
  | 5 =>
    let fmt := e.field % 32
    let rows := e.field / 32 % 128 + 1
    let cols := e.field / 4096 % 128 + 1
    decide (e.field / 2 ^ 19 = 0) && decide (fmt ≤ 10) && decide (e.len = tileBytes fmt rows cols)
      && (fmt != 10 || (rows == 128 && cols == 128))
  | _ => false

/-- Whether sections in ascending order do not overlap and only zero bytes lie between them. -/
def sectionsOk (ws : List Word) (l : List (Nat × Nat)) (at_ : Nat) : Bool :=
  match l with
  | [] => true
  | x :: r =>
    let gap := (wordsBytes (sect ws (at_ / 8 * 8) (x.1 + 8 - at_ / 8 * 8))).drop (at_ % 8)
    decide (at_ ≤ x.1) && (gap.take (x.1 - at_)).all (· == 0) && sectionsOk ws r (x.1 + x.2)

/-- Whether the entries stand in ascending kind and number, none twice. -/
def ascending (l : List PEnt) : Bool :=
  match l with
  | a :: b :: r => (decide (a.kind < b.kind) || (a.kind == b.kind && decide (a.num < b.num))) && ascending (b :: r)
  | _ => true

/-- An operator of its entry. -/
def operOf (e : PEnt) (ws : List Word) : Oper :=
  let w0 := ws.getD (e.off / 8) 0
  { gang := e.field % 16 + 1, grid := e.field / 16 % 8, effects := decide (e.field / 128 % 2 = 1)
    entry := (w0.extractLsb' 0 17).zeroExtend 64 &&& ~~~(3 : Word)
    trapVec := (w0.extractLsb' 32 32).zeroExtend 64 &&& 0x1FFFD
    code := (halves (sect ws (e.off + 8) (e.len - 8))).take ((e.len - 8) / 4) }

/-- Parse a pantry image (R360): its layout and its signature; none where either fails. -/
def parsePantry (ws : List Word) : Option Pantry :=
  let d := fun i => ws.getD i 0
  let size := fld (d 0) 63 32
  let n := fld (d 0) 15 0
  let es := pEnts ws n
  let exprOff := fld (d 1) 63 32
  let exprN := fld (d 1) 31 0
  let secs := sortBy (fun (a b : Nat × Nat) => decide (a.1 < b.1))
    ((exprOff, 8 * exprN) :: es.map fun e => (e.off, e.len))
  let template := d 2
  let heads := decide (size % 64 = 0) && fld (d 0) 31 16 == 1 && fld template 63 47 == 0 && fld template 23 22 == 0 && fld template 14 0 == 0
    && fld (d 3) 63 32 == 0 && ((List.range 4).all fun i => d (4 + i) == 0) && exprN != 0 && decide (exprOff % 64 = 0)
  let inside := decide (ws.length * 8 = size) && decide (64 + 16 * n ≤ size - 32)
    && secs.all (fun x => decide (x.1 + x.2 ≤ size - 32))
  let tilesIn := (es.filter (·.kind == 5)).map (·.num) == (List.range (es.filter (·.kind == 5)).length).map (· + 1)
  let signed := sha256 (wordsBytes (ws.take (ws.length - 4))) == wordsBytes (ws.drop (ws.length - 4))
  let sections := sectionsOk ws (secs ++ [(size - 32, 0)]) (64 + 16 * n)
  if heads && inside && es.all (·.ok ws) && ascending es && tilesIn && sections && signed then
    some
      { ops := (es.filter (·.kind == 1)).foldl (fun t e => tset t e.num (operOf e ws)) []
        streams := (es.filter (·.kind == 2)).foldl (fun t e => tset t e.num (sect ws e.off 64)) []
        grids := (es.filter (·.kind == 3)).foldl (fun t e => tset t e.num ⟨e.field % 65536, sect ws e.off e.len⟩) []
        unkar := (es.filter (·.kind == 4)).foldl (fun t e => tset t e.num (sect ws e.off e.len)) []
        tiles := (es.filter (·.kind == 5)).foldl (fun t e =>
          tset t e.num ⟨e.field % 32, e.field / 32 % 128 + 1, e.field / 4096 % 128 + 1, (wordsBytes (sect ws e.off e.len)).take e.len⟩) []
        expr := sect ws exprOff (8 * exprN) }
  else none

/-! ### The launch record (R303, R304) -/

/-- The zero-fields of a record's first eight doublewords and of its endpoint entries. -/
def recordZeros (d : List Word) (ends : List (Word × Word)) : Bool :=
  let w := fun i => d.getD i 0
  fld (w 0) 63 47 == 0 && fld (w 0) 23 22 == 0 && fld (w 0) 14 10 == 0
    && fld (w 1) 63 52 == 0 && fld (w 1) 5 0 == 0
    && fld (w 2) 63 52 == 0 && fld (w 2) 11 1 == 0 && ((w 2).getLsbD 0 || fld (w 2) 51 12 == 0)
    && fld (w 3) 63 52 == 0 && fld (w 3) 10 0 == 0 && fld (w 4) 43 32 == 0
    && w 5 == 0 && w 6 == 0 && w 7 == 0 && ends.all fun e => fld e.2 62 48 == 0

/-- An endpoint of its two doublewords: absent when both are zero. -/
def endpOf (e : Word × Word) : Endp :=
  if e.1 == 0 && e.2 == 0 then {} else ⟨true, e.1, e.2.getLsbD 63, fld e.2 47 0⟩

/-- The record of a launch, its pantry and its symbols not yet laid: none stops it with LAUNCH_FAULT (R304, R331). -/
def State.readRecord (s : State) (p : Nat) (l : Launch) : Option Launch :=
  let a := l.record.toNat
  match s.dpaWords p a 8 with
  | none => none
  | some d =>
    let w := fun i => d.getD i 0
    let n := fld (w 0) 19 15
    let img := fld (w 1) 51 6 * 64
    let root := fld (w 2) 51 12 * 4096
    match s.dpaWords p (a + 64) (2 * n), s.dpaWords p img 8 with
    | some ew, some hd =>
      let ends := winsOf ew
      let size := fld (hd.getD 0 0) 63 32
      let eps := ends.map endpOf
      if !recordZeros d ends || decide (n = 0) || decide (16 < n) || !(eps.headD {}).present || !(eps.headD {}).out
          || eps.any (fun e => e.present && e.extent == 0) || decide (1000 < fld (w 0) 9 0)
          || decide ((s.partCells p).length < fld (w 0) 46 32)
          || !s.inWindows p a (64 + 16 * n) || !s.inWindows p img size
          || ((w 2).getLsbD 0 && !s.inWindows p root 4096) then none
      else
        match (s.dpaWords p img (size / 8)).bind parsePantry with
        | none => none
        | some pan =>
          let pages := pan.tiles.foldl (fun n t => n + tilePages t.2.fmt t.2.rows t.2.cols) 0
          if fld (w 4) 31 0 < pages ∨ pan.ops.any (fun o => (pan.targets o.2).isEmpty) then none
          else
            some { l with
              limit := fld (w 0) 46 32, gap := fld (w 0) 31 24, cls := fld (w 0) 21 20
              faultLimit := if fld (w 0) 9 0 = 0 then 20 else fld (w 0) 9 0
              root := if (w 2).getLsbD 0 then some root else none
              backing := fld (w 3) 51 11 * 2048, backSlots := fld (w 4) 31 0, pasid := fld (w 4) 63 44
              ends := eps, pantry := pan }
    | _, _ => none

/-! ### The load (R177, R178) -/

/-- Whether a symbol word may stand in an expression (R178). -/
def loadSymOk (tiles : Nat) (w : Word) : Bool :=
  kindOf w != 0 && decide (kindOf w < 0xC) && symZeros w
    && (kindOf w != 9 || (!atomWritable w && !atomPinned w && decide (atomFmt w ≤ 10)
      && decide (1 ≤ atomPage w) && decide (atomPage w ≤ tiles)))

/-- The free cell number of symbol i of n, of f free cells, under a gap (R177). -/
def gapCell (gap n f i : Nat) : Nat :=
  if gap = 0 then i else if gap = 255 then i * f / n else i + i / gap

/-- The cells that the expression takes: none when the row has too few free cells (R177, R178). The free cell after a last k-th
symbol need not be there (DESIGN CHOICE, log 81). -/
def State.layout (s : State) (p gap n : Nat) : Option (List Nat) :=
  let free := (s.partCells p).filter fun c => (tget? s.row c).isNone
  let at_ := (List.range n).map (gapCell gap n free.length)
  if n ≤ free.length ∧ at_.all (fun i => decide (i < free.length)) then some (at_.map fun i => free.getD i 0) else none

/-- The bytes of one page of a tile. -/
def pageData (bs : List Byte) (i : Nat) : Memory := msetN [] 0 ((bs.drop (2048 * i)).take 2048)

/-- Enter one page of a launch-loaded tile: sealed, written to a backing slot, no copies (R84). -/
def State.loadPage (s : State) (l key i n : Nat) (bs : List Byte) : Option State :=
  match s.newPage (key + i) 0 0 0 n (i == 0) with
  | none => none
  | some s1 =>
    let _ := l
    (s1.setDir (key + i)
      { sealed := true, head := i == 0, loc := .backing, pages := if i = 0 then n - 1 else 0, data := pageData bs i }).writeBacking (key + i)

/-- Enter the pages of a tile. -/
def State.loadPages (s : State) (l key i n : Nat) (bs : List Byte) : Nat → Option State
  | 0 => some s
  | f + 1 =>
    match s.loadPage l key i n bs with
    | none => none
    | some s1 => s1.loadPages l key (i + 1) n bs f

/-- The bytes of a tile of the image, the padding at the end of each row read as zero (R71). -/
def TileEnt.bytes (t : TileEnt) : List Byte :=
  if t.fmt = 10 then t.data
  else
    (List.range t.data.length).map fun i =>
      if i % pitchOf t.fmt t.cols < t.cols * fmtSize t.fmt then t.data.getD i 0 else 0

/-- Load the tiles of the image, in number order; the first page of each, by number (R84). -/
def State.loadTiles (s : State) (l : Nat) (ts : List (Nat × TileEnt)) : Option (State × Tab Nat) :=
  match ts with
  | [] => some (s, [])
  | t :: r =>
    let page := (s.launch l).nextPage
    let n := tilePages t.2.fmt t.2.rows t.2.cols
    match s.loadPages l (pageKey l page) 0 n t.2.bytes n with
    | none => none
    | some s1 =>
      let s2 := { s1.setLaunch l { s1.launch l with nextPage := page + n } with
                  tiles := tset s1.tiles (pageKey l page) ⟨t.2.fmt, t.2.rows, t.2.cols, .ready, 0, 0⟩ }
      match s2.loadTiles l r with
      | none => none
      | some (s3, m) => some (s3, tset m t.1 page)

/-- A symbol with its tile number replaced by the tile's first page (R177, R360). -/
def placeAtom (first : Tab Nat) (w : Word) : Word :=
  if kindOf w = 9 then (w &&& ~~~(0x1FFFFFFFFF : Word)) ||| BitVec.ofNat 64 (tgetD first (atomPage w) 0) else w

/-- The load of a launch whose record is read (R177, R178): symbol words, limit, tiles, layout, counts. A tile page for
which no directory block can be had stops the launch with LAUNCH_FAULT, detail 0 (DESIGN CHOICE: neither R178 nor R304
lists it; log 66). -/
def State.loadLaunch (s : State) (l : Nat) (x : Launch) : State :=
  let p := l / 4
  let ws := x.pantry.expr
  if !ws.all (loadSymOk x.pantry.tiles.length) then s.stopLaunch l 2 0
  else if (if x.limit = 0 then (s.partCells p).length else x.limit) < ws.length then s.stopLaunch l 4 0
  else
    match s.layout p x.gap ws.length with
    | none => s.stopLaunch l 4 0
    | some cells =>
      match (s.setLaunch l x).loadTiles l x.pantry.tiles with
      | none => s.stopLaunch l 4 0
      | some (s1, first) =>
        let syms := ws.map (placeAtom first)
        let s2 := { s1 with row := putCells s1.row (l % 4) cells syms }
        let s3 := (atomTiles l syms).foldl (fun s k => s.addRef k true) s2
        let y := s3.launch l
        (s3.setLaunch l { y with state := if y.preWanted then 3 else 2, preWanted := false }).updPart p
          fun z => { z with passDue := true, rowDirty := true }

/-- The launch logic reads, checks and loads a launch in state loading (R177, R178, R304, R331, R360). -/
def execLaunchLoad (part slot : Nat) (s : State) : Host.Outcome State Fault Refusal :=
  let l := part * 4 + slot
  if 4 ≤ slot ∨ (s.launch l).state ≠ 1 then .next s
  else
    match s.readRecord part (s.launch l) with
    | none => .next (s.stopLaunch l 4 0)
    | some x => .next (s.loadLaunch l x)

/-- A write to LAUNCH (R323). -/
def execLaunch (part : Nat) (v : Word) (s : State) : Host.Outcome State Fault Refusal :=
  if (tget? s.parts part).isNone then .next s
  else
    match (List.range 4).find? fun i => (s.launch (part * 4 + i)).state == 0 with
    | some i =>
      if v.extractLsb' 52 12 = 0 ∧ v.extractLsb' 0 3 = 0 then
        .next ((s.setLaunch (part * 4 + i) { state := 1, record := v }).updPart part
          fun p => { p with launchRefused := false, launchSlot := BitVec.ofNat 2 i })
      else .next (s.updPart part fun p => { p with launchRefused := true })
    | none => .next (s.updPart part fun p => { p with launchRefused := true })

/-- A write to STATUS(i) (R324): 0 frees a slot that is done or stopped; any other write is ignored. -/
def execStatusFree (part slot : Nat) (v : Word) (s : State) : Host.Outcome State Fault Refusal :=
  let l := part * 4 + slot
  let st := (s.launch l).state
  if slot < 4 ∧ v = 0 ∧ (st = 4 ∨ st = 5) then .next { s with launches := tdel s.launches l } else .next s

end Sys2Proof.Machine
end

