-- ==== Sys2Proof/Machine/Preempt.lean ====
section
/-! DEFINITION. Pre-emption (R312, R313), checkpoints (R314, R315), starting and resuming contexts (R99, R183, R316,
R361). -/

namespace Sys2Proof.Machine
open Sys2Proof

/-! ### Halting -/

/-- The gangs of a launch, in key order. -/
def State.gangsOf (s : State) (l : Nat) : List Nat := (s.gangs.filter fun g => g.2.part * 4 + g.2.slot == l).map (·.1)

/-- Return a placed gang that has not started to its queue, as if never placed (R313). -/
def State.unplaceRa (s : State) (gk : Nat) : State :=
  let i := (s.gang gk).ra
  (s.unplace gk).setRa i { s.ra i with st := .marked, gang := 0 }

/-- Halt an `effects` gang to be checkpointed (R314 steps 1 and 2): members halt at an instruction boundary, the ports of
its regions close, collectives and CSENDs that wait are issued again later, so the tile of a copy under way returns to EMPTY
(R198, R235). -/
def State.closeGang (s : State) (gk : Nat) : State :=
  let g := s.gang gk
  let s1 := g.members.foldl (fun s k => s.updCtx k Ctx.halt) s
  let pending := (g.colls.zip g.ncoll).map fun c => if c.1.isSome then c.2 - 1 else c.2
  let s1 := g.csends.foldl (fun s c => if c.copying ∧ !c.sends then s.setTileSt c.tile .empty else s) s1
  let s2 := s1.setGang gk { g with colls := g.colls.map fun _ => none, ncoll := pending, csends := [], closing := some s.clock }
  { s2 with images := s2.images.map fun i =>
      if g.members.contains i.2.ctx then (i.1, { i.2 with wasOpen := i.2.portsOpen, portsOpen := false }) else i }

/-- Halt one gang for pre-emption (R192, R313): a restartable one is dropped; an `effects` one whose growing commit waits
stays; a gang whose commit is accepted is retired by its commit step, until when the members that still run are halted. -/
def State.haltGang (s : State) (gk : Nat) : State :=
  let g := s.gang gk
  if (s.ra g.ra).st == .accepted then s.haltMembers gk
  else if g.ending.isSome then s
  else if !(g.members.any fun k => (s.ctx k).issued) then s.unplaceRa gk
  else if !g.effects then s.abandon gk
  else if (s.ra g.ra).st == .waiting || g.closing.isSome then s
  else s.closeGang gk

/-- Raise pre.req in every context of a launch, an event for its WFE and the end of its yield (R232, R233, R312). -/
def State.askHalt (s : State) (l : Nat) : State :=
  { s with ctxs := s.ctxs.map fun e =>
      if e.2.status != .free && s.launchOf e.1 == l then (e.1, { e.2 with preReq := true, event := true, yieldUntil := 0, yieldTurn := false }) else e }

/-- The gangs of a launch that have not started return to their queue. -/
def State.unplaceAll (s : State) (l : Nat) : State :=
  (s.gangsOf l).foldl (fun s gk => if (s.gang gk).started then s else s.unplaceRa gk) s

/-- A value of PREEMPT that the part accepts when it is not busy (R312): zero fields, one of the two commands, a mask. -/
def preemptOk (v : Word) : Bool :=
  v.extractLsb' 8 56 == 0 && v.extractLsb' 2 2 == 0 && (v.extractLsb' 0 2 == 1 || v.extractLsb' 0 2 == 2) && v.extractLsb' 4 4 != 0

/-- The bound of R313 on the halt of every context: 4 µs of the nominal clock, whatever the bins of the cores (R4, R7). -/
def haltBound : Nat := 10800

/-- A write to PREEMPT that pre-empts (R312, R313): the named slots become pre-empted, placement stops, pre.req reads 1
until the contexts halt, within 4 µs. -/
def execPreempt (part : Nat) (v : Word) (s : State) : Host.Outcome State Fault Refusal :=
  let p := s.part part
  let slots := (List.range 4).filter fun i => v.getLsbD (4 + i)
  let acted := slots.filter fun i => let st := (s.launch (part * 4 + i)).state; st == 1 || st == 2
  if !preemptOk v || v.getLsbD 1 || p.preBusy || acted.isEmpty || (tget? s.parts part).isNone then .next s
  else
    let s1 := acted.foldl (fun s i =>
      let l := part * 4 + i
      let x := s.launch l
      if x.state = 1 then s.setLaunch l { x with preWanted := true }
      else ((s.setLaunch l { x with state := 3 }).unplaceAll l).askHalt l) s
    let mask : BitVec 4 := BitVec.ofNat 4 (maskOf acted)
    let till := s.clock + (Config.freeWord s.freeCtr).toNat % haltBound
    .next (({ s1 with freeCtr := s1.freeCtr + 1 }.updPart part fun x =>
      { x with preBusy := true, preMask := mask, preHalt := some till }).fillQueues)

/-! ### The checkpoint (R314, R315) -/

/-- The handle registers through which a context holds a pin of a tile. -/
def State.pinRegs (s : State) (k : Nat) : List Nat :=
  (List.range 16).filter fun i =>
    let h := (s.ctx k).h.toList.getD i {}
    let keys := s.tileKeys (pageKey (s.launchOf k) (atomPage h.atom))
    h.bound && s.frames.any fun f =>
      match f.2 with | .page key pins => decide (f.1 / 4096 = coreOf k) && keys.contains key && pins.contains k | _ => false

/-- A frame for a page of a save image: one reserved for the member, else any free one (R305, R314; log 45). -/
def State.saveFrame (s : State) (k : Nat) : Option Nat :=
  match s.frames.find? fun f => f.2 == .reserved k with
  | some f => some (f.1 % 4096)
  | none => s.freeFrame (coreOf k)

/-- The bytes of a member's save image, and its pages. -/
def State.memberBytes (s : State) (k : Nat) : List Byte := s.saveBytes k (s.ctx k).quads
def State.memberPages (s : State) (k : Nat) : Nat := ((s.memberBytes k).length + 2047) / 2048

/-- Whether the reserved and the free frames of every core hold the save images of a gang's members on it (R305, R314). -/
def State.saveFits (s : State) (gk : Nat) : Bool :=
  let ms := (s.gang gk).members
  ms.all fun k =>
    let here := ms.filter fun m => coreOf m == coreOf k
    let own := s.frames.filter fun f => f.1 / 4096 == coreOf k && here.any fun m => f.2 == .reserved m
    decide ((here.map s.memberPages).sum ≤ own.length + (4096 - s.usedFrames (coreOf k)))

/-- Write a save image into frames: open pages of the gang (R314), entered in the directory; none where a block is missing
(R75). -/
def State.savePages (s : State) (gk k : Nat) (bs : List Byte) (key : Nat) : Nat → Option State
  | 0 => some s
  | n + 1 =>
    match s.newPage key gk k (s.ctx k).rank 0 false, s.saveFrame k with
    | some s1, some f =>
      let e := { s1.dirE key with data := msetN [] 0 (bs.take 2048), loc := .scratch (coreOf k) f }
      ({ s1 with frames := tset s1.frames (coreOf k * 4096 + f) (.page key []) }.setDir key e).savePages gk k (bs.drop 2048) (key + 1) n
    | _, _ => none

/-- Save one member (R314 step 4, R315): the word counters are kept at their values (R316). -/
def State.saveMember (s : State) (gk k : Nat) : Option (State × Saved) :=
  let x := s.ctx k
  let core := coreOf k
  let l := s.launchOf k
  let bs := s.memberBytes k
  let n := s.memberPages k
  let page := (s.launch l).nextPage
  let mine := fun (q : Nat) => x.quads.contains q
  let sv : Saved :=
    { ctx := { x with status := .placed }
      images := (s.images.filter fun i => i.2.ctx == k).map fun i => (i.1, { i.2 with counterBase := s.counter core i.2, proved := false, active := false })
      elems := s.elems.filter fun e => e.1 / 4096 == core && mine (elemQuad e.1)
      engines := (s.ctxEngines k).filterMap fun e => (tget? s.engines e).map fun g => (e, g)
      islands := s.islands.filter fun i => i.1 / 8 == core && mine (i.1 % 8 / 2)
      bars := if s.lowestOnCore k then (List.range 32).filterMap fun b =>
          let r := s.bar (core * 32 + b)
          if r.gang = some gk then some (b, r.expected, r.arrivals, r.phase) else none
        else []
      pins := s.pinRegs k, page := page, npages := n }
  let s1 := s.setLaunch l { s.launch l with nextPage := page + n }
  (s1.savePages gk k bs (pageKey l page) n).map fun t => (t, sv)

/-- The members of a gang saved in rank order. -/
def State.saveMembers (s : State) (gk : Nat) : List Nat → Option (State × List Saved)
  | [] => some (s, [])
  | k :: r =>
    match s.saveMember gk k with
    | none => none
    | some a => (a.1.saveMembers gk r).map fun b => (b.1, a.2 :: b.2)

/-- The tokens in a quadrant's element queues. -/
def State.quadTokens (s : State) (core q : Nat) : Nat :=
  (s.quadElems core q).foldl (fun n e => n + (e.queues.flatMap (·.toks)).length) 0

/-- Whether some quadrant of a gang holds more tokens than the token area of a save image (R314). -/
def State.tokensOver (s : State) (gk : Nat) : Bool :=
  (s.gang gk).members.any fun k => (s.ctx k).quads.any fun q => decide (4592 < s.quadTokens (coreOf k) q)

/-- Whether no island of the regions of a gang that is closing computes (R152, R153), they are idle or the 2 µs of R314 have
passed, and frames are free for the save images. -/
def State.closed (s : State) (gk since : Nat) : Bool :=
  let ms := (s.gang gk).members
  let ims := s.images.filter fun i => ms.contains i.2.ctx
  (ms.all fun m => s.banksRest (coreOf m) (s.ctx m).quads) && (decide (since + 5400 ≤ s.clock) || ims.all fun i => s.idle i.1 i.2) && s.saveFits gk

/-- Checkpoint a halted gang (R314): save images are written, contexts, regions and engines are freed; the gang keeps its
open pages, plans, barrier states and gang.id. A launch that exhausts its page numbers stops (R70); one whose slices have no
room for the directory entries of the image loses the gang with TILE_FAULT (R75; DESIGN CHOICE, log 66). -/
def State.checkpoint (s : State) (gk : Nat) : State :=
  let g := s.gang gk
  let l := g.part * 4 + g.slot
  if s.tokensOver gk then s.abandonErr gk 1
  else if 2 ^ 37 < (s.launch l).nextPage + (g.members.map s.memberPages).sum then s.stopLaunch l 4 0
  else
    match s.saveMembers gk g.members with
    | none => s.abandonErr gk 5
    | some a =>
    let us := a.1.pushes.filter fun u => u.2.gang == gk
    let s1 := { a.1.freeBars gk with pushes := a.1.pushes.filter fun u => u.2.gang != gk }
    let s2 := g.members.foldl State.freeCtx s1
    let s3 : State := { s2 with
      gangs := tdel s2.gangs gk
      saved := tset s2.saved gk { gang := { g with members := [], closing := none }, members := a.2, pushes := us } }
    let r := { s3.ra g.ra with saved := some gk, gang := gk }
    if (s3.launch (g.part * 4 + g.slot)).state = 2 then s3.setRa g.ra { r with st := .marked, fast := true }
    else s3.setRa g.ra { r with st := .placed gk }

/-- Checkpoint every gang of a partition whose close has come to its end. -/
def State.checkpointDue (s : State) (part : Nat) : State :=
  (s.gangs.filter fun g => g.2.part == part).foldl (fun s g =>
    match g.2.closing with
    | some t => if s.closed g.1 t then s.checkpoint g.1 else s
    | none => s) s

/-- Halt every context of the launches that a pre-empt acted on (R313). -/
def State.haltAll (s : State) (part : Nat) : State :=
  let mask := (s.part part).preMask
  let s1 := [0, 1, 2, 3].foldl (fun s i =>
    if mask.getLsbD i then (s.gangsOf (part * 4 + i)).foldl State.haltGang s else s) s
  (s1.updPart part fun p => { p with preHalt := none }).fillQueues

/-- The end of a pre-emption (R312 to R314): the contexts halt, save images are written, and then busy clears and vector
6p + 5 is raised. -/
def execPreemptComplete (part : Nat) (s : State) : Host.Outcome State Fault Refusal :=
  let s1 := match (s.part part).preHalt with
    | some t => if t ≤ s.clock then s.haltAll part else s
    | none => s
  let s2 := s1.checkpointDue part
  let p := s2.part part
  if p.preBusy && p.preHalt.isNone && !(s2.gangs.any fun g => g.2.part == part && g.2.closing.isSome) then
    .next ((s2.updPart part fun p => { p with preBusy := false, preMask := 0 }).raise (6 * part + 5))
  else .next s2

/-- A write to PREEMPT that resumes (R312, R316): the named pre-empted slots run again, their checkpointed gangs are
queued again with their age. -/
def execResume (part : Nat) (v : Word) (s : State) : Host.Outcome State Fault Refusal :=
  if !preemptOk v || v.getLsbD 0 || (s.part part).preBusy || (tget? s.parts part).isNone then .next s
  else
    let slots := (List.range 4).filter fun i => v.getLsbD (4 + i) && (s.launch (part * 4 + i)).state == 3
    .next (slots.foldl (fun s i =>
      let l := part * 4 + i
      let s1 := s.setLaunch l { s.launch l with state := 2 }
      { s1 with ras := s1.ras.map fun r =>
          if r.2.part == part && r.2.slot == i && r.2.saved.isSome
              && (match r.2.st with
                | .placed gk => (tget? s1.gangs gk).isNone && (match tget? s1.saved gk with | some g => g.gang.ending.isNone | none => true)
                | _ => false) then
            (r.1, { r.2 with st := .marked, fast := true })
          else r }) s).fillQueues

/-! ### Starting and resuming (R99, R183, R316) -/

/-- A context's fresh start (R99). -/
def freshCtx (x : Ctx) (o : Oper) : Ctx :=
  { status := .running, gang := x.gang, rank := x.rank, quads := x.quads, pc := o.entry, trapVec := o.trapVec }

/-- The physical quadrant that takes the place of another after a resume. -/
def remapQuad (old new : List Nat) (q : Nat) : Nat := new.getD (old.idxOf q) q

/-- The element key after a resume on another core and region. -/
def remapElem (core : Nat) (old new : List Nat) (k : Nat) : Nat :=
  let q := remapQuad old new (elemQuad k)
  elemKey core (q / 2 * 32 + k % 4096 / 64 % 32) (q % 2 * 32 + k % 64 % 32)

/-- Whether an image for a region meets the rules of R134. -/
def imageOk (d : ImgData) (qs : List Nat) : Bool := (checkImage d (originRow qs) (originCol qs)).toOption.isSome

/-- Apply patches to an image in order, as GPATCH does, each whole patched image checked, without a proof wave between (R139, R316,
R361). What a fetch that fails has walked stays (R30). -/
def State.fetchPatches (s : State) (k : Nat) (d : ImgData) (qs : List Nat) : List (Nat × ImgSrc) → Except State (State × ImgData)
  | [] => .ok (s, d)
  | p :: r =>
    match s.fetchImage k p.2 p.1 qs with
    | .error e => .error e.1
    | .ok (s1, x) => match d.patched x with
      | .error _ => .error s1
      | .ok d' => if imageOk d' qs then (s1.cfgPut (coreOf k) (s.launchOf k) p.2 p.1 qs x).fetchPatches k d' qs r else .error s1

/-- Load a saved region's image again (R316 step 1, R361); an error reduces the gang's application to ⊥, in the state that the
walks have left (R30). R134 is checked of a base that is a device image, and of the image with each patch (DEDUCED of a patch from the
pantry, log 83). -/
def State.reloadImage (s : State) (k : Nat) (qs : List Nat) (im : Image) : Except State (State × ImgData × List Gate) :=
  match s.fetchImage k im.src im.img.ccid qs with
  | .error e => .error e.1
  | .ok (s1, d) =>
    if im.src != .pantry && !imageOk d qs then .error s1
    else match (s1.cfgPut (coreOf k) (s.launchOf k) im.src im.img.ccid qs d).fetchPatches k d qs im.patches with
    | .error e => .error e
    | .ok (s2, d') =>
      match checkImage d' (originRow qs) (originCol qs) with
      | .error _ => .error s2
      | .ok gs => .ok (s2, d', gs)

/-- The queue contents of a saved element: every token has arrived. -/
def Queue.restore (q : Queue) : Queue := { toks := q.toks.map fun t => { t with arr := 0 } }

/-- Restore an element (R315, R316): queues, registers and predicates on the words now loaded. A page wait of its pending access
counts from when it began, the time in the checkpoint included (DESIGN CHOICE: R81 does not say; log 39). -/
def Elem.restore (e old : Elem) : Elem :=
  { e with qN := old.qN.restore, qE := old.qE.restore, qS := old.qS.restore, qW := old.qW.restore
           lreg := old.lreg, prev := old.prev, preds := old.preds, mem := old.mem }

/-- Restore the elements and islands of the sections of saved quadrants (R315, R316 step 2). -/
def State.restoreSections (s : State) (core : Nat) (old new : List Nat) (sv : Saved) (qs : List Nat) : State :=
  { s with
    elems := (sv.elems.filter fun e => qs.contains (elemQuad e.1)).foldl (fun t e =>
      tupd t (remapElem core old new e.1) {} fun x => x.restore e.2) s.elems
    islands := (sv.islands.filter fun i => qs.contains (i.1 % 8 / 2)).foldl (fun t i =>
      tset t (core * 8 + remapQuad old new (i.1 % 8 / 2) * 2 + i.1 % 2) i.2) s.islands }

/-- Restore one region of a member: image, elements, then the proof wave (R316 steps 1 and 2). -/
def State.restoreImage (s : State) (k : Nat) (old new : List Nat) (sv : Saved) (im : Image) : Except State State :=
  let core := coreOf k
  let qs := sortBy (fun (a b : Nat) => decide (a < b)) (im.quads.map (remapQuad old new))
  match s.reloadImage k qs im with
  | .error e => .error e
  | .ok (s1, d, gs) =>
    let s2 := s1.writeImage core k qs d im.src im.wins (keepCounts im.gates gs)
    let base : Int := im.counterBase % (im.img.ii : Int)
    let s3 : State := { s2 with
      images := tupd s2.images (core * 4 + qs.headD 0) im fun i =>
        { i with patches := im.patches, flags := im.flags, counterBase := base, portsOpen := im.wasOpen, keepPorts := true } }
    .ok (s3.restoreSections core old new sv im.quads)

/-- Restore every region of a member. -/
def State.restoreImages (s : State) (k : Nat) (old new : List Nat) (sv : Saved) : List (Nat × Image) → Except State State
  | [] => .ok s
  | i :: r => match s.restoreImage k old new sv i.2 with | .error e => .error e | .ok s1 => s1.restoreImages k old new sv r

/-- Follow n links from a node (R58). -/
def State.followLinks (s : State) (k : Nat) (off : Int) (node : Word) : Nat → Except ((State × AccErr) × Word) (State × Word × Bool)
  | 0 => .ok (s, node, false)
  | n + 1 =>
    match s.devRead k (node + BitVec.ofInt 64 off) 8 with
    | .error e => .error (e, node + BitVec.ofInt 64 off)
    | .ok (s1, bs) =>
      if ofBytes bs = 0 then .ok (s1, node, true) else s1.followLinks k off (BitVec.ofNat 64 (ofBytes bs)) n

/-- The links that lead to element n of a linked list. -/
def linksTo (ext : List Nat) (n : Nat) : Nat :=
  let idx := idxAt ext n
  if idx.getD 0 0 = 0 then idx.getD 1 0 - 1 else idx.getD 1 0

/-- The record of an engine, read again from where it came (R69, R315, R316); one whose tile the gang no longer holds, or whose
DPA no longer reaches memory, stands as it was (DESIGN CHOICE, log 39). -/
def State.rereadRecord (s : State) (k : Nat) (g : Engine) : List Word :=
  match g.src with
  | .pantry n => tgetD (s.launch (s.launchOf k)).pantry.streams n g.record
  | .device dpa =>
    (match s.resolve (s.launchOf k / 4) dpa with
    | some (.mem key) => dwords (mgetN s.mem key 64)
    | _ => g.record)
  | .tile page off =>
    let key := pageKey (s.launchOf k) page
    if (s.tile? key).isSome then dwords (s.tileGet key off 64) else g.record

/-- The first byte of a resumed engine's record, where it lies in a page of a tile that is lost (R91). -/
def State.recordLost (s : State) (k : Nat) (g : Engine) : Option Word :=
  match g.src with
  | .tile page off =>
    let key := pageKey (s.launchOf k) page
    if (s.tile? key).isSome && (s.dirE (key + off / 2048)).lost then some (tileAddr key off) else none
  | _ => none

/-- A step of the loader on a resumed engine: a trap that the command would take is recorded in the engine (DESIGN CHOICE: R316
gives it no other end; log 39). -/
def State.reload (s : State) (e : Nat) (r : Res) : State :=
  match r with
  | .done s1 => s1
  | .trap t => s.faultEngine e t.code t.kind t.addr
  | .trapIn s1 t => s1.faultEngine e t.code t.kind t.addr
  | _ => s

/-- Bind a slot of a resumed engine again, to the handle register that it was bound from (R69, R316). -/
def State.rebind (s : State) (k : Nat) (x : Ctx) (e n : Nat) (old : Option Handle) (reg : Nat) : State :=
  let g := s.engine e
  if old.isNone ∨ g.st ≠ .loaded then s
  else s.reload e (s.bindHandle k x e g (BitVec.ofNat 4 reg) n true)

/-- The extents that a resumed engine's SGO had read from the handle register of its record are read again (R57, R69). -/
def State.retake (s : State) (k : Nat) (x : Ctx) (e : Nat) : State :=
  let g := s.engine e
  if g.st ≠ .loaded ∨ g.extOk = true then s
  else s.reload e (s.takeExtents k x g fun g1 => .done ((s.setEngine e g1).checkFoot e))

/-- SAGEN and SBIND issued again for a resumed engine (R69, R316): a record in a page of a tile that is lost is TILE_FAULT kind 7
(R91). -/
def State.reissue (s : State) (k : Nat) (x : Ctx) (e : Nat) (g : Engine) : State :=
  let s1 := match s.recordLost k g with
    | some a => s.faultEngine e 0x05 7 a
    | none => s.reload e (s.loadEngine k x e (s.rereadRecord k g) g.src)
  let s2 := (s1.rebind k x e 0 g.slot0 g.reg0).rebind k x e 1 g.slot1 g.reg1
  let s3 := if g.extOk then s2.retake k x e else s2
  if g.hostOk ∧ (s3.engine e).st = .loaded then s3.reload e (s3.bindHost k x e (s3.engine e)) else s3

/-- A program whose commands have been issued again goes on at word n (R69): words read ahead are read again; a linked one finds
its node from the start of the list. Words that an engine had taken from a port, which cannot be read again, stay in its receive
buffer, for which R315's save image has no place (DESIGN CHOICE, log 39). -/
def State.rerun (s : State) (k e : Nat) (g : Engine) (unit : Nat) : State :=
  let h := s.engine e
  let sub := recSrcKind h.record = 4
  if h.st ≠ .loaded then s
  else
    let g1 := { h with st := g.st, n := g.n, skip := if sub then g.n - unit else 0, left := g.left
                       rbuf := if sub then [] else g.gather.map (fun w => BitVec.ofNat 64 w.2) ++ g.rbuf }
    if recLinked h.record ∧ g.st = .running then
      match s.followLinks k (recLinkOff h.record) h.srcBase (linksTo h.ext g.n) with
      | .ok (s1, node, ended) => s1.setEngine e { g1 with node := node, ended := ended }
      | .error ((s1, .dva kind), a) => (s1.setEngine e g1).faultEngine e 0x04 kind a
      | .error ((s1, _), _) => (s1.setEngine e g1).faultEngine e 0x0B 0 0
    else s.setEngine e g1

/-- An engine that resumes (R69, R316): the commands of a program that was loaded or running are issued again, and it goes on at
word n; where one faults, the destination tile that the program had bound returns to EMPTY (R65, R86). An engine that was idle
or had a fault recorded stays so. -/
def State.restoreEngine (s : State) (k : Nat) (x : Ctx) (e : Nat) (g : Engine) (unit : Nat) : State :=
  if g.st = .idle ∨ g.st = .faulted then s.setEngine e { g with ctx := k }
  else
    let s1 := (s.reissue k x e g).rerun k e g unit
    if (s1.engine e).st = .faulted then s1.emptyDst { g with ctx := k } else s1

/-- The engine key after a resume. -/
def remapEngine (core : Nat) (old new : List Nat) (e : Nat) : Nat :=
  core * 16 + engBase (remapQuad old new (engQuad (e % 16))) + e % 4

/-- The word from which a saved push starts again: that after the last unit that every subscription had taken (R49). -/
def SavedGang.pushFrom (g : SavedGang) (u : Push) : Nat :=
  let ns := u.subs.map fun x => ((g.members.flatMap (·.engines)).find? fun e => e.1 == x.1).elim 0 fun e => e.2.n
  let m := ns.foldl Nat.min u.count
  m / (if u.unit = 0 then 1 else u.unit) * u.unit

/-- The words of a saved engine's push that were taken by every subscription, 0 for an engine that is none. -/
def SavedGang.unitFor (g : SavedGang) (e : Nat) : Nat :=
  match g.pushes.find? fun u => u.2.subs.any fun x => x.1 == e with
  | some u => g.pushFrom u.2
  | none => 0

/-- Whether a barrier that a saved member is to have again is held by another gang of its new core: the resume waits until it
is free (DESIGN CHOICE: R316 gives the same number back and says nothing of a number in use; log 46). -/
def State.barsBusy (s : State) (gk : Nat) (m : Nat × Saved) : Bool :=
  m.2.bars.any fun b => match (s.bar (coreOf m.1 * 32 + b.1)).gang with | some o => o != gk | none => false

/-- Restore one member's CP state, engines and barriers (R316 steps 3 to 5); what it waited for it meets again when it issues. Where
barriers of one number were saved on two cores whose members resume on one, the later member's state stands: R225 and R316 do not say
which (DESIGN CHOICE, log 46). -/
def State.restoreMember (s : State) (gk k : Nat) (sg : SavedGang) (sv : Saved) : State :=
  let core := coreOf k
  let new := (s.ctx k).quads
  let old := sv.ctx.quads
  let last := sv.ctx.lastLoad.bind fun i => (tget? sv.images i).map fun im =>
    core * 4 + (sortBy (fun (a b : Nat) => decide (a < b)) (im.quads.map (remapQuad old new))).headD 0
  let x : Ctx := { sv.ctx with status := .running, wait := none, gang := gk, quads := new, preReq := false, lastLoad := last }
  let s1 := sv.engines.foldl (fun s e => s.restoreEngine k x (remapEngine core old new e.1) e.2 (sg.unitFor e.1)) (s.setCtx k x)
  { s1 with bars := sv.bars.foldl (fun t b =>
      tset t (core * 32 + b.1) { gang := some gk, expected := b.2.1, arrivals := b.2.2.1, phase := b.2.2.2 }) s1.bars }

/-- Restore the pushes of a gang at their restart (R49): the subscriptions that had not taken their last word. One whose SAGEN or
SBIND has faulted at the resume is left out, and the push starts again for the others: DESIGN CHOICE, R49 does not say whether
such a fault ends the push, log 30. -/
def State.restorePush (s : State) (members : List Nat) (sg : SavedGang) (u : Nat × Push) : State :=
  let place := fun (e : Nat) =>
    match (members.zip sg.members).find? fun m => m.2.engines.any fun x => x.1 == e with
    | some m => remapEngine (coreOf m.1) m.2.ctx.quads (s.ctx m.1).quads e
    | none => e
  let subs := (u.2.subs.map fun x => (place x.1, 0)).filter fun x => (s.engine x.1).st == .running
  let depth := subs.foldl (fun m x => Nat.min m (recDepth (s.engine x.1).record)) 4
  let ctx := members.headD 0
  let n := sg.pushFrom u.2
  let p : Push := { u.2 with n := n, permits := depth, subs := subs, ctx := ctx }
  if subs.isEmpty then s
  else if recLinked u.2.record then
    match s.followLinks ctx (recLinkOff u.2.record) u.2.base (linksTo (recExt u.2.record) n) with
    | .ok (s1, node, ended) => { s1 with pushes := tset s1.pushes u.1 { p with node := node, ended := ended } }
    | .error ((s1, er), a) =>
      let f := match er with | .dva kind => (0x04, kind, a) | _ => (0x0B, 0, 0)
      subs.foldl (fun s x => s.faultEngine x.1 f.1 f.2.1 f.2.2) s1
  else { s with pushes := tset s.pushes u.1 p }

/-- Free the pages of a gang's save images (R316). -/
def State.freeSaves (s : State) (l : Nat) (sg : SavedGang) : State :=
  sg.members.foldl (fun s m => (List.range m.npages).foldl (fun s i => s.freePage (pageKey l (m.page + i))) s) s

/-- The keys of the tiles that a saved member had pinned. -/
def Saved.pinTiles (sv : Saved) (l : Nat) : List Nat :=
  sv.pins.map fun r => pageKey l (atomPage (sv.ctx.h.toList.getD r {}).atom)

/-- Bring in the pages of the tiles a resumed member pins (R85, R316 step 6). -/
def State.bringPins (s : State) (k : Nat) (sv : Saved) : PageRes :=
  s.pagesAccess (coreOf k) ((sv.pinTiles (s.launchOf k)).flatMap s.tileKeys) (s.ctx k).gang false

/-- Pin a resumed member's tiles, each that stays within the core's limit (R85). -/
def State.repin (s : State) (k : Nat) (sv : Saved) : State :=
  (sv.pinTiles (s.launchOf k)).foldl (fun s key =>
    let keys := s.tileKeys key
    let fresh := keys.filter fun p => !s.pagePinned (coreOf k) p && ((s.dirE p).sealed || s.writerCore (s.dirE p) == coreOf k)
    if 2048 < s.pinnedFrames (coreOf k) + fresh.length then s
    else keys.foldl (fun s p => s.pinPage (coreOf k) p k) s) s

/-- Wait for the pages of the pinned tiles: the members of a resumed gang that still miss some (R80). -/
def State.bringAll (s : State) : List (Nat × Saved) → State × Bool
  | [] => (s, true)
  | m :: r =>
    match s.bringPins m.1 m.2 with
    | .ok s1 => s1.bringAll r
    | .fault _ _ _ => s.bringAll r
    | .wait s1 => (((s1.updCtx m.1 fun x => x.waiting (.page 0) s.clock).bringAll r).1, false)

/-! ### Abandoning a checkpointed gang (R81, R91, R279) -/

/-- A store of a checkpointed element that had fired is performed, translated on the core where it fired (R279): none where it cannot
be. An access outside its window's extent, a load, a store to a tile that the abandonment frees, and one that has waited for its mapping
beyond the fault limit (R32) are over. -/
def State.settleAway (s : State) (core l : Nat) (im : Image) (m : MemPend) : Option State :=
  let w := im.winOf m
  let n : Nat := 2 ^ (m.word.cond.toNat % 4)
  if m.op ≠ 1 ∨ !w.isDva ∨ m.off < 0 ∨ (w.extent : Int) < m.off + n then some s
  else
    let late := decide (m.since + 2700 * (s.launch l).faultLimit < s.clock)
    match s.translate core l (w.base + BitVec.ofInt 64 m.off) true with
    | .error _ => if late then some s else none
    | .ok (s1, x) =>
      match s1.performAt (l / 4) x (toBytes m.value.toNat n) with
      | .ok s2 => some s2
      | .error (s2, _) => if late then some s2 else none

/-- The accesses of a checkpointed element, in the order of their firings, until one cannot be performed: what is left of them. -/
def State.settlePend (s : State) (core l : Nat) (im : Image) : List MemPend → State × List MemPend
  | [] => (s, [])
  | m :: r =>
    match s.settleAway core l im m with
    | some s1 => s1.settlePend core l im r
    | none => (s, m :: r)

/-- The fired stores of a checkpointed member's elements. -/
def State.settleElems (s : State) (l : Nat) (sv : Saved) : List (Nat × Elem) → State × List (Nat × Elem)
  | [] => (s, [])
  | e :: r =>
    let a := match sv.images.find? fun i => i.1 / 4 == e.1 / 4096 && i.2.quads.contains (elemQuad e.1) with
      | some i => s.settlePend (e.1 / 4096) l i.2 e.2.mem
      | none => (s, [])
    let b := a.1.settleElems l sv r
    (b.1, (e.1, { e.2 with mem := a.2 }) :: b.2)

/-- The fired stores of a checkpointed gang's elements. -/
def State.settleSaved (s : State) (l : Nat) : List Saved → State × List Saved
  | [] => (s, [])
  | m :: r =>
    let a := s.settleElems l m m.elems
    let b := a.1.settleSaved l r
    (b.1, { m with elems := a.2 } :: b.2)

/-- Whether some checkpointed element still has an access to perform. -/
def savedStores (ms : List Saved) : Bool := ms.any fun m => m.elems.any fun e => !e.2.mem.isEmpty

/-- The end of a checkpointed gang that is abandoned: its saved state, place, open pages and plans are freed; its application is
requeued as R81 counts it, or reduced to ⊥. -/
def State.endSaved (s : State) (gk : Nat) (sg : SavedGang) (e : Ending) : State :=
  let i := sg.gang.ra
  let s1 := (s.unplace gk).freeSaves (sg.gang.part * 4 + sg.gang.slot) sg
  let s2 := ((s1.openTiles gk).foldl State.freeTile s1).freePlans gk
  let s3 := { s2 with saved := tdel s2.saved gk }
  let s4 := s3.setRa i { s3.ra i with saved := none, gang := 0 }
  match e with
  | .reduce code => s4.reduceErr i code
  | .requeue =>
    if (s.ra i).strikes + 1 ≥ 4 then s4.reduceErr i 5
    else (s4.requeue i).setRa i { (s4.requeue i).ra i with strikes := (s.ra i).strikes + 1 }

/-- A checkpointed gang is abandoned (R81, R91, R361): the stores that its elements had fired are performed first; where one
cannot be performed yet, the gang gives up its place and ends when none is left (R279; log 20). -/
def State.abandonSaved (s : State) (gk : Nat) (sg : SavedGang) (e : Ending) : State :=
  let a := s.settleSaved (sg.gang.part * 4 + sg.gang.slot) sg.members
  if savedStores a.2 then
    let s1 := a.1.unplace gk
    { s1.setRa sg.gang.ra { s1.ra sg.gang.ra with st := .placed gk, gang := gk } with
      saved := tset s1.saved gk { sg with members := a.2, gang := { sg.gang with ending := some e } } }
  else a.1.endSaved gk sg e

/-- The abandoned checkpointed gangs with a fired store: it is tried again every microsecond, and at the end of the fault limit
(R32, R279). -/
def State.retrySaved (s : State) : State :=
  s.saved.foldl (fun s g =>
    match g.2.gang.ending with
    | some e =>
      let limit := 2700 * (s.launch (g.2.gang.part * 4 + g.2.gang.slot)).faultLimit
      let due := g.2.members.any fun m => m.elems.any fun x => x.2.mem.any fun p =>
        (s.clock - p.since) % 2700 == 0 || decide (p.since + limit < s.clock)
      if due then s.abandonSaved g.1 g.2 e else s
    | none => s) s

/-- Quadrants of a core that no image is loaded in for a restore: what another gang has left in their elements and islands is
gone (R316 step 2). -/
def State.clearQuads (s : State) (core : Nat) (qs : List Nat) : State :=
  { s with
    elems := s.elems.filter fun e => !(e.1 / 4096 == core && qs.contains (elemQuad e.1))
    islands := s.islands.filter fun i => !(i.1 / 8 == core && qs.contains (i.1 % 8 / 2)) }

/-- Restore the regions of every member, and the sections of the quadrants that it held without an image (R260, R316); an error
when an image cannot be had (R361). -/
def State.restoreRegions (s : State) : List (Nat × Saved) → Except State State
  | [] => .ok s
  | m :: r =>
    match s.restoreImages m.1 m.2.ctx.quads (s.ctx m.1).quads m.2 m.2.images with
    | .error e => .error e
    | .ok s1 =>
      let bare := m.2.ctx.quads.filter fun q => !m.2.images.any fun i => i.2.quads.contains q
      let new := (s.ctx m.1).quads
      ((s1.clearQuads (coreOf m.1) (bare.map (remapQuad m.2.ctx.quads new))).restoreSections (coreOf m.1) m.2.ctx.quads new m.2 bare).restoreRegions r

/-- Whether a page of a gang's save images is lost (R317). -/
def SavedGang.pageLost (sg : SavedGang) (s : State) (l : Nat) : Bool :=
  sg.members.any fun m => (List.range m.npages).any fun i => (s.dirE (pageKey l (m.page + i))).lost

/-- The writer fields of a gang's open pages name its contexts after a resume (R73, R79). -/
def State.newWriters (s : State) (gk : Nat) (members : List Nat) : State :=
  { s with dir := s.dir.map fun (e : Nat × DirEnt) =>
      match (if e.2.sealed ∨ e.2.owner ≠ gk then none else members[e.2.wrank]?) with
      | some k => (e.1, { e.2 with wcore := coreOf k, wctx := k % 8 })
      | none => e }

/-- What walks and fetches have left in the tables and caches, and nothing else, kept in another state (R30, R32, R140). -/
def State.walked (s t : State) : State :=
  { s with mem := t.mem, l1d := t.l1d, l2 := t.l2, tlb := t.tlb, ptc := t.ptc, cfg := t.cfg, freeCtr := t.freeCtr }

/-- Resume a checkpointed gang that has been placed (R316). One that has a page of its save images lost reduces to ⊥ with
TILE_FAULT (R82, R317; DESIGN CHOICE, log 84). -/
def State.resumeGang (s : State) (gk : Nat) (sg : SavedGang) : State :=
  let g := s.gang gk
  let l := g.part * 4 + g.slot
  let ms := g.members.zip sg.members
  if sg.pushes.any (fun u => (tget? s.pushes u.1).isSome) || ms.any (s.barsBusy gk) then s
  else
    let b := s.bringAll ms
    if !b.2 then b.1
    else
      if sg.pageLost b.1 l then b.1.abandonSaved gk sg (.reduce 5)
      else match b.1.restoreRegions ms with
      | .error s1 => (b.1.walked s1).abandonSaved gk sg (.reduce 1)
      | .ok s1 =>
        let s2 := (ms.foldl (fun s m => s.restoreMember gk m.1 sg m.2) s1).newWriters gk g.members
        let s3 := sg.pushes.foldl (fun s u => s.restorePush g.members sg u) s2
        let s4 := ms.foldl (fun s m => s.repin m.1 m.2) s3
        let s5 := { s4.freeSaves l sg with saved := tdel s4.saved gk }
        (s5.setGang gk { s5.gang gk with started := true }).setRa g.ra { s5.ra g.ra with saved := none }

/-- Start every member of a gang in one tree cycle (R99, R306). -/
def State.startGang (s : State) (gk : Nat) : State :=
  let g := s.gang gk
  let o := tgetD (s.launch (g.part * 4 + g.slot)).pantry.ops g.op {}
  let s1 := g.members.foldl (fun s k => s.updCtx k fun x => freshCtx x o) s
  s1.setGang gk { g with started := true }

/-- A placed context starts, and with it its whole gang, once its operator's microprogram is resident on every member's
core: fresh at `.entry`, or with its saved state (R99, R183, R306, R316). -/
def execContextStart (core ctx : Nat) (s : State) : Host.Outcome State Fault Refusal :=
  let x := s.ctx (core * 8 + ctx)
  let g := s.gang x.gang
  let resident := g.members.all fun k => (s.core (coreOf k)).code.contains (g.part, g.slot, g.op)
  if x.status ≠ .placed ∨ g.started ∨ !resident then .next s
  else
    match tget? s.saved x.gang with
    | some sg => .next (s.resumeGang x.gang sg)
    | none => .next (s.startGang x.gang)

end Sys2Proof.Machine
end

