-- ==== Sys2Proof/Machine/Errors.lean ====
section
/-! DEFINITION. Errors and containment (R91, R317 to R320) and the margin planner (R4, R6, R336). -/

namespace Sys2Proof.Machine
open Sys2Proof

/-! ### Counting (R319) -/

/-- The number under which the error counts of a slice are kept, after the 64 cores (log 48). -/
def sliceUnit (slice : Nat) : Nat := 64 + slice

/-- Whether the newest two of a list of powered hours lie within 24 hours (R319). -/
def twoWithin (l : List Nat) : Bool := match l with | a :: b :: _ => decide (a ≤ b + 24) | _ => false

/-- Count an uncorrectable error in the state of a core or slice: the second within 24 powered hours starts its fencing
(R319, R320). -/
def State.countError (s : State) (u : Nat) : State :=
  s.updCore u fun c =>
    let l := s.hours :: c.uncorrected
    { c with uncorrected := l, fenced := c.fenced || twoWithin l }

/-- Whether a core's fencing has begun and is not complete. -/
def State.fenceBegun (s : State) (core : Nat) : Bool := s.corePresent core && (s.core core).fenced

/-! ### Lost pages (R91) -/

/-- The page of an entry is lost: it holds no data and stands nowhere (R82, R91, R317). -/
def State.losePage (s : State) (key : Nat) : State :=
  let e := s.dirE key
  { s.sttDrop key with
    dir := tset s.dir key { e with lost := true, data := [], loc := .none, copies := 0, backed := false }
    xfers := s.xfers.filter (·.page != key)
    frames := s.frames.filter fun f => match f.2 with | .page k _ => k != key | _ => true
    spills := s.spills.filter fun f => match f.2 with | .page k _ => k != key | _ => true }

/-- Another holder of a sealed page: a copy, a backing slot; none when no holder remains (R78, R91). Of several copies it is that
in the core of the lowest number: DESIGN CHOICE, R74 names none, log 12. -/
def State.otherHolder (s : State) (key : Nat) (e : DirEnt) (copies : BitVec 64) : Option Loc :=
  match (List.range 64).find? fun c => copies.getLsbD c with
  | some c => some (.scratch c ((s.frameOf c key).getD 0))
  | none => if e.backed then some .backing else none

/-- An error takes the data of an open page: its gang is abandoned (R81, R91). A gang whose commit is accepted counts as
retired (R186, R235), so its page is lost as a sealed page would be (DESIGN CHOICE: R91 does not say; log 67). -/
def State.abandonOwner (s : State) (gk key : Nat) : State :=
  match tget? s.saved gk with
  | some sg => s.abandonSaved gk sg .requeue
  | none => if s.accepted (s.gang gk).ra then s.losePage key else s.abandonWait gk 5

/-- An error in a scratchpad frame (R91). -/
def State.frameError (s : State) (core frame : Nat) : State :=
  match tget? s.frames (core * 4096 + frame) with
  | some (.page key _) =>
    let e := s.dirE key
    if !e.sealed then s.abandonOwner e.owner key
    else
      let copies := e.copies &&& ~~~(BitVec.ofNat 64 (2 ^ core))
      let s1 := { s with
        frames := tdel s.frames (core * 4096 + frame)
        stt := s.stt.filter fun o => o.1 % 2 ^ 44 != key || o.1 / 2 ^ 44 != core }
      match e.loc with
      | .scratch c _ =>
        if c = core then
          match s1.otherHolder key e copies with
          | some l => s1.setDir key { e with copies := copies, loc := l }
          | none => s1.losePage key
        else s1.setDir key { e with copies := copies }
      | _ => s1.setDir key { e with copies := copies }
  | _ => s

/-- An error in a spill frame (R91). A frame of directory entries is the error of those entries, each its own event. -/
def State.spillError (s : State) (slice frame : Nat) : State :=
  match tget? s.spills (slice * 6144 + frame) with
  | some (.page key _) =>
    let e := s.dirE key
    if !e.sealed then s.abandonOwner e.owner key
    else
      let s1 := { s with spills := tdel s.spills (slice * 6144 + frame) }
      match s1.otherHolder key e e.copies with
      | some l => s1.setDir key { e with loc := l }
      | none => s1.losePage key
  | _ => s

/-! ### Uncorrectable errors (R317) -/

/-- Images of a core's configuration cache are dropped: one that an active region pins only if `pinned` says so (R140,
R317). -/
def State.cfgDrop (s : State) (core launch entry : Nat) (pinned : Bool) : State :=
  { s with cfg := s.cfg.filter fun c =>
      !(c.core == core && c.launch == launch && c.entry == entry && (pinned || !s.cfgPinned c)) }

/-- A configuration word of an active region (R317): the firings freeze, the image is fetched again and rewritten with
queues, registers and predicates kept, and proved; the second failure in one image, or one that cannot be fetched, is
ECC_FATAL (R311). -/
def State.refetch (s : State) (ik : Nat) (im : Image) : State :=
  if 1 ≤ im.errors then s.eccFatal (s.ctx im.ctx).gang
  else
    match (s.cfgDrop (ik / 4) (s.launchOf im.ctx) im.img.ccid true).reloadImage im.ctx im.quads im with
    | .error s1 => s1.eccFatal (s.ctx im.ctx).gang
    | .ok (s1, d, gs) => s1.writePatch ik { im with errors := im.errors + 1, keepPorts := true } d d gs im.patches

/-- ECC_FATAL of the gang whose context holds a quadrant of a core, whether an image is loaded there or not (R311, R317). One that
is placed and has not started has put nothing there. -/
def State.eccQuad (s : State) (core q : Nat) : State :=
  match s.ctxs.find? fun e => coreOf e.1 == core && e.2.status != .free && e.2.status != .placed && e.2.quads.contains q with
  | some e => s.eccFatal e.2.gang
  | none => s

/-- What the part does about an uncorrectable error, where it occurs (R317). A region is active from the start of its proof wave
(R140; DEDUCED, log 84). -/
def State.handleError (s : State) (e : ErrAt) : State :=
  match e with
  | .leafCell cell =>
    match tget? s.row cell, s.partOf (cell / 256) with
    | some x, some p => s.stopLaunch (p * 4 + x.slot) 3 0
    | _, _ => s
  | .nodeCell _ _ => s
  | .configActive core q =>
    match s.images.find? fun i => i.1 / 4 == core && i.2.holds && i.2.quads.any fun j => q.getLsbD j with
    | some i => s.refetch i.1 i.2
    | none => s
  | .configInactive core launch entry => s.cfgDrop core launch entry false
  | .icache _ => s
  | .contextState core ctx =>
    let x := s.ctx (core * 8 + ctx)
    match x.status with
    | .free => s
    | .placed => s
    | .running => s.takeTrap (core * 8 + ctx) .eccFatal
    | _ => s.eccFatal x.gang
  | .elementState core row col => s.eccQuad core (quadOf row col)
  | .islandBank core isl => s.eccQuad core (isl / 2)
  | .cleanLine core line =>
    match tget? s.l1d (l1dKey core (64 * line)) with
    | some false => { s with l1d := tdel s.l1d (l1dKey core (64 * line)) }
    | _ => s
  | .dirtyLine part dpaLine =>
    match s.resolve part (64 * dpaLine) with
    | some (.mem key) => { s with poison := key / 64 :: s.poison.filter (· != key / 64) }
    | _ => s
  | .cleanL2 slice q =>
    match tget? s.l2 (l2Key slice q) with
    | some false => { s with l2 := tdel s.l2 (l2Key slice q) }
    | _ => s
  | .frame core frame => s.frameError core frame
  | .spillFrame slice frame => s.spillError slice frame
  | .dirEntry part slot page =>
    let key := pageKey (part * 4 + slot) page
    if (tget? s.dir key).isSome then s.losePage key else s
  | .staging part plan =>
    match tget? s.plans (part * 8192 + plan) with
    | some pl =>
      if pl.done < pl.fires then
        { s with plans := tset s.plans (part * 8192 + plan) { pl with poisoned := some (pl.poisoned.getD (pl.done + 1)) } }
      else s
    | none => s

/-- Where a dirty or pinned line lies: in the L1D of the core that holds it dirty, else in its home slice, in the cache part or
the pinned part (R317, R319, R320). -/
def State.lineUnit (s : State) (p dpaLine : Nat) : Option Nat :=
  match (s.l1d.find? fun e => e.2 && e.1 % 2 ^ 70 == dpaLine && s.partOf (e.1 / 2 ^ 70) == some p).map (·.1 / 2 ^ 70) with
  | some core => some core
  | none =>
    if 2 ^ 51 ≤ 64 * dpaLine then ((s.part p).sliceOf (64 * dpaLine)).map sliceUnit
    else
      match (s.part p).lineHome (64 * dpaLine) with
      | some h => if tgetD s.l2 (l2Key h.slice h.q) false then some (sliceUnit h.slice) else none
      | none => none

/-- The core or slice in whose state an error lies, if any (R319, R320): the nodes of levels 1 to 4 lie in a core (R38). -/
def State.errorUnit (s : State) (e : ErrAt) : Option Nat :=
  match e with
  | .leafCell cell => some (cell / 256)
  | .nodeCell level index => if level ≤ 4 then some (index / 4 ^ (4 - level)) else none
  | .configActive core _ => some core
  | .configInactive core _ _ => some core
  | .icache core => some core
  | .contextState core _ => some core
  | .elementState core _ _ => some core
  | .islandBank core _ => some core
  | .cleanLine core _ => some core
  | .dirtyLine part dpaLine => s.lineUnit part dpaLine
  | .cleanL2 slice _ => some (sliceUnit slice)
  | .frame core _ => some core
  | .spillFrame slice _ => some (sliceUnit slice)
  | .dirEntry part slot page => some (sliceUnit (s.homeSlice (pageKey (part * 4 + slot) page)))
  | .staging _ _ => none

/-- An uncorrectable error (R317), counted where it lies in a core or slice (R319). -/
def execUncorrectableError (e : ErrAt) (s : State) : Host.Outcome State Fault Refusal :=
  match s.errorUnit e with
  | some u => .next ((s.countError u).handleError e)
  | none => .next (s.handleError e)

/-- A corrected error in an array of a core or slice: fixed and counted; 1,024 of one array within 24 powered hours
start its fencing (R317, R319). -/
def execCorrectedError (core array : Nat) (s : State) : Host.Outcome State Fault Refusal :=
  .next (s.updCore core fun c =>
    let l := (s.hours, array) :: c.corrected.filter fun e => decide (s.hours ≤ e.1 + 24)
    { c with corrected := l, fenced := c.fenced || decide (1024 ≤ (l.filter fun e => e.2 == array).length) })

/-! ### Fencing a core (R319) -/

/-- The gangs with a member on a core. -/
def State.gangsOn (s : State) (core : Nat) : List Nat :=
  (s.gangs.filter fun g => g.2.members.any fun k => coreOf k == core).map (·.1)

/-- Whether a gang must leave a core before its fencing goes on: one whose growing commit waits is halted where it is
(R192); any other is dropped, checkpointed or retired first. -/
def State.leaves (s : State) (gk : Nat) : Bool := (s.ra (s.gang gk).ra).st != .waiting

/-- The frames of a core that hold a page. -/
def State.pageFrames (s : State) (core : Nat) : List (Nat × Nat) :=
  s.frames.filterMap fun f => if f.1 / 4096 = core then (match f.2 with | .page key _ => some (f.1 % 4096, key) | _ => none) else none

/-- Empty a core's scratchpad (R319 step 3): transfers end, open pages and last copies go to spill, copies are dropped. -/
def State.emptyFrames (s : State) (core : Nat) : State :=
  let touches := fun (x : Xfer) => x.core == core || (match x.from_ with | .scratch c _ => c == core | _ => false)
  let s1 := (s.xfers.filter touches).foldl (fun s x => (s.arrive x).dropXfer x) s
  (s1.pageFrames core).foldl (fun s f => s.evict core f.1 f.2) s1

/-- Clear what a fenced core caches: translations, lines, resident code and images (R319). -/
def State.clearCore (s : State) (core : Nat) : State :=
  { s.updCore core fun c => { c with code := [] } with
    stt := s.stt.filter fun o => !(o.1 / 2 ^ 44 == core || o.2.remote && o.2.core == core)
    tlb := s.tlb.filter fun e => e.core != core
    l1d := s.l1d.filter fun e => e.1 / 2 ^ 70 != core
    owners := s.owners.filter fun e => e.2 != core
    xfers := s.xfers.map fun x => { x with needs := x.needs.filter (· != core) }
    cfg := s.cfg.filter fun c => c.core != core
    bars := s.bars.filter fun e => e.1 / 32 != core
    dev := { s.dev with fencedCores := s.dev.fencedCores ||| BitVec.ofNat 64 (2 ^ core) } }

/-- The last steps of a fencing in a partition (R194, R319 steps 4 and 5): the row is rebalanced, or with no present core
left every launch stops; the capability block and the error interrupt follow. -/
def State.fencedIn (s : State) (p : Nat) (old : List Nat) : State :=
  let s1 := if (s.partCores p).isEmpty then
      [0, 1, 2, 3].foldl (fun s i =>
        let st := (s.launch (p * 4 + i)).state
        if st = 1 ∨ st = 2 ∨ st = 3 then s.stopLaunch (p * 4 + i) 3 0 else s) s
    else s.rebalance p old
  ((s1.updateCaps p).setErr p 1).fillQueues

/-- The fencing of a core (R319), step by step until its gangs and pages have left it. -/
def execFenceCore (core : Nat) (s : State) : Host.Outcome State Fault Refusal :=
  if !s.fenceBegun core then .next s
  else
    match s.partOf core with
    | none => .next ((s.emptyFrames core).clearCore core)
    | some p =>
      let s1 := (s.gangsOn core).foldl State.haltGang s
      let s2 := s1.checkpointDue p
      if (s2.gangsOn core).any s2.leaves then .next s2.fillQueues
      else
        let s3 := s2.emptyFrames core
        if !(s3.pageFrames core).isEmpty then .next s3.fillQueues
        else .next ((s3.clearCore core).fencedIn p (s3.partCells p))

/-! ### Slice maps and fencing a slice (R44, R320) -/

/-- The bytes of SLMAP that stage a map (R43). -/
def mapBytes (m : List Nat) : Tab Byte := ((List.range m.length).zip m).map fun e => (e.1, BitVec.ofNat 8 (128 + e.2))

/-- The cache parts of a partition's slices hold no line (R44, R327): dirty ones have gone back to their targets, which hold
every byte (log 5). -/
def State.clearL2 (s : State) (p : Nat) : State :=
  { s with l2 := s.l2.filter fun e => !(s.part p).clusters.getLsbD (e.1 / 2 ^ 60 / 4) }

/-- Start a change to a map (R44 steps 1 and 2): the generation rises, every SLCFG takes effect, bit 63 reads 1, the cache
parts are written back and invalid. -/
def State.startMap (s : State) (p : Nat) (m : List Nat) : State :=
  (s.clearL2 p).updPart p fun x =>
    { x with map := m, oldMap := x.map, gen := x.gen + 1, slBusy := true, slRejected := false, split := x.slcfg }

/-- The partition of a slice, if any. -/
def State.partOfSlice (s : State) (slice : Nat) : Option Nat :=
  (s.parts.find? fun e => e.2.clusters.getLsbD (slice / 4)).map (·.1)

/-- The fencing of a slice (R320): a map without it is staged and committed once no change is under way. A map must name
a slice (R42), so the last one stays in its map (log 49). -/
def execFenceSlice (slice : Nat) (s : State) : Host.Outcome State Fault Refusal :=
  if 64 ≤ slice ∨ !(s.core (sliceUnit slice)).fenced ∨ s.dev.fusedSlices.getLsbD slice ∨ s.dev.fencedSlices.getLsbD slice then .next s
  else
    let gone : State := { s with dev := { s.dev with fencedSlices := s.dev.fencedSlices ||| BitVec.ofNat 64 (2 ^ slice) } }
    match s.partOfSlice slice with
    | none => .next gone
    | some p =>
      let x := s.part p
      let m := x.map.filter (· != slice)
      if x.slBusy then .next s
      else if m.isEmpty ∨ !x.map.contains slice then .next ((gone.updateCaps p).setErr p 2)
      else .next ((((gone.updPart p fun y => { y with slmap := mapBytes m }).startMap p m).updateCaps p).setErr p 2)

/-! ### Bins (R4, R6, R336) -/

/-- Whether a core, or the slice of a unit from 64 on, is there: neither fused off nor fenced (R1, R319, R320). -/
def State.unitPresent (s : State) (u : Nat) : Bool :=
  if u < 64 then s.corePresent u
  else decide (u < 128) && !s.dev.fusedSlices.getLsbD (u - 64) && !s.dev.fencedSlices.getLsbD (u - 64)

/-- What the planner answers for a unit: a bin from 0 to 3 for a core; any other number says that the lowest bin does not do,
and the core or slice is fenced (R319, R320, R336). -/
def State.setBins (s : State) (bins : List (Nat × Nat)) : State :=
  bins.foldl (fun s b =>
    if 4 ≤ b.2 then s.updCore b.1 fun c => { c with fenced := true }
    else if b.1 < 64 then s.updCore b.1 fun c => { c with bin := b.2 }
    else s) s

/-- A run of the margin planner (R336): the bins that it chooses, for the cores and slices that are there, make the current
plan; cores that it does not name keep theirs. -/
def State.replan (s : State) (bins : List (Nat × Nat)) : State :=
  let s1 := s.setBins (bins.filter fun b => s.unitPresent b.1)
  let plan := ((List.range 64).filter s1.corePresent).map fun c => (c, (s1.core c).bin)
  State.updateAllCaps { s1 with dev := { s1.dev with planHour := s.hours, plan := plan } }

/-- A thermal alarm (R6, R325): the planner lowers bins, never the results; the partitions concerned are told. -/
def execThermalAlarm (bins : List (Nat × Nat)) (s : State) : Host.Outcome State Fault Refusal :=
  let l := bins.filter fun b => s.corePresent b.1 && decide ((s.core b.1).bin < b.2)
  let ps := ((l.filter fun b => decide (b.2 < 4)).filterMap fun b => s.partOf b.1).eraseDups
  .next (ps.foldl (fun s p => s.setErr p 8) (s.replan l))

/-- A margin alarm of a core, or of a slice by its unit (R336): counted; the planner chooses bins, and a unit whose alarm the
lowest bin cannot clear is fenced. -/
def execMarginAlarm (unit : Nat) (bins : List (Nat × Nat)) (s : State) : Host.Outcome State Fault Refusal :=
  if !s.unitPresent unit then .next s
  else .next (State.replan { s with dev := { s.dev with alarms := s.dev.alarms + 1 } } bins)

/-- The plan of every 2,000 powered hours (R336). -/
def execMarginPlanTimer (bins : List (Nat × Nat)) (s : State) : Host.Outcome State Fault Refusal :=
  if s.dev.bootsts ≠ 3 ∨ s.hours < s.dev.planHour + 2000 then .next s
  else .next (s.replan (bins.filter fun b => decide (b.2 < 4)))

end Sys2Proof.Machine
end

