-- ==== Sys2Proof/Machine/FloatOps.lean ====
section
/-! DEFINITION. The float instructions of the CP (R205, R207 to R211). -/

namespace Sys2Proof.Machine
open Sys2Proof

/-- The FP32 operand in the low half of a g register (R207). -/
def Ctx.f32 (x : Ctx) (r : BitVec 5) : W32 := (x.rg r).extractLsb' 0 32

/-- FCMP writes a predicate and raises its flags (R205). -/
def execFcmp (c : Guard) (d : BitVec 3) (a b : BitVec 5) (cc : BitVec 3) (s : State) : Host.Outcome State Fault Refusal :=
  s.cp c fun k x =>
    let r := fcmpVal cc.toNat (v32 (x.f32 a)) (v32 (x.f32 b))
    .done (s.updCtx k fun x => { x.wp d r.1 with fxFlags := stick x.fxFlags r.2 })

/-- A float instruction of three operands, g[d] among them (R207, R208). -/
def floatOp (f : W32 → W32 → W32 → Nat × FFlags) (c : Guard) (d a b : BitVec 5) (s : State) :
    Host.Outcome State Fault Refusal :=
  s.cp c fun k x => s.setsF k d (f (x.f32 d) (x.f32 a) (x.f32 b))

/-- FADD (R208). -/
def execFadd (c : Guard) (d a b : BitVec 5) (s : State) := floatOp (fun _ x y => addVal (v32 x) (v32 y)) c d a b s
/-- FSUB (R208). -/
def execFsub (c : Guard) (d a b : BitVec 5) (s : State) := floatOp (fun _ x y => addVal (v32 x) (negVal (v32 y))) c d a b s
/-- FMUL (R208). -/
def execFmul (c : Guard) (d a b : BitVec 5) (s : State) := floatOp (fun _ x y => mulVal (v32 x) (v32 y)) c d a b s
/-- FMA: RN(d + a·b), one rounding (R208). -/
def execFma (c : Guard) (d a b : BitVec 5) (s : State) := floatOp (fun z x y => fmaVal (v32 x) (v32 y) (v32 z)) c d a b s
/-- FMIN (R166, R208). -/
def execFmin (c : Guard) (d a b : BitVec 5) (s : State) := floatOp (fun _ x y => minMax fp32 false x.toNat y.toNat) c d a b s
/-- FMAX (R166, R208). -/
def execFmax (c : Guard) (d a b : BitVec 5) (s : State) := floatOp (fun _ x y => minMax fp32 true x.toNat y.toNat) c d a b s
/-- FABS: the sign bit cleared, even of a NaN (R166, R208). -/
def execFabs (c : Guard) (d a : BitVec 5) (s : State) := floatOp (fun _ x _ => (x.toNat % 2 ^ 31, FFlags.none)) c d a 0 s
/-- FNEG: the sign bit inverted (R166, R208). -/
def execFneg (c : Guard) (d a : BitVec 5) (s : State) := floatOp (fun _ x _ => ((x ^^^ 0x80000000).toNat, FFlags.none)) c d a 0 s
/-- FDIV (R159, R208). -/
def execFdiv (c : Guard) (d a b : BitVec 5) (s : State) := floatOp (fun _ x y => divVal (v32 x) (v32 y)) c d a b s
/-- FSQRT (R159, R208). -/
def execFsqrt (c : Guard) (d a : BitVec 5) (s : State) := floatOp (fun _ x _ => sqrtVal (v32 x)) c d a 0 s
/-- FEXP2 (R168, R208). -/
def execFexp2 (c : Guard) (d a : BitVec 5) (s : State) := floatOp (fun _ x _ => exp2Bits x) c d a 0 s
/-- FLOG2 (R169, R208). -/
def execFlog2 (c : Guard) (d a : BitVec 5) (s : State) := floatOp (fun _ x _ => log2Bits x) c d a 0 s
/-- FRCP (R170, R208). -/
def execFrcp (c : Guard) (d a : BitVec 5) (s : State) := floatOp (fun _ x _ => rcpBits x) c d a 0 s

/-- The bits of a format's element (R71, R154). -/
def fmtBits (f : Nat) : Nat := 8 * fmtSize f

/-- FCVT (R209): the source from the low bits of g[a] in its own width; a float result zero-extended, an integer
result sign-extended for formats 0 to 2 and zero-extended for 3 and 4. -/
def execFcvt (c : Guard) (d a : BitVec 5) (src : BitVec 4) (sat : Bool) (dst : BitVec 4) (rm : BitVec 2) (s : State) :
    Host.Outcome State Fault Refusal :=
  s.cp c fun k x =>
    let r := convertBits src.toNat dst.toNat sat rm.toNat ((x.rg a).toNat % 2 ^ fmtBits src.toNat)
    let v := BitVec.ofNat 64 r.1
    let v := if dst.toNat ≤ 2 then sextN (fmtBits dst.toNat) v else zextN (fmtBits dst.toNat) v
    .done (s.updCtx k fun x => { x.wg d v with fxFlags := stick x.fxFlags r.2 })

/-- The bits of a width code of FTOI and ITOF: 8, 16, 32 or 64 (R210, R211). -/
def convWidth (w : BitVec 2) : Nat := 8 * 2 ^ w.toNat

/-- FTOI (R161, R210). -/
def execFtoi (c : Guard) (d a : BitVec 5) (z : Bool) (width : BitVec 2) (rm : BitVec 2) (s : State) :
    Host.Outcome State Fault Refusal :=
  s.cp c fun k x =>
    let r := floatToInt (convWidth width) (!z) rm.toNat (v32 (x.f32 a))
    .done (s.updCtx k fun x => { x.wg d (BitVec.ofInt 64 r.1) with fxFlags := stick x.fxFlags r.2 })

/-- ITOF: rounds in the mode of fx.mode (R211). -/
def execItof (c : Guard) (d a : BitVec 5) (z : Bool) (width : BitVec 2) (s : State) : Host.Outcome State Fault Refusal :=
  s.cp c fun k x =>
    s.setsF k d (intToFloat fp32 false x.fxMode.toNat
      (intOf (convWidth width) (!z) ((x.rg a).toNat % 2 ^ convWidth width)))

end Sys2Proof.Machine
end

