-- ==== Sys2Proof/Machine/Memory.lean ====
section
/-! DEFINITION. Device loads and stores, prefetch and clean, fences, atomics (R216 to R224). -/

namespace Sys2Proof.Machine
open Sys2Proof

/-- Note in the caches the line that an access of a normal page used (R27); on any other page the walk is all. -/
def State.noteLine (s : State) (k : Nat) (a : Word) (dirty own : Bool) : State :=
  match s.translate (coreOf k) (s.launchOf k) a false with
  | .ok (s', ⟨dpa, .mem key, 0⟩) => s'.cacheLine (s.launchOf k / 4) (coreOf k) dpa key dirty own
  | .ok (s', _) => s'
  | _ => s

/-- A load of n bytes at A into g[d] (R216). One that takes MISALIGN or DVA_FAULT makes no access, so a poisoned line is no trap of
it (DEDUCED, log 82). -/
def State.loadRes (s : State) (k : Nat) (a : Word) (n : Nat) (zero : Bool) (d : BitVec 5) : Res :=
  if a.toNat % n != 0 then .trap (.misalign a)
  else
    match s.devRead k a n with
    | .error e => AccErr.res e a
    | .ok (s', bs) => (s'.noteLine k a false false).setsG k d (extendLoad zero n (BitVec.ofNat 64 (ofBytes bs)))

/-- A store of the n low bytes of a value at A (R216). -/
def State.storeRes (s : State) (k : Nat) (x : Ctx) (a : Word) (n : Nat) (v : Word) : Res :=
  if a.toNat % n != 0 then .trap (.misalign a)
  else
    match s.devWrite k x.wait a (toBytes v.toNat n) with
    | .error e => AccErr.res e a
    | .ok s' => .done (s'.noteLine k a true true)

/-- LD (R216). -/
def execLd (c : Guard) (d base : BitVec 5) (size : BitVec 2) (off : BitVec 9) (s : State) : Host.Outcome State Fault Refusal :=
  s.cp c fun k x => s.loadRes k (memAddr (x.rg base) size off) (sizeBytes size) false d

/-- LDZ (R216). -/
def execLdz (c : Guard) (d base : BitVec 5) (size : BitVec 2) (off : BitVec 9) (s : State) : Host.Outcome State Fault Refusal :=
  s.cp c fun k x => s.loadRes k (memAddr (x.rg base) size off) (sizeBytes size) true d

/-- ST (R216). -/
def execSt (c : Guard) (d base : BitVec 5) (size : BitVec 2) (off : BitVec 9) (s : State) : Host.Outcome State Fault Refusal :=
  s.cp c fun k x => s.storeRes k x (memAddr (x.rg base) size off) (sizeBytes size) (x.rg d)

/-- LDX and LDX.z (R217). -/
def execLdx (c : Guard) (d a b : BitVec 5) (sh : BitVec 3) (z : Bool) (size : BitVec 2) (s : State) :
    Host.Outcome State Fault Refusal :=
  s.cp c fun k x => s.loadRes k (indexAddr (x.rg a) (x.rg b) sh) (sizeBytes size) z d

/-- STX (R217). -/
def execStx (c : Guard) (d a b : BitVec 5) (sh : BitVec 3) (size : BitVec 2) (s : State) : Host.Outcome State Fault Refusal :=
  s.cp c fun k x => s.storeRes k x (indexAddr (x.rg a) (x.rg b) sh) (sizeBytes size) (x.rg d)

/-- PRF: brings the line into L1D, with write ownership for `.wr`; a prefetch that would fault or names no normal page is
dropped, its walk apart (R30, R218). Whether `.wr` on a page that is not writable counts as one that would fault R218 does not say: the
model translates it as a read and takes write ownership (DESIGN CHOICE, log 78). -/
def execPrf (c : Guard) (wr : Bool) (base : BitVec 5) (off : BitVec 9) (s : State) : Host.Outcome State Fault Refusal :=
  s.cp c fun k x => .done (s.noteLine k (memAddr (x.rg base) 0 off) false wr)

/-- CLN: a dirty line of L1D becomes clean; none on other pages or on lines of the context's log (R218). -/
def execCln (c : Guard) (base : BitVec 5) (off : BitVec 9) (s : State) : Host.Outcome State Fault Refusal :=
  s.cp c fun k x =>
    let a := memAddr (x.rg base) 0 off
    match s.translate (coreOf k) (s.launchOf k) a false with
    | .error kind => .trap (.dvaFault kind a)
    | .ok (s', ⟨dpa, .mem key, mtype⟩) =>
      if mtype != 0 || x.slog.any (fun l => l.line == key / 64) then .done s'
      else if tget? s'.l1d (l1dKey (coreOf k) dpa) = some true then
        .done ((s'.l1dClean (coreOf k) dpa).l2Touch (s.launchOf k / 4) dpa true)
      else .done s'
    | .ok (s', _) => .trapIn s' (.dvaFault 4 a)

/-- FNC: every access of the model is performed at its step, so every kind and scope completes at once (R221; log 5). -/
def execFnc (c : Guard) (_kind : BitVec 2) (_scope : BitVec 3) (s : State) : Host.Outcome State Fault Refusal :=
  s.cp c fun _ _ => .done s

/-! ### Atomics -/

/-- The place at which an atomic is performed (R223). -/
inductive Place where
  | l1d | home | target
  deriving DecidableEq, Repr

/-- The place of an atomic by memory type, scope (R106: 0 .ctx, 2 .core, 5 .sys) and DPA (R223). -/
def placeOf (mtype : Nat) (scope : BitVec 3) (dpa : Nat) : Place :=
  if mtype = 0 ∧ (scope = 0 ∨ scope = 2) then .l1d
  else if 2 ^ 51 ≤ dpa then .home
  else if mtype = 0 ∧ scope ≠ 5 then .home
  else .target

/-- What an atomic performed at its place leaves in the caches (R223): at the core's L1D a dirty line there; at the home
slice or the target the line in the slice, or none, and no line in the core's L1D, whose older copy is written back and
dropped. Atomics at different places still see one memory here: R223 allows it (log 5). -/
def State.atPlace (s : State) (p core dpa key : Nat) (mtype : Nat) (scope : BitVec 3) : State :=
  match placeOf mtype scope dpa with
  | .l1d => s.cacheLine p core dpa key true true
  | .home =>
    let s1 : State := { s with l1d := tdel s.l1d (l1dKey core dpa) }
    if mtype = 0 then s1.l2Touch p dpa true else s1
  | .target => { s with l1d := tdel s.l1d (l1dKey core dpa) }

/-- An atomic of n bytes: the new memory value from the old, g[b] and g[d]; g[d] := old (R222). An `effects`
context performs it at the place of R223, a restartable one in its own view at .ctx (R224). -/
def atomicOp (n : Nat) (f : Word → Word → Word → Word) (c : Guard) (d a b : BitVec 5) (scope : BitVec 3) (s : State) :
    Host.Outcome State Fault Refusal :=
  s.cp c fun k x =>
    let addr := x.rg a
    if addr.toNat % n != 0 then .trap (.misalign addr)
    else
      match s.translate (coreOf k) (s.launchOf k) addr true with
      | .error kind => .trap (.dvaFault kind addr)
      | .ok (s', ⟨dpa, .mem key, mtype⟩) =>
        let p := s.launchOf k / 4
        if s'.poison.contains (key / 64) then .trapIn s' .eccFatal
        else
          let old : Word := BitVec.ofNat 64 (ofBytes (s'.viewN x key n))
          let new := toBytes (f old (x.rg b) (x.rg d)).toNat n
          if s'.effects k then ((s'.put key new).atPlace p (coreOf k) dpa key mtype scope).setsG k d old
          else
            match s'.logStore k x.wait addr ⟨dpa, .mem key, mtype⟩ key new with
            | .error e => AccErr.res e addr
            | .ok s'' => (s''.atPlace p (coreOf k) dpa key mtype 0).setsG k d old
      | .ok (s', _) => .trapIn s' (.dvaFault 4 addr)

/-- AADD (R222). -/
def execAadd (c : Guard) (d a b : BitVec 5) (scope : BitVec 3) (s : State) := atomicOp 8 (fun o v _ => o + v) c d a b scope s
/-- AMIN, signed (R222). -/
def execAmin (c : Guard) (d a b : BitVec 5) (scope : BitVec 3) (s : State) :=
  atomicOp 8 (fun o v _ => if o.sle v then o else v) c d a b scope s
/-- AMAX, signed (R222). -/
def execAmax (c : Guard) (d a b : BitVec 5) (scope : BitVec 3) (s : State) :=
  atomicOp 8 (fun o v _ => if o.sle v then v else o) c d a b scope s
/-- AAND (R222). -/
def execAand (c : Guard) (d a b : BitVec 5) (scope : BitVec 3) (s : State) := atomicOp 8 (fun o v _ => o &&& v) c d a b scope s
/-- AOR (R222). -/
def execAor (c : Guard) (d a b : BitVec 5) (scope : BitVec 3) (s : State) := atomicOp 8 (fun o v _ => o ||| v) c d a b scope s
/-- AXCH (R222). -/
def execAxch (c : Guard) (d a b : BitVec 5) (scope : BitVec 3) (s : State) := atomicOp 8 (fun _ v _ => v) c d a b scope s
/-- ACAS: g[d] supplies the expected value (R222). -/
def execAcas (c : Guard) (d a b : BitVec 5) (scope : BitVec 3) (s : State) :=
  atomicOp 8 (fun o v e => if o = e then v else o) c d a b scope s
/-- AFADD: 4 bytes, RN_fp32(old + g[b][31:0]), no flag (R156, R157, R222). -/
def execAfadd (c : Guard) (d a b : BitVec 5) (scope : BitVec 3) (s : State) :=
  atomicOp 4 (fun o v _ => BitVec.ofNat 64 (addVal (v32 (o.extractLsb' 0 32)) (v32 (v.extractLsb' 0 32))).1) c d a b scope s

end Sys2Proof.Machine
end

