-- ==== Sys2Proof/Machine/Host.lean ====
section
/-! DEFINITION. What the host and the outside do to the part: the register windows (R321 to R329), translations
(R33, R34), slice maps (R43, R44), partitions (R327), boot and reset (R334, R337), inbound UIO (R23), SPDM (R335). -/

namespace Sys2Proof.Machine
open Sys2Proof

/-- Whether a partition is defined. -/
def State.defined (s : State) (p : Nat) : Bool := (tget? s.parts p).isSome

/-! ### Route table, slice split and slice map -/

/-- A write of a route-table entry (R25): one whose mask names a port neither 0 nor granted is ignored. -/
def execRouteTableWrite (part granule : Nat) (v : Word) (s : State) : Host.Outcome State Fault Refusal :=
  let allowed := (s.part part).ports ||| 1
  if !s.defined part ∨ 2048 ≤ granule ∨ v.extractLsb' 0 32 &&& ~~~allowed ≠ 0 then .next s
  else .next (s.updPart part fun p => { p with routes := tset p.routes granule (v &&& 0xFFF80000FFFFFFFF) })

/-- Whether a slice is live: neither fused off nor fenced (R1, R320). -/
def State.sliceLive (s : State) (slice : Nat) : Bool :=
  decide (slice < 64) && !s.dev.fusedSlices.getLsbD slice && !s.dev.fencedSlices.getLsbD slice

/-- The live slices granted to a partition, ascending (R42, R327). -/
def State.granted (s : State) (p : Nat) : List Nat :=
  (List.range 64).filter fun j => (s.part p).clusters.getLsbD (j / 4) && s.sliceLive j

/-- A write of SLCFG of a slice of the partition's clusters, a live one or not (R40): in force from the next map change. -/
def execSlcfgWrite (part slice : Nat) (v : Word) (s : State) : Host.Outcome State Fault Refusal :=
  if !s.defined part ∨ 64 ≤ slice ∨ (s.part part).clusters.getLsbD (slice / 4) = false ∨ v.extractLsb' 12 52 ≠ 0 ∨ v.extractLsb' 4 4 ≠ 0
      ∨ 12 < pinnedMiB v + spillMiB v then .next s
  else .next (s.updPart part fun p => { p with slcfg := tset p.slcfg slice v })

/-- The staged map (R43): its valid slots, none when they leave a gap. Bit [6] of a byte, neither valid nor a slice id, counts for
nothing (DESIGN CHOICE, log 80). -/
def Part.staged (p : Part) : Option (List Nat) :=
  let at_ := fun (j : Nat) => tgetD p.slmap j 0
  let d := ((List.range 64).filter fun j => (at_ j).getLsbD 7).length
  if (List.range d).all fun j => (at_ j).getLsbD 7 then some ((List.range d).map fun j => (at_ j).toNat % 64) else none

/-- The map that a commit puts in force, none when it is rejected (R42, R43), as a map of no slots is (DESIGN CHOICE, log 80). -/
def State.commitMap (s : State) (p : Nat) : Option (List Nat) :=
  match (s.part p).staged with
  | none => none
  | some m =>
    if (s.part p).slBusy || m.isEmpty || m.eraseDups.length != m.length || !m.all (s.granted p).contains then none else some m

/-- A write of SLGEN with bit 0 set commits the staged map (R43, R44). -/
def execSliceMapCommit (part : Nat) (v : Word) (s : State) : Host.Outcome State Fault Refusal :=
  if !s.defined part ∨ v ≠ 1 then .next s
  else
    match s.commitMap part with
    | none => .next (s.updPart part fun p => { p with slRejected := true })
    | some m => .next (s.startMap part m)

/-- A spill frame for a page that must leave its own: in its cluster, else in the map (R44, R84). -/
def State.rehomeFrame (s : State) (p slice : Nat) : Option (Nat × Nat) :=
  match s.freeClusterSpill p (slice / 4) with
  | some x => some x
  | none => (s.part p).map.findSome? fun sl => (s.freeSpill p sl).map fun f => (sl, f)

/-- Rehome one spilled page whose frame the new map or split takes away, and the source of its transfers; without room it
stays for now (R44). -/
def State.rehomePage (s : State) (p : Nat) (x : Nat × Nat × Nat) : State :=
  let move := fun (o l : Loc) => match o with | .spill _ _ => l | _ => o
  let loc := fun (s : State) (l : Loc) =>
    let e := s.dirE x.2.1
    { s.setDir x.2.1 { e with loc := move e.loc l } with
      xfers := s.xfers.map fun y => if y.page = x.2.1 then { y with from_ := move y.from_ l } else y }
  match s.rehomeFrame p (x.1 / 6144) with
  | some (sl, f) =>
    loc { s with spills := tset (tdel s.spills x.1) (sl * 6144 + f) (.page x.2.1 x.2.2) } (.spill sl f)
  | none =>
    match s.writeBacking x.2.1 with
    | some s1 => loc { s1 with spills := tdel s1.spills x.1 } .backing
    | none => s

/-- Directory blocks for the entries homed in a slice (R44, R75). -/
def State.homeBlocks (s : State) (p slice : Nat) : Nat → State
  | 0 => s
  | n + 1 => ((s.dirRoom p slice).getD s).homeBlocks p slice n

/-- Whether every spilled page of a partition lies in a spill frame of the map and split in force, and every slice of the map
has blocks for the entries homed there (R44 step 4). -/
def State.rehomed (s : State) (p : Nat) : Bool :=
  let x := s.part p
  s.spills.all (fun e => !x.clusters.getLsbD (e.1 / 6144 / 4)
      || (x.map.contains (e.1 / 6144) && decide (e.1 % 6144 < s.spillFrames p (e.1 / 6144))))
    && x.map.all fun sl => decide (s.homed p sl ≤ 64 * s.dirBlocks sl)

/-- The end of a map change (R44 step 4): spill frames and directory blocks are rehomed, and while one has no new home the
change goes on; pinned lines beyond the new capacity are gone (log 47); then bit 63 clears. -/
def execMapChangeComplete (part : Nat) (s : State) : Host.Outcome State Fault Refusal :=
  if !(s.part part).slBusy then .next s
  else
    let p := s.part part
    let mine := fun (k : Nat) => p.clusters.getLsbD (k / 6144 / 4)
    let s1 : State := { s with spills := s.spills.filter fun x => !(mine x.1 && x.2 == Spill.directory) }
    let out := s1.spills.filterMap fun (x : Nat × Spill) =>
      match x.2 with
      | .page key o =>
        if mine x.1 && (!p.map.contains (x.1 / 6144) || decide (s.spillFrames part (x.1 / 6144) ≤ x.1 % 6144)) then some (x.1, key, o)
        else none
      | .directory => none
    let s2 := out.foldl (fun s x => s.rehomePage part x) s1
    let s3 := p.map.foldl (fun s sl => s.homeBlocks part sl ((s.homed part sl + 63) / 64)) s2
    if !s3.rehomed part then .next s3
    else
      let beyond := fun (a : Nat) => a / 2 ^ 52 == 4096 + part && decide (p.pinnedCap ≤ a % 2 ^ 52)
      let s4 := { s3 with mem := s3.mem.filter fun e => !beyond e.1, poison := s3.poison.filter fun l => !beyond (64 * l) }
      .next ((s4.updPart part fun x => { x with slBusy := false, oldMap := [] }).updateCaps part)

/-! ### Invalidations (R33, R34) -/

/-- The launch slot, kind, level and DVA of a DVINV value. -/
def dvSlot (v : Word) : Nat := (v.extractLsb' 62 2).toNat
def dvKind (v : Word) : Nat := (v.extractLsb' 59 3).toNat
def dvLevel (v : Word) : Nat := (v.extractLsb' 56 3).toNat
def dvAddr (v : Word) : Nat := (v.extractLsb' 0 48).toNat

/-- Whether a DVINV value has no reserved field (R33). -/
def dvinvOk (v : Word) : Bool :=
  decide (dvKind v ≤ 2) && decide (dvLevel v ≤ 3) && v.extractLsb' 48 8 == 0 && v.extractLsb' 0 12 == 0

/-- Whether an invalidation names a launch slot. -/
def dvinvSlot (v : Word) (slot : Nat) : Bool := dvKind v == 2 || dvSlot v == slot

/-- Whether an invalidation covers some of a range of DVAs. -/
def dvinvMeets (v : Word) (lo n : Nat) : Bool :=
  if dvKind v ≠ 0 then true
  else
    let size := 2 ^ lvlShift (dvLevel v)
    let base := dvAddr v / size * size
    decide (lo < base + size) && decide (base < lo + n)

/-- Whether a gang of a partition holds a logged line under an invalidation. -/
def State.dvinvHits (s : State) (part : Nat) (v : Word) (g : Gang) : Bool :=
  g.part == part && !g.effects && dvinvSlot v g.slot
    && g.members.any fun k => (s.ctx k).slog.any fun l => l.dvaLines.any fun d => dvinvMeets v (64 * d) 64

/-- The stream engines of a partition whose launches an invalidation names. -/
def State.dvinvEngines (s : State) (part : Nat) (v : Word) : List Nat :=
  (s.engines.filter fun e =>
    let l := s.launchOf e.2.ctx
    l / 4 == part && dvinvSlot v (l % 4) && (e.2.st == .loaded || e.2.st == .running)).map (·.1)

/-- Start an invalidation (R34): the entries of the TLBs and of the walkers' caches are dropped, the engines' runs are translated
anew, restartable gangs with such lines are abandoned, uncounted; every access and burst of the model is complete between
steps (log 5). -/
def State.dvinv (s : State) (part kind : Nat) (v : Word) : State :=
  if !s.defined part ∨ (s.part part).dvinv.isSome ∨ !dvinvOk v ∨ dvKind v ≠ kind then s
  else
    let s1 := { s.updPart part fun p => { p with dvinv := some v } with
      tlb := s.tlb.filter fun e => !(e.part == part && dvinvSlot v e.slot && dvinvMeets v (e.vpage * 2 ^ e.bits) (2 ^ e.bits))
      ptc := s.ptc.filter fun e => !(e.part == part && dvinvSlot v e.slot && dvinvMeets v (e.vpage * 2 ^ lvlShift e.lvl) (2 ^ lvlShift e.lvl)) }
    let s1 := (s1.dvinvEngines part v).foldl (fun s e => s.renewRuns e fun r => dvinvMeets v (4096 * r.page) (4096 * r.count)) s1
    let hits := s1.gangs.filter fun g => s1.dvinvHits part v g.2
    let s2 := s1.updPart part fun p => { p with dvinvRas := (hits.map (·.2.ra)).filter s1.accepted }
    ((hits.map (·.1)).foldl State.abandon s2).fillQueues

def execDvinvPage (part : Nat) (v : Word) (s : State) : Host.Outcome State Fault Refusal := .next (s.dvinv part 0 v)
def execDvinvLaunch (part : Nat) (v : Word) (s : State) : Host.Outcome State Fault Refusal := .next (s.dvinv part 1 v)
def execDvinvPartition (part : Nat) (v : Word) (s : State) : Host.Outcome State Fault Refusal := .next (s.dvinv part 2 v)

/-- Bit 0 of DVINV clears once no accepted log still holds a line under the old entry (R34 step 3): an accepted commit with one is
applied; one that leaves its step to wait (R192) has not been applied, so its gang is abandoned as any other. -/
def execDvinvComplete (part : Nat) (s : State) : Host.Outcome State Fault Refusal :=
  match (s.part part).dvinv with
  | none => .next s
  | some _ =>
    let ras := (s.part part).dvinvRas.filter fun i => (tget? s.ras i).isSome
    let late := ras.filter fun i => (s.ra i).st == .waiting
    let s1 := if late.isEmpty then s else (late.foldl (fun s i => s.abandon (s.ra i).gang) s).fillQueues
    if ras.any s.accepted then .next s1
    else .next (s1.updPart part fun p => { p with dvinv := none, dvinvRas := [] })

/-! ### Errors, partitions, boot -/

/-- A write of ERRSTS: 1 clears a bit (R325). -/
def execErrstsClear (part : Nat) (v : Word) (s : State) : Host.Outcome State Fault Refusal :=
  if !s.defined part then .next s
  else .next (s.updPart part fun p => { p with errsts := p.errsts &&& ~~~(v.extractLsb' 0 4) })

/-- A write of PDEF that sets valid (R327): every spill frame of the slices of its clusters is free. Its tree's count of core
cycles begins at the clock: in bin 0 its tree cycles begin in the even core cycles of the clock (DESIGN CHOICE, log 54). -/
def execPartitionCreate (part : Nat) (lo hi : Word) (s : State) : Host.Outcome State Fault Refusal :=
  let clusters := lo.extractLsb' 0 16
  let ports := hi.extractLsb' 0 32
  if s.dev.bootsts ≠ 3 ∨ 16 ≤ part ∨ !lo.getLsbD 63 ∨ s.defined part ∨ ports.getLsbD 0 ∨ clusters = 0
      ∨ s.parts.any (fun e => e.2.clusters &&& clusters != 0 || e.2.ports &&& ports != 0) then .next s
  else
    let s1 := s.updPart part fun _ => { clusters := clusters, ports := ports, created := s.clock, ticks := s.clock }
    let m := s1.granted part
    let s2 := { s1.updPart part fun p => { p with map := m, slmap := mapBytes m, pace := s1.slowest part } with
      spills := s1.spills.filter fun f => !clusters.getLsbD (f.1 / 6144 / 4)
      mem := s1.mem.filter fun e => e.1 / 2 ^ 52 != 4096 + part
      poison := s1.poison.filter fun l => 64 * l / 2 ^ 52 != 4096 + part }
    .next (s2.updPart part fun p => { p with caps := s2.capBlock part ++ [0] })

/-- A write of PDEF that clears valid (R327): no cache or walker of the clusters holds anything of the partition (R302). -/
def execPartitionDelete (part : Nat) (lo : Word) (s : State) : Host.Outcome State Fault Refusal :=
  if s.dev.bootsts ≠ 3 ∨ lo.getLsbD 63 ∨ !s.defined part ∨ [0, 1, 2, 3].any (fun i => (s.launch (part * 4 + i)).state != 0) then .next s
  else
    let mine := fun (core : Nat) => (s.part part).clusters.getLsbD (core / 4)
    .next { s.clearL2 part with
      parts := tdel s.parts part
      tlb := s.tlb.filter fun e => e.part != part
      ptc := s.ptc.filter fun e => e.part != part
      l1d := s.l1d.filter fun e => !mine (e.1 / 2 ^ 70)
      owners := s.owners.filter fun e => !mine e.2 }

/-- Whether a port has trained and is up (R22). -/
def State.portUp (s : State) (port : Nat) : Bool := (tgetD s.dev.ports port {}).up

/-- A write of BOOTGO (R334): the image is loaded after port 0 has trained (R337 steps 3 and 4). -/
def execBootgo (v : Word) (s : State) : Host.Outcome State Fault Refusal :=
  if !s.portUp 0 ∨ s.dev.bootsts ≠ 0 ∨ v.toNat < 16225 ∨ 524288 < v.toNat then .next s
  else .next { s with dev := { s.dev with bootsts := 1, fwLen := v.toNat } }

/-- Training of the ports other than port 0 (R337 step 5): how each of them ends is outside the part (log 72). -/
def State.trainPorts (s : State) : State :=
  let train := fun (t : Tab Port) (n : Nat) =>
    match Config.portTraining n s.freeCtr with
    | some (x16, fast) => tset t n ⟨true, x16, fast⟩
    | none => tdel t n
  { s with dev := { s.dev with ports := ((List.range 32).drop 1).foldl train s.dev.ports }, freeCtr := s.freeCtr + 1 }

/-- The ROM checks the image's signature (R334); firmware that passes runs the rest of bring-up in its order (R337): the other
ports train, the first margin plan, then BOOTSTS 3. -/
def execFirmwareCheck (s : State) : Host.Outcome State Fault Refusal :=
  if s.dev.bootsts ≠ 1 then .next s
  else
    let image := mgetN s.dev.staging 0 s.dev.fwLen
    if !Config.slhDsaVerifies image then .next { s with dev := { s.dev with bootsts := 2 } }
    else
      let cores := (List.range 64).filter s.corePresent
      let plan := cores.map fun c => (c, Config.planBin (64 * s.hours + c) % 4)
      let s1 := plan.foldl (fun s b => s.updCore b.1 fun c => { c with bin := b.2 }) s.trainPorts
      .next { s1 with
        dev := { s1.dev with bootsts := 3, firmware := image, monitor := (Config.freeWord s1.freeCtr).extractLsb' 0 16,
                             plan := plan, planHour := s.hours }
        freeCtr := s1.freeCtr + 1 }

/-- A vector is unmasked: its pending message is sent (R326). -/
def execMsixUnmask (vec : Nat) (s : State) : Host.Outcome State Fault Refusal :=
  let bit : BitVec 96 := BitVec.ofNat 96 (2 ^ vec)
  let s1 : State := { s with dev := { s.dev with masked := s.dev.masked &&& ~~~bit, pending := s.dev.pending &&& ~~~bit } }
  if s.dev.pending.getLsbD vec then .next (s1.send (.msix vec)) else .next s1

/-- Reset (R337 steps 1 and 2): the ROM self-test, of which the spec gives no outcome, leaves the state after reset, with what
lies outside the part or is fused in it (log 50). -/
def execReset (s : State) : Host.Outcome State Fault Refusal :=
  let d := s.dev
  .next { State.reset with
    dev := { State.reset.dev with
      grade := d.grade, fusedCores := d.fusedCores, fusedSlices := d.fusedSlices, stepping := d.stepping, pbr := d.pbr, peers := d.peers, sent := d.sent }
    mem := s.mem.filter fun e => decide (e.1 < 4096 * 2 ^ 52)
    poison := s.poison.filter fun l => decide (64 * l < 4096 * 2 ^ 52)
    host := s.host
    inputs := s.inputs
    freeCtr := s.freeCtr }

/-! ### Ports (R22, R329) -/

/-- A port goes down (R25, R329): cap.5 and cap.6 of every partition show each port. -/
def execPortDown (port : Nat) (s : State) : Host.Outcome State Fault Refusal :=
  if 32 ≤ port ∨ !(tgetD s.dev.ports port {}).up then .next s
  else .next (State.updateAllCaps { s with dev := { s.dev with ports := tset s.dev.ports port {} } })

/-- A port has trained, at a width and a speed (R22, R329): port 0 first of all, another port not before the image has passed
its check (R337). -/
def execPortUp (port : Nat) (x16 fast : Bool) (s : State) : Host.Outcome State Fault Refusal :=
  let t : Port := ⟨true, x16, fast⟩
  if 32 ≤ port ∨ port ≠ 0 ∧ s.dev.bootsts ≠ 3 ∨ tgetD s.dev.ports port {} = t then .next s
  else .next (State.updateAllCaps { s with dev := { s.dev with ports := tset s.dev.ports port t } })

/-! ### Register writes and reads (R321, R322) -/

/-- A write to a partition window; only the manager alias writes offsets 0x1000 to 0x5FFF (R321, R322). -/
def writeWindow (part off : Nat) (manager : Bool) (v : Word) (s : State) : Host.Outcome State Fault Refusal :=
  if !s.defined part then .next s
  else if off = 0 then execLaunch part v s
  else if off = 8 then (if v.getLsbD 0 then execPreempt part v s else execResume part v s)
  else if 0x10 ≤ off ∧ off < 0x30 then execStatusFree part ((off - 0x10) / 8) v s
  else if off = 0x100 then
    (match dvKind v with | 0 => execDvinvPage part v s | 1 => execDvinvLaunch part v s | _ => execDvinvPartition part v s)
  else if off = 0x108 then execErrstsClear part v s
  else if !manager then .next s
  else if 0x1000 ≤ off ∧ off < 0x5000 then execRouteTableWrite part ((off - 0x1000) / 8) v s
  else if 0x5000 ≤ off ∧ off < 0x5200 then execSlcfgWrite part ((off - 0x5000) / 8) v s
  else if 0x5200 ≤ off ∧ off < 0x5240 then
    .next (s.updPart part fun p => { p with
      slmap := (List.range 8).foldl (fun t i => tset t (off - 0x5200 + i) (v.extractLsb' (8 * i) 8)) p.slmap })
  else if off = 0x5240 then execSliceMapCommit part v s
  else .next s

/-- A write to the management window (R321, R327, R334, R337). -/
def writeManager (off : Nat) (v : Word) (s : State) : Host.Outcome State Fault Refusal :=
  if off = 0x8000 then execBootgo v s
  else if s.dev.bootsts ≠ 3 ∨ 0x100 ≤ off then .next s
  else if off % 16 = 8 then
    if s.defined (off / 16) then .next s else .next { s with dev := { s.dev with pdef := tset s.dev.pdef (off / 16) (v &&& 0xFFFFFFFF) } }
  else if v.getLsbD 63 then execPartitionCreate (off / 16) v (tgetD s.dev.pdef (off / 16) 0) s
  else execPartitionDelete (off / 16) v s

/-- A write of the staging aperture, while BOOTSTS reads 0 and after port 0 has trained (R334, R337). -/
def State.stage (s : State) (at_ size : Nat) (v : Word) : State :=
  if s.portUp 0 ∧ s.dev.bootsts = 0 ∧ at_ + size ≤ 0x80000 then
    { s with dev := { s.dev with staging := msetN s.dev.staging at_ (toBytes v.toNat size) } }
  else s

/-- A write of `size` bytes, 8 at most, to BAR0 or BAR2: a register takes an aligned write of 8 bytes, and any other is ignored
(R321, R322); the staging aperture, which is no register, takes every write (DEDUCED; log 68). -/
def execRegisterWrite (bar off : Nat) (d : RegData) (s : State) : Host.Outcome State Fault Refusal :=
  if bar = 2 ∧ 0x80000 ≤ off ∧ off < 0x100000 then .next (s.stage (off - 0x80000) (Nat.min d.size 8) d.v)
  else if off % 8 ≠ 0 ∨ d.size ≠ 8 then .next s
  else if bar = 0 ∧ off < 0x100000 then writeWindow (off / 0x10000) (off % 0x10000) false d.v s
  else if bar = 2 ∧ off < 0x100000 then writeManager off d.v s
  else if bar = 2 ∧ off < 0x200000 then
    (if s.dev.bootsts = 3 then writeWindow ((off - 0x100000) / 0x10000) (off % 0x10000) true d.v s else .next s)
  else .next s

/-- One bit as a number shifted. -/
def bitAt (b : Bool) (i : Nat) : Nat := if b then 2 ^ i else 0

/-- A read of a partition window (R321 to R325). SLCFG(s) of every s reads what was written, else its reset value
0x400 (R40); that a slice which is not granted reads so too is DEDUCED; log 76. -/
def State.readWindow (s : State) (part off : Nat) : Word :=
  let p := s.part part
  if !s.defined part then 0
  else if off = 0 then BitVec.ofNat 64 (bitAt p.launchRefused 63 + p.launchSlot.toNat)
  else if off = 8 then
    BitVec.ofNat 64 (bitAt p.preBusy 8 + [0, 1, 2, 3].foldl (fun m i => m + bitAt ((s.launch (part * 4 + i)).state == 3) (4 + i)) 0)
  else if 0x10 ≤ off ∧ off < 0x30 then
    let l := s.launch (part * 4 + (off - 0x10) / 8)
    BitVec.ofNat 64 (l.state * 2 ^ 60 + l.fault * 2 ^ 48 + l.detail % 2 ^ 48)
  else if 0x40 ≤ off ∧ off < 0xC0 then p.caps.getD ((off - 0x40) / 8) 0
  else if off = 0x100 then BitVec.ofNat 64 (bitAt p.dvinv.isSome 0)
  else if off = 0x108 then p.errsts.zeroExtend 64
  else if 0x1000 ≤ off ∧ off < 0x5000 then tgetD p.routes ((off - 0x1000) / 8) 0
  else if 0x5000 ≤ off ∧ off < 0x5200 then
    tgetD p.slcfg ((off - 0x5000) / 8) 0x400
  else if 0x5200 ≤ off ∧ off < 0x5240 then
    BitVec.ofNat 64 (ofBytes ((List.range 8).map fun i => tgetD p.slmap (off - 0x5200 + i) 0))
  else if off = 0x5240 then
    BitVec.ofNat 64 (bitAt p.slBusy 63 + bitAt p.slRejected 62 + (p.map.length - 1) % 64 * 2 ^ 8 + p.gen.toNat)
  else 0

/-- A read of a register by the host (R321, R322, R327, R334): an aligned 8-byte read; any other returns zero. -/
def State.readRegister (s : State) (bar off size : Nat) : Word :=
  if off % 8 ≠ 0 ∨ size ≠ 8 then 0
  else if bar = 0 ∧ off < 0x100000 then s.readWindow (off / 0x10000) (off % 0x10000)
  else if bar = 2 ∧ 0x100000 ≤ off ∧ off < 0x200000 then s.readWindow ((off - 0x100000) / 0x10000) (off % 0x10000)
  else if bar = 2 ∧ off = 0x8008 then s.dev.bootsts.zeroExtend 64
  else if bar = 2 ∧ off < 0x100 then
    (match tget? s.parts (off / 16) with
     | some p => if off % 16 = 0 then BitVec.ofNat 64 (2 ^ 63 + p.clusters.toNat) else p.ports.zeroExtend 64
     | none => if off % 16 = 0 then 0 else tgetD s.dev.pdef (off / 16) 0)
  else 0

/-! ### Inbound UIO (R23, R318) -/

/-- The new value of an inbound atomic, in the order of R222. -/
def uioAtomic (op : BitVec 3) (old v e : Word) : Word :=
  match op.toNat with
  | 0 => old + v
  | 1 => if old.sle v then old else v
  | 2 => if old.sle v then v else old
  | 3 => old &&& v
  | 4 => old ||| v
  | 5 => v
  | 6 => if old = e then v else old
  | _ => BitVec.ofNat 64 (addVal (v32 (old.extractLsb' 0 32)) (v32 (v.extractLsb' 0 32))).1

/-- The bytes of a write request of a size. -/
def wholeBytes (bs : List Byte) (n : Nat) : List Byte := (List.range n).map fun i => bs.getD i 0

/-- An inbound UIO request of a peer at its granule offset (R23, R25): the pinned aperture at offset 0, the trigger
aperture at 0x1_0000_0000; anything else is Unsupported; a read of a poisoned line completes with Completer Abort. A read or a
write of the pinned aperture has any size and may cross lines, as no rule limits it; one that leaves the aperture is Unsupported.
What an atomic or a doubleword write of another size or alignment, a read of the trigger aperture and an atomic of a poisoned line
get is the model's reading (log 59). -/
def execUioRequest (req : UioReq) (s : State) : Host.Outcome State Fault Refusal :=
  let leaves := decide (req.dpa < 0x30000000) && decide ((s.part req.part).pinnedCap < req.dpa + req.size)
  if !s.defined req.part ∨ 2 ^ 40 ≤ req.dpa ∨ leaves then .next (s.send .uioUnsupported)
  else
    match s.resolve req.part (2 ^ 51 + req.dpa), req.kind with
    | some (.mem key), .read =>
      if s.poisonedIn key req.size then .next (s.send .uioAbort) else .next (s.send (.uioData (mgetN s.mem key req.size)))
    | some (.mem key), .write bs => .next ((s.put key (wholeBytes bs req.size)).send .uioDone)
    | some (.mem key), .atomic op v e =>
      let n := if op = 7 then 4 else 8
      if req.size ≠ n ∨ req.dpa % n ≠ 0 then .next (s.send .uioUnsupported)
      else if s.poison.contains (key / 64) then .next (s.send .uioAbort)
      else
        let old := mgetN s.mem key n
        .next ((s.put key (toBytes (uioAtomic op (BitVec.ofNat 64 (ofBytes old)) v e).toNat n)).send (.uioData old))
    | some (.trig m), .write _ =>
      if req.size ≠ 8 ∨ req.dpa % 8 ≠ 0 then .next (s.send .uioUnsupported)
      else
        match s.firePlan req.part m with
        | some s1 => .next (s1.send .uioDone)
        | none => .next (s.send .uioUnsupported)
    | _, _ => .next (s.send .uioUnsupported)

/-! ### SPDM (R335; log 7) -/

/-- Answer an SPDM request; its contents beyond the rule's are SPDM 1.3's. -/
def State.answer (s : State) (code : Nat) (data : List Byte) : State :=
  { s with dev := { s.dev with spdm := code :: s.dev.spdm } }.send (.spdm code data)

/-- The bytes of the fuse word: grade and fused-off units (R335). -/
def Device.fuseBytes (d : Device) : List Byte := toBytes d.grade 1 ++ toBytes d.fusedCores.toNat 8 ++ toBytes d.fusedSlices.toNat 8

/-- A measurement, indices 1 to 5 (R335). -/
def Device.measure (d : Device) (index : Nat) : List Byte :=
  match index with
  | 2 => sha256 d.firmware
  | 4 => Config.measurement 4 d.fuseBytes
  | 5 => Config.measurement 5 (d.plan.flatMap fun b => toBytes b.1 1 ++ toBytes b.2 1)
  | i => Config.measurement i []

/-- GET_VERSION starts the exchange anew. -/
def execGetVersion (s : State) : Host.Outcome State Fault Refusal :=
  .next ({ s with dev := { s.dev with spdm := [] } }.answer 1 (Config.spdmAnswer 1 []))
def execGetCapabilities (s : State) : Host.Outcome State Fault Refusal := .next (s.answer 2 (Config.spdmAnswer 2 s.dev.spdm))

/-- ALGORITHMS, in the layout of SPDM 1.3 (PRESUMED; log 7): no algorithm of the base asymmetric field, SHA-256 as base hash
(bit 0), and one extended asymmetric algorithm, that of the SLH-DSA-SHA2-192s identity key (R335); its number and what else
stands there are not in the spec. -/
def algorithms (free : List Byte) : List Byte :=
  let rest := fun (lo n : Nat) => wholeBytes (free.drop lo) n
  rest 0 12 ++ toBytes 0 4 ++ toBytes 1 4 ++ rest 20 12 ++ [1, 0] ++ rest 34 2 ++ wholeBytes (Config.spdmAnswer 103 []) 4 ++ free.drop 40

def execNegotiateAlgorithms (s : State) : Host.Outcome State Fault Refusal :=
  .next (s.answer 3 (algorithms (Config.spdmAnswer 3 s.dev.spdm)))
def execGetDigests (s : State) : Host.Outcome State Fault Refusal := .next (s.answer 4 (Config.spdmAnswer 4 s.dev.spdm))
def execGetCertificate (s : State) : Host.Outcome State Fault Refusal := .next (s.answer 5 (Config.spdmAnswer 5 s.dev.spdm))

/-- CHALLENGE: signed with the identity key (R335). -/
def execChallenge (nonce : Nat) (s : State) : Host.Outcome State Fault Refusal :=
  let body := Config.spdmAnswer 6 (nonce :: s.dev.spdm)
  .next (s.answer 6 (body ++ Config.slhDsaSign body))

/-- GET_MEASUREMENTS: index 0 asks for their number, 255 for all, 1 to 5 for one; signed (R335). -/
def execGetMeasurements (index : Nat) (s : State) : Host.Outcome State Fault Refusal :=
  let body :=
    if index = 0 then toBytes 5 1
    else if index = 255 then [1, 2, 3, 4, 5].flatMap s.dev.measure
    else if index ≤ 5 then s.dev.measure index
    else Config.spdmAnswer 7 (index :: s.dev.spdm)
  .next (s.answer 7 (body ++ Config.slhDsaSign body))

end Sys2Proof.Machine
end

