-- ==== Sys2Proof/Machine/Pager.lean ====
section
/-! DEFINITION. The events of the walker and the pager (R28, R77 to R83, R86, R220). -/

namespace Sys2Proof.Machine
open Sys2Proof

/-- A walk of a DVA for a unit of a core (R28, R32): A, and D on a write, are set and the TLB takes the leaf; a walk that
faults changes nothing, and the access that asked for it takes the fault. -/
def execPageTableWalk (core part slot : Nat) (dva : Word) (write : Bool) (s : State) : Host.Outcome State Fault Refusal :=
  match s.walk core (part * 4 + slot) dva write with
  | .ok (s1, f) => .next (s1.tlbFill core (part * 4 + slot) dva write f)
  | .error _ => .next s

/-- A walk of the directory after an STT miss, for a unit that may access the page (R77): the STT is filled, or a transfer
starts; a fault is that of the access. -/
def execSttMiss (core part slot page : Nat) (write : Bool) (s : State) : Host.Outcome State Fault Refusal :=
  let key := pageKey (part * 4 + slot) page
  match s.walkDir core key (s.dirE key).owner write with
  | .ok s1 => .next s1
  | .wait s1 => .next s1
  | .fault _ _ _ => .next s

/-- A page arrives where it was sent (R77 to R80). -/
def execPageArrival (core part slot page : Nat) (s : State) : Host.Outcome State Fault Refusal :=
  let key := pageKey (part * 4 + slot) page
  match s.xfers.find? fun x => x.page == key && x.core == core with
  | some x => .next (s.arrive x)
  | none => .next s

/-! ### The fault limit (R81, R220) -/

/-- Whether a wait counts and is over a limit in µs. -/
def Wait.overdue (w : Option Wait) (limit now : Nat) : Option WaitWhy :=
  match w with
  | some w => if w.why.counts = true ∧ w.since + 2700 * limit < now then some w.why else none
  | none => none

/-- A wait of a gang over its launch's fault limit: of a member, an engine, a memory element (R81, R220). -/
def State.overLimit (s : State) (gk : Nat) : Option WaitWhy :=
  let g := s.gang gk
  let limit := (s.launch (g.part * 4 + g.slot)).faultLimit
  let ctxs := g.members.map fun k => Wait.overdue (s.ctx k).wait limit s.clock
  let engs := s.engines.filterMap fun e =>
    if e.2.st = .running ∧ g.members.contains e.2.ctx then some (Wait.overdue e.2.wait limit s.clock) else none
  let mems := (s.images.filter fun i => g.members.contains i.2.ctx).flatMap fun i =>
    s.elems.filterMap fun e =>
      if e.1 / 4096 = i.1 / 4 ∧ i.2.quads.contains (elemQuad e.1) then
        e.2.mem.head?.map fun m => if m.dva then none else Wait.overdue (some ⟨m.why, m.since⟩) limit s.clock
      else none
  (ctxs ++ engs ++ mems).findSome? id

/-- A page or store-log wait of a gang passes the fault limit: the gang is abandoned, the fourth time in a row its
application reduces to ⊥ with TILE_FAULT, or LOG_FULL for a store-log wait (R81, R220). -/
def execFaultLimitExpiry (part gang : Nat) (s : State) : Host.Outcome State Fault Refusal :=
  let gk := part * 65536 + gang
  match s.overLimit gk with
  | none => .next s
  | some why =>
    match tget? s.saved gk with
    | some sg => .next (s.abandonSaved gk sg .requeue).fillQueues
    | none => .next (s.abandonWait gk (if why.isLog then 7 else 5)).fillQueues

/-- Fewer than 64 frames of a core are free beside those held back: the second-chance clock runs until one is freed (R83, R307). -/
def execSecondChanceClock (core : Nat) (s : State) : Host.Outcome State Fault Refusal :=
  if 4096 < s.takenFrames core + 64 then .next (s.clockFrom core 8192) else .next s

/-- The write-out of an open tile ends: DRAINING becomes READY (R86). -/
def execWriteOutEnd (part slot page : Nat) (s : State) : Host.Outcome State Fault Refusal :=
  let key := pageKey (part * 4 + slot) page
  match s.tile? key with
  | some t => if t.st = .draining then .next (s.setTileSt key .ready) else .next s
  | none => .next s

end Sys2Proof.Machine
end

