-- ==== Sys2Proof/Machine/Scalar.lean ====
section
/-! DEFINITION. Integer and address arithmetic, immediates, comparisons and predicates (R199 to R206). -/

namespace Sys2Proof.Machine
open Sys2Proof

/-- The integer operations of R199 on x and y kept to W bits, with the edge cases of R166. -/
def addW (w : Bool) (x y : Nat) : Nat := wrapW w (x + y)
def subW (w : Bool) (x y : Nat) : Nat := wrapW w ((x : Int) - y)
def mulW (w : Bool) (x y : Nat) : Nat := wrapW w (x * y)
def mulhW (w : Bool) (x y : Nat) : Nat := wrapW w (signW w x * signW w y / 2 ^ widthW w)
def mulhzW (w : Bool) (x y : Nat) : Nat := x * y / 2 ^ widthW w
def divW (w : Bool) (x y : Nat) : Nat := if y = 0 then wrapW w (-1) else wrapW w (Int.tdiv (signW w x) (signW w y))
def divzW (w : Bool) (x y : Nat) : Nat := if y = 0 then 2 ^ widthW w - 1 else x / y
def remW (w : Bool) (x y : Nat) : Nat := if y = 0 then x else wrapW w (Int.tmod (signW w x) (signW w y))
def remzW (_ : Bool) (x y : Nat) : Nat := if y = 0 then x else x % y
def andW (_ : Bool) (x y : Nat) : Nat := x &&& y
def orW (_ : Bool) (x y : Nat) : Nat := x ||| y
def xorW (_ : Bool) (x y : Nat) : Nat := x ^^^ y
def shlW (w : Bool) (x y : Nat) : Nat := wrapW w (x * 2 ^ (y % widthW w))
def shrW (w : Bool) (x y : Nat) : Nat := x / 2 ^ (y % widthW w)
def sarW (w : Bool) (x y : Nat) : Nat := wrapW w (signW w x / 2 ^ (y % widthW w))
def minW (w : Bool) (x y : Nat) : Nat := if signW w x ≤ signW w y then x else y
def maxW (w : Bool) (x y : Nat) : Nat := if signW w x ≤ signW w y then y else x
def absW (w : Bool) (x : Nat) : Nat := wrapW w (if signW w x < 0 then -signW w x else signW w x)
def clzW (w : Bool) (x : Nat) : Nat := if x = 0 then widthW w else widthW w - 1 - x.log2
def popFrom (x : Nat) : Nat → Nat
  | 0 => 0
  | n + 1 => x / 2 ^ n % 2 + popFrom x n
def popcW (w : Bool) (x : Nat) : Nat := popFrom x (widthW w)
/-- x[n−1:0] sign-extended to W bits; a width code 2 in the `.w` form keeps x. -/
def sextW (w : Bool) (n x : Nat) : Nat :=
  wrapW w (if x % 2 ^ n < 2 ^ (n - 1) then (x % 2 ^ n : Int) else (x % 2 ^ n : Int) - 2 ^ n)
def zextW (_ : Bool) (n x : Nat) : Nat := x % 2 ^ n

/-- The bits a width code of SEXT and ZEXT names: 8, 16, 32 (R199). -/
def widthCode (b : BitVec 5) : Nat := 8 * 2 ^ b.toNat

/-- A two-source integer instruction (R199). -/
def intOp (f : Bool → Nat → Nat → Nat) (c : Guard) (w : Bool) (d a b : BitVec 5) (s : State) :
    Host.Outcome State Fault Refusal :=
  s.cp c fun k x => s.setsG k d (putW w (f w (getW w (x.rg a)) (getW w (x.rg b))))

/-- A one-source integer instruction (R199). -/
def intOp1 (f : Bool → Nat → Nat) (c : Guard) (w : Bool) (d a : BitVec 5) (s : State) :
    Host.Outcome State Fault Refusal :=
  s.cp c fun k x => s.setsG k d (putW w (f w (getW w (x.rg a))))

/-- ADD (R199). -/
def execAdd (c : Guard) (w : Bool) (d a b : BitVec 5) (s : State) := intOp addW c w d a b s
/-- SUB (R199). -/
def execSub (c : Guard) (w : Bool) (d a b : BitVec 5) (s : State) := intOp subW c w d a b s
/-- MUL (R199). -/
def execMul (c : Guard) (w : Bool) (d a b : BitVec 5) (s : State) := intOp mulW c w d a b s
/-- MULH (R199). -/
def execMulh (c : Guard) (w : Bool) (d a b : BitVec 5) (s : State) := intOp mulhW c w d a b s
/-- MULHZ (R199). -/
def execMulhz (c : Guard) (w : Bool) (d a b : BitVec 5) (s : State) := intOp mulhzW c w d a b s
/-- DIV (R166, R199). -/
def execDiv (c : Guard) (w : Bool) (d a b : BitVec 5) (s : State) := intOp divW c w d a b s
/-- DIVZ (R166, R199). -/
def execDivz (c : Guard) (w : Bool) (d a b : BitVec 5) (s : State) := intOp divzW c w d a b s
/-- REM (R166, R199). -/
def execRem (c : Guard) (w : Bool) (d a b : BitVec 5) (s : State) := intOp remW c w d a b s
/-- REMZ (R166, R199). -/
def execRemz (c : Guard) (w : Bool) (d a b : BitVec 5) (s : State) := intOp remzW c w d a b s
/-- AND (R199). -/
def execAnd (c : Guard) (w : Bool) (d a b : BitVec 5) (s : State) := intOp andW c w d a b s
/-- OR (R199). -/
def execOr (c : Guard) (w : Bool) (d a b : BitVec 5) (s : State) := intOp orW c w d a b s
/-- XOR (R199). -/
def execXor (c : Guard) (w : Bool) (d a b : BitVec 5) (s : State) := intOp xorW c w d a b s
/-- SHL (R199). -/
def execShl (c : Guard) (w : Bool) (d a b : BitVec 5) (s : State) := intOp shlW c w d a b s
/-- SHR (R199). -/
def execShr (c : Guard) (w : Bool) (d a b : BitVec 5) (s : State) := intOp shrW c w d a b s
/-- SAR (R199). -/
def execSar (c : Guard) (w : Bool) (d a b : BitVec 5) (s : State) := intOp sarW c w d a b s
/-- MIN (R199). -/
def execMin (c : Guard) (w : Bool) (d a b : BitVec 5) (s : State) := intOp minW c w d a b s
/-- MAX (R199). -/
def execMax (c : Guard) (w : Bool) (d a b : BitVec 5) (s : State) := intOp maxW c w d a b s
/-- ABS (R199). -/
def execAbs (c : Guard) (w : Bool) (d a : BitVec 5) (s : State) := intOp1 absW c w d a s
/-- CLZ (R199). -/
def execClz (c : Guard) (w : Bool) (d a : BitVec 5) (s : State) := intOp1 clzW c w d a s
/-- POPC (R199). -/
def execPopc (c : Guard) (w : Bool) (d a : BitVec 5) (s : State) := intOp1 popcW c w d a s
/-- SEXT: field b is a width code (R199). -/
def execSext (c : Guard) (w : Bool) (d a b : BitVec 5) (s : State) := intOp1 (fun w x => sextW w (widthCode b) x) c w d a s
/-- ZEXT: field b is a width code (R199). -/
def execZext (c : Guard) (w : Bool) (d a b : BitVec 5) (s : State) := intOp1 (fun w x => zextW w (widthCode b) x) c w d a s

/-- SEL: all 64 bits of one of two registers (R200). -/
def execSel (c : Guard) (d a b : BitVec 5) (k : BitVec 3) (s : State) : Host.Outcome State Fault Refusal :=
  s.cp c fun ck x => s.setsG ck d (if x.rp k then x.rg a else x.rg b)

/-- An immediate operation on g[a] (R201). -/
def immOp (f : Word → Word) (c : Guard) (d a : BitVec 5) (s : State) : Host.Outcome State Fault Refusal :=
  s.cp c fun k x => s.setsG k d (f (x.rg a))

/-- ADDI (R201). -/
def execAddi (c : Guard) (d a : BitVec 5) (imm : BitVec 11) (s : State) := immOp (· + imm.signExtend 64) c d a s
/-- ANDI (R201). -/
def execAndi (c : Guard) (d a : BitVec 5) (imm : BitVec 11) (s : State) := immOp (· &&& imm.signExtend 64) c d a s
/-- ORI (R201). -/
def execOri (c : Guard) (d a : BitVec 5) (imm : BitVec 11) (s : State) := immOp (· ||| imm.signExtend 64) c d a s
/-- XORI (R201). -/
def execXori (c : Guard) (d a : BitVec 5) (imm : BitVec 11) (s : State) := immOp (· ^^^ imm.signExtend 64) c d a s
/-- SHLI (R201). -/
def execShli (c : Guard) (d a : BitVec 5) (n : BitVec 6) (s : State) := immOp (· <<< n.toNat) c d a s
/-- SHRI (R201). -/
def execShri (c : Guard) (d a : BitVec 5) (n : BitVec 6) (s : State) := immOp (· >>> n.toNat) c d a s
/-- SARI (R201). -/
def execSari (c : Guard) (d a : BitVec 5) (n : BitVec 6) (s : State) := immOp (·.sshiftRight n.toNat) c d a s

/-- LDI: two words; g[d] := sext(imm32) (R202). -/
def execLdi (c : Guard) (d : BitVec 5) (imm : BitVec 32) (s : State) : Host.Outcome State Fault Refusal :=
  s.cpLen 8 c fun k _ => s.setsG k d (imm.signExtend 64)

/-- LDI.hi: g[d][63:32] := imm32, the low half unchanged (R202). -/
def execLdiHi (c : Guard) (d : BitVec 5) (imm : BitVec 32) (s : State) : Host.Outcome State Fault Refusal :=
  s.cpLen 8 c fun k x => s.setsG k d (imm ++ (x.rg d).extractLsb' 0 32)

/-- The six comparisons on two words of one width: EQ, NE, signed LT, LE, unsigned LTZ, LEZ (R203). -/
def compareBits {n : Nat} (cc : Nat) (x y : BitVec n) : Bool :=
  match cc with
  | 0 => x == y
  | 1 => x != y
  | 2 => x.slt y
  | 3 => x.sle y
  | 4 => x.ult y
  | _ => x.ule y

/-- CMP (R203). -/
def execCmp (c : Guard) (w : Bool) (d : BitVec 3) (a b : BitVec 5) (cc : BitVec 3) (s : State) :
    Host.Outcome State Fault Refusal :=
  s.cp c fun k x =>
    s.setsP k d
      (if w then compareBits cc.toNat ((x.rg a).extractLsb' 0 32) ((x.rg b).extractLsb' 0 32)
       else compareBits cc.toNat (x.rg a) (x.rg b))

/-- CMPI (R204). -/
def execCmpi (c : Guard) (d : BitVec 3) (cc : BitVec 3) (a : BitVec 5) (imm : BitVec 10) (s : State) :
    Host.Outcome State Fault Refusal :=
  s.cp c fun k x => s.setsP k d (compareBits cc.toNat (x.rg a) (imm.signExtend 64))

/-- A predicate operation (R206). -/
def predOp (f : Bool → Bool → Bool) (c : Guard) (d a b : BitVec 3) (s : State) : Host.Outcome State Fault Refusal :=
  s.cp c fun k x => s.setsP k d (f (x.rp a) (x.rp b))

/-- PAND (R206). -/
def execPand (c : Guard) (d a b : BitVec 3) (s : State) := predOp (· && ·) c d a b s
/-- POR (R206). -/
def execPor (c : Guard) (d a b : BitVec 3) (s : State) := predOp (· || ·) c d a b s
/-- PXOR (R206). -/
def execPxor (c : Guard) (d a b : BitVec 3) (s : State) := predOp (· != ·) c d a b s
/-- PNOT (R206). -/
def execPnot (c : Guard) (d a : BitVec 3) (s : State) := predOp (fun x _ => !x) c d a a s

end Sys2Proof.Machine
end

