-- ==== Sys2Proof/Machine/System.lean ====
section
/-! DEFINITION. Named barriers (R225 to R227), s-registers (R96, R228), SYSC (R229), WFE (R232), YIELD (R233). -/

namespace Sys2Proof.Machine
open Sys2Proof

/-! ### Named barriers -/

/-- The key of barrier bK on a context's core. -/
def barKey (k : Nat) (b : BitVec 5) : Nat := coreOf k * 32 + b.toNat

/-- BARI (R226): ILLEGAL for a count of 0 or above 63; waits while another gang holds the barrier. -/
def execBari (c : Guard) (bar b : BitVec 5) (s : State) : Host.Outcome State Fault Refusal :=
  s.cp c fun k x =>
    let n := x.rg b
    if n = 0 ∨ 63 < n.toNat then .trap (.illegal)
    else
      let r := s.bar (barKey k bar)
      if r.gang = none ∨ r.gang = some x.gang then
        let r' : Barrier := { r with gang := some x.gang, expected := n.extractLsb' 0 6, arrivals := 0 }
        .done { s with bars := tset s.bars (barKey k bar) r' }
      else .wait s .other

/-- BARA: the phase before the arrival, then one arrival; ILLEGAL kind 8 on a barrier not bound to the gang (R226). -/
def execBara (c : Guard) (d bar : BitVec 5) (s : State) : Host.Outcome State Fault Refusal :=
  s.cp c fun k x =>
    let r := s.bar (barKey k bar)
    if r.gang != some x.gang then .trap (.illegal 8)
    else (s.arriveBar (barKey k bar) x.gang).setsG k d (if r.phase then 1 else 0)

/-- BARW: waits until the phase differs from g[b][0] (R226). -/
def execBarw (c : Guard) (bar b : BitVec 5) (s : State) : Host.Outcome State Fault Refusal :=
  s.cp c fun k x =>
    let r := s.bar (barKey k bar)
    if r.gang != some x.gang then .trap (.illegal 8)
    else if r.phase != (x.rg b).getLsbD 0 then .done s
    else .wait s .other

/-- BARQ: [13] phase, [11:6] expected, [5:0] arrivals (R226). -/
def execBarq (c : Guard) (d bar : BitVec 5) (s : State) : Host.Outcome State Fault Refusal :=
  s.cp c fun k x =>
    let r := s.bar (barKey k bar)
    if r.gang != some x.gang then .trap (.illegal 8)
    else s.setsG k d (BitVec.ofNat 64 ((if r.phase then 2 ^ 13 else 0) + r.expected.toNat * 64 + r.arrivals.toNat))

/-! ### s-registers -/

/-- The value of an s-register, by number (R96). -/
def State.sreg (s : State) (k : Nat) (n : Nat) : Word :=
  let x := s.ctx k
  let g := s.gangOf k
  match n with
  | 0 => BitVec.ofNat 64 (k % 8)
  | 1 => BitVec.ofNat 64 (coreOf k)
  | 2 => BitVec.ofNat 64 (x.gang % 65536)
  | 3 => BitVec.ofNat 64 g.members.length
  | 4 => BitVec.ofNat 64 x.rank
  | 5 => BitVec.ofNat 64 (s.ra g.ra).cell
  | 6 => BitVec.ofNat 64 (s.raLen g.ra)
  | 7 => s.raOp g.ra
  | 8 => x.trapCause
  | 9 => x.trapPc
  | 10 => x.trapAddr
  | 11 => x.trapVec
  | 12 => x.fxFlags.zeroExtend 64
  | 13 => x.fxMode.zeroExtend 64
  | 14 => BitVec.ofNat 64 (s.cyc (coreOf k))
  | 15 => BitVec.ofNat 64 (s.tick g.part)
  | 32 => if x.preReq then 1 else 0
  | 33 => BitVec.ofNat 64 (x.log.length + x.slog.length * 65536)
  | _ => if 16 ≤ n ∧ n < 32 then (s.part g.part).caps.getD (n - 16) 0 else 0

/-- GETS: ra.open and ra.len stall while a knead holds the application (R96, R228). -/
def execGets (c : Guard) (d : BitVec 5) (sreg : BitVec 11) (s : State) : Host.Outcome State Fault Refusal :=
  s.cp c fun k x =>
    if (sreg = 5 ∨ sreg = 6) ∧ s.raHeld (s.gang x.gang).ra then .wait s .held
    else s.setsG k d (s.sreg k sreg.toNat)

/-- The bits of an RW s-register that SETS may write (R96 to R98); none for one marked RO. -/
def sregMask (n : Nat) : Option Word :=
  match n with
  | 8 => some 0xFF00FF
  | 9 => some (~~~(0 : Word))
  | 10 => some (~~~(0 : Word))
  | 11 => some 0x1FFFD
  | 12 => some 0x1F
  | 13 => some 3
  | _ => none

/-- Write an RW s-register. -/
def Ctx.setSreg (x : Ctx) (n : Nat) (v : Word) : Ctx :=
  match n with
  | 8 => { x with trapCause := v }
  | 9 => { x with trapPc := v }
  | 10 => { x with trapAddr := v }
  | 11 => { x with trapVec := v }
  | 12 => { x with fxFlags := v.extractLsb' 0 5 }
  | 13 => { x with fxMode := v.extractLsb' 0 2 }
  | _ => x

/-- The fields that R96 lists for a register marked RO. -/
def sregFields (n : Nat) : Word :=
  match n with
  | 0 => 0x7
  | 1 => 0x3F
  | 2 => 0xFFFF
  | 3 => 0x1F
  | 4 => 0xF
  | 5 => 0x3FFF
  | 6 => 0x7FFF
  | 32 => 1
  | 33 => 0x1FFF07FF
  | _ => ~~~(0 : Word)

/-- SETS: ILLEGAL for a nonzero bit that is no field, then PRIV for a register marked RO (R96, R108, R228). -/
def execSets (c : Guard) (a : BitVec 5) (sreg : BitVec 11) (s : State) : Host.Outcome State Fault Refusal :=
  s.cp c fun k x =>
    match sregMask sreg.toNat with
    | none => if x.rg a &&& ~~~sregFields sreg.toNat != 0 then .trap (.illegal) else .trap .priv
    | some m => if x.rg a &&& ~~~m != 0 then .trap (.illegal) else .done (s.updCtx k fun x => x.setSreg sreg.toNat (x.rg a))

/-! ### SYSC, WFE, YIELD -/

/-- SYSC: service 0 completes with g1 := 0; any other waits for the core monitor (R229; log 9). -/
def execSysc (c : Guard) (n : BitVec 11) (s : State) : Host.Outcome State Fault Refusal :=
  s.cp c fun k _ =>
    if n = 0 then s.setsG k 1 0
    else .wait (s.updCtx k fun x => { x with sysc := some n }) .other

/-- Whether a WFE of n µs that began to wait has timed out: at least n µs have passed (R232). -/
def Ctx.timedOut (x : Ctx) (n : BitVec 11) (now : Nat) : Bool :=
  match x.wait with
  | some w => n != 0 && decide (w.since + 2700 * n.toNat ≤ now)
  | none => false

/-- WFE (R232). -/
def execWfe (c : Guard) (d : BitVec 5) (n : BitVec 11) (s : State) : Host.Outcome State Fault Refusal :=
  s.cp c fun k x =>
    if x.event then .done (s.updCtx k fun x => { x.wg d 1 with event := false })
    else if x.timedOut n s.clock then s.setsG k d 0
    else .wait s .other

/-- YIELD n: not chosen for n core cycles; YIELD 0 gives up the next turn (R233). -/
def execYield (c : Guard) (n : BitVec 11) (s : State) : Host.Outcome State Fault Refusal :=
  s.cp c fun k _ =>
    .done (s.updCtx k fun x =>
      if n = 0 then { x with yieldTurn := true } else { x with yieldUntil := s.cyc (coreOf k) + n.toNat + 1 })

/-! ### The events that end these waits -/

/-- The instruction at a context's PC (R93). -/
def State.insnAt (s : State) (k : Nat) : Option W32 := (s.oper k).word? (s.ctx k).pc

/-- The instruction at a PC is a WFE: major 0x35 (R232). -/
def isWfe (w : W32) : Bool := w.extractLsb' 25 7 == 0x35

/-- A WFE of a context times out: it completes with g[d] := 0 (R232). -/
def execWfeTimeout (core ctx : Nat) (s : State) : Host.Outcome State Fault Refusal :=
  let k := core * 8 + ctx
  let x := s.ctx k
  match s.insnAt k with
  | some w =>
    if x.status == .running && isWfe w && !x.event && x.timedOut (w.extractLsb' 0 11) s.clock then
      .next (s.updCtx k fun x => (x.wg (w.extractLsb' 16 5) 0).goOn (x.pc + 4))
    else .next s
  | none => .next s

/-- The core cycles of a YIELD have passed: the context may be chosen again (R233). -/
def execYieldExpiry (core ctx : Nat) (s : State) : Host.Outcome State Fault Refusal :=
  let k := core * 8 + ctx
  if (s.ctx k).yieldUntil ≤ s.cyc (coreOf k) ∧ 0 < (s.ctx k).yieldUntil then .next (s.updCtx k fun x => { x with yieldUntil := 0 })
  else .next s

/-- Write the results of a service into g1 to g7 (R229). -/
def Ctx.putResults (x : Ctx) (rs : List (Nat × Word)) : Ctx :=
  rs.foldl (fun x r => if 1 ≤ r.1 ∧ r.1 ≤ 7 then x.wg (BitVec.ofNat 5 r.1) r.2 else x) x

/-- The core monitor ends a call (R229): with results, with a refusal (PRIV), or with a return (SYSC, trap.addr n). -/
def execMonitorEndCall (core ctx : Nat) (ans : MonitorAns) (s : State) : Host.Outcome State Fault Refusal :=
  let k := core * 8 + ctx
  match (s.ctx k).status, (s.ctx k).sysc with
  | .running, some n =>
    match ans with
    | .complete rs => .next (s.updCtx k fun x => { (x.putResults rs).goOn (x.pc + 4) with sysc := none })
    | .refuse => .next (s.takeTrap k .priv)
    | .returnToOperator => .next (s.takeTrap k ⟨0x0A, 0, n.zeroExtend 64⟩)
  | _, _ => .next s

/-- A word that is no instruction, or a fetch at or beyond the end of the code, in the context that the focus
names: ILLEGAL with an address, 0 unless an LDI's extension word is missing (R93, R107). -/
def execIllegalEncoding (addr : Word) (s : State) : Host.Outcome State Fault Refusal :=
  match s.focus with
  | .ctx k => .next (s.takeTrap k (.illegal 0 addr))
  | _ => .fault .noContext

end Sys2Proof.Machine
end

