-- ==== Sys2Proof/Machine/Dispatch.lean ====
section
/-! DEFINITION. What each instruction, element op, trigger op and event does: one arm per constructor of Instr, each one
call of its meaning. -/

namespace Sys2Proof.Machine
open Sys2Proof

def exec (i : Instr) (s : State) : Host.Outcome State Fault Refusal :=
  match i with
  | .add c w d a b => Sys2Proof.Machine.execAdd c w d a b s
  | .sub c w d a b => Sys2Proof.Machine.execSub c w d a b s
  | .mul c w d a b => Sys2Proof.Machine.execMul c w d a b s
  | .mulh c w d a b => Sys2Proof.Machine.execMulh c w d a b s
  | .mulhz c w d a b => Sys2Proof.Machine.execMulhz c w d a b s
  | .div c w d a b => Sys2Proof.Machine.execDiv c w d a b s
  | .divz c w d a b => Sys2Proof.Machine.execDivz c w d a b s
  | .rem c w d a b => Sys2Proof.Machine.execRem c w d a b s
  | .remz c w d a b => Sys2Proof.Machine.execRemz c w d a b s
  | .and c w d a b => Sys2Proof.Machine.execAnd c w d a b s
  | .or c w d a b => Sys2Proof.Machine.execOr c w d a b s
  | .xor c w d a b => Sys2Proof.Machine.execXor c w d a b s
  | .shl c w d a b => Sys2Proof.Machine.execShl c w d a b s
  | .shr c w d a b => Sys2Proof.Machine.execShr c w d a b s
  | .sar c w d a b => Sys2Proof.Machine.execSar c w d a b s
  | .min c w d a b => Sys2Proof.Machine.execMin c w d a b s
  | .max c w d a b => Sys2Proof.Machine.execMax c w d a b s
  | .abs c w d a => Sys2Proof.Machine.execAbs c w d a s
  | .clz c w d a => Sys2Proof.Machine.execClz c w d a s
  | .popc c w d a => Sys2Proof.Machine.execPopc c w d a s
  | .sext c w d a b => Sys2Proof.Machine.execSext c w d a b s
  | .zext c w d a b => Sys2Proof.Machine.execZext c w d a b s
  | .sel c d a b k => Sys2Proof.Machine.execSel c d a b k s
  | .addi c d a imm => Sys2Proof.Machine.execAddi c d a imm s
  | .andi c d a imm => Sys2Proof.Machine.execAndi c d a imm s
  | .ori c d a imm => Sys2Proof.Machine.execOri c d a imm s
  | .xori c d a imm => Sys2Proof.Machine.execXori c d a imm s
  | .shli c d a n => Sys2Proof.Machine.execShli c d a n s
  | .shri c d a n => Sys2Proof.Machine.execShri c d a n s
  | .sari c d a n => Sys2Proof.Machine.execSari c d a n s
  | .ldi c d imm => Sys2Proof.Machine.execLdi c d imm s
  | .ldiHi c d imm => Sys2Proof.Machine.execLdiHi c d imm s
  | .cmp c w d a b cc => Sys2Proof.Machine.execCmp c w d a b cc s
  | .cmpi c d cc a imm => Sys2Proof.Machine.execCmpi c d cc a imm s
  | .fcmp c d a b cc => Sys2Proof.Machine.execFcmp c d a b cc s
  | .pand c d a b => Sys2Proof.Machine.execPand c d a b s
  | .por c d a b => Sys2Proof.Machine.execPor c d a b s
  | .pxor c d a b => Sys2Proof.Machine.execPxor c d a b s
  | .pnot c d a => Sys2Proof.Machine.execPnot c d a s
  | .fadd c d a b => Sys2Proof.Machine.execFadd c d a b s
  | .fsub c d a b => Sys2Proof.Machine.execFsub c d a b s
  | .fmul c d a b => Sys2Proof.Machine.execFmul c d a b s
  | .fma c d a b => Sys2Proof.Machine.execFma c d a b s
  | .fmin c d a b => Sys2Proof.Machine.execFmin c d a b s
  | .fmax c d a b => Sys2Proof.Machine.execFmax c d a b s
  | .fabs c d a => Sys2Proof.Machine.execFabs c d a s
  | .fneg c d a => Sys2Proof.Machine.execFneg c d a s
  | .fdiv c d a b => Sys2Proof.Machine.execFdiv c d a b s
  | .fsqrt c d a => Sys2Proof.Machine.execFsqrt c d a s
  | .fexp2 c d a => Sys2Proof.Machine.execFexp2 c d a s
  | .flog2 c d a => Sys2Proof.Machine.execFlog2 c d a s
  | .frcp c d a => Sys2Proof.Machine.execFrcp c d a s
  | .fcvt c d a src sat dst rm => Sys2Proof.Machine.execFcvt c d a src sat dst rm s
  | .ftoi c d a z width rm => Sys2Proof.Machine.execFtoi c d a z width rm s
  | .itof c d a z width => Sys2Proof.Machine.execItof c d a z width s
  | .nop c => Sys2Proof.Machine.execNop c s
  | .br c off => Sys2Proof.Machine.execBr c off s
  | .brl c off => Sys2Proof.Machine.execBrl c off s
  | .jmp c a imm => Sys2Proof.Machine.execJmp c a imm s
  | .jmpl c d a imm => Sys2Proof.Machine.execJmpl c d a imm s
  | .loop c a imm => Sys2Proof.Machine.execLoop c a imm s
  | .ld c d base size off => Sys2Proof.Machine.execLd c d base size off s
  | .ldz c d base size off => Sys2Proof.Machine.execLdz c d base size off s
  | .st c d base size off => Sys2Proof.Machine.execSt c d base size off s
  | .ldx c d a b sh z size => Sys2Proof.Machine.execLdx c d a b sh z size s
  | .stx c d a b sh size => Sys2Proof.Machine.execStx c d a b sh size s
  | .prf c wr base off => Sys2Proof.Machine.execPrf c wr base off s
  | .cln c base off => Sys2Proof.Machine.execCln c base off s
  | .fnc c kind scope => Sys2Proof.Machine.execFnc c kind scope s
  | .aadd c d a b scope => Sys2Proof.Machine.execAadd c d a b scope s
  | .amin c d a b scope => Sys2Proof.Machine.execAmin c d a b scope s
  | .amax c d a b scope => Sys2Proof.Machine.execAmax c d a b scope s
  | .aand c d a b scope => Sys2Proof.Machine.execAand c d a b scope s
  | .aor c d a b scope => Sys2Proof.Machine.execAor c d a b scope s
  | .axch c d a b scope => Sys2Proof.Machine.execAxch c d a b scope s
  | .acas c d a b scope => Sys2Proof.Machine.execAcas c d a b scope s
  | .afadd c d a b scope => Sys2Proof.Machine.execAfadd c d a b scope s
  | .bari c bar b => Sys2Proof.Machine.execBari c bar b s
  | .bara c d bar => Sys2Proof.Machine.execBara c d bar s
  | .barw c bar b => Sys2Proof.Machine.execBarw c bar b s
  | .barq c d bar => Sys2Proof.Machine.execBarq c d bar s
  | .gets c d sreg => Sys2Proof.Machine.execGets c d sreg s
  | .sets c a sreg => Sys2Proof.Machine.execSets c a sreg s
  | .sysc c n => Sys2Proof.Machine.execSysc c n s
  | .eret c => Sys2Proof.Machine.execEret c s
  | .eretNext c => Sys2Proof.Machine.execEretNext c s
  | .trap c k => Sys2Proof.Machine.execTrap c k s
  | .wfe c d n => Sys2Proof.Machine.execWfe c d n s
  | .yield c n => Sys2Proof.Machine.execYield c n s
  | .talloc c d a b fmt pin => Sys2Proof.Machine.execTalloc c d a b fmt pin s
  | .tview c d a b => Sys2Proof.Machine.execTview c d a b s
  | .tld c d a b mode z size => Sys2Proof.Machine.execTld c d a b mode z size s
  | .tst c d a b mode size => Sys2Proof.Machine.execTst c d a b mode size s
  | .tshape c d a => Sys2Proof.Machine.execTshape c d a s
  | .tstate c d a => Sys2Proof.Machine.execTstate c d a s
  | .twait c a => Sys2Proof.Machine.execTwait c a s
  | .tseal c a => Sys2Proof.Machine.execTseal c a s
  | .ttouch c a => Sys2Proof.Machine.execTtouch c a s
  | .tadvKeep c a => Sys2Proof.Machine.execTadvKeep c a s
  | .tadvSpill c a => Sys2Proof.Machine.execTadvSpill c a s
  | .tpin c a => Sys2Proof.Machine.execTpin c a s
  | .tpinUn c a => Sys2Proof.Machine.execTpinUn c a s
  | .tdrop c a => Sys2Proof.Machine.execTdrop c a s
  | .xspan c d a => Sys2Proof.Machine.execXspan c d a s
  | .xlen c d a => Sys2Proof.Machine.execXlen c d a s
  | .xkind c d a => Sys2Proof.Machine.execXkind c d a s
  | .xarg c d a => Sys2Proof.Machine.execXarg c d a s
  | .xargH c d a => Sys2Proof.Machine.execXargH c d a s
  | .xcopy c a b => Sys2Proof.Machine.execXcopy c a b s
  | .xemit c a => Sys2Proof.Machine.execXemit c a s
  | .xemitt c a => Sys2Proof.Machine.execXemitt c a s
  | .xopen c => Sys2Proof.Machine.execXopen c s
  | .xclose c => Sys2Proof.Machine.execXclose c s
  | .xcloseApp c => Sys2Proof.Machine.execXcloseApp c s
  | .xapply c a b => Sys2Proof.Machine.execXapply c a b s
  | .commit c => Sys2Proof.Machine.execCommit c s
  | .abort c => Sys2Proof.Machine.execAbort c s
  | .xfail c a => Sys2Proof.Machine.execXfail c a s
  | .trbc c d a b => Sys2Proof.Machine.execTrbc c d a b s
  | .trbcH c d a b => Sys2Proof.Machine.execTrbcH c d a b s
  | .trred c d a fmt op => Sys2Proof.Machine.execTrred c d a fmt op s
  | .trgath c d a => Sys2Proof.Machine.execTrgath c d a s
  | .trbar c => Sys2Proof.Machine.execTrbar c s
  | .cplan c d a => Sys2Proof.Machine.execCplan c d a s
  | .cfire c a => Sys2Proof.Machine.execCfire c a s
  | .cwait c d a b => Sys2Proof.Machine.execCwait c d a b s
  | .cdrop c a => Sys2Proof.Machine.execCdrop c a s
  | .csendS c a b => Sys2Proof.Machine.execCsendS c a b s
  | .csendR c d b => Sys2Proof.Machine.execCsendR c d b s
  | .sagen c eng a => Sys2Proof.Machine.execSagen c eng a s
  | .sagenTile c eng a b => Sys2Proof.Machine.execSagenTile c eng a b s
  | .sagenPantry c eng entry => Sys2Proof.Machine.execSagenPantry c eng entry s
  | .sgo c eng => Sys2Proof.Machine.execSgo c eng s
  | .shalt c eng => Sys2Proof.Machine.execShalt c eng s
  | .shaltPush c a => Sys2Proof.Machine.execShaltPush c a s
  | .swait c eng scope => Sys2Proof.Machine.execSwait c eng scope s
  | .scnt c d eng => Sys2Proof.Machine.execScnt c d eng s
  | .smcast c a b => Sys2Proof.Machine.execSmcast c a b s
  | .sbind c eng a slot => Sys2Proof.Machine.execSbind c eng a slot s
  | .sbindHost c eng => Sys2Proof.Machine.execSbindHost c eng s
  | .gload c q a => Sys2Proof.Machine.execGload c q a s
  | .gloadPantry c q entry => Sys2Proof.Machine.execGloadPantry c q entry s
  | .gpatch c q a => Sys2Proof.Machine.execGpatch c q a s
  | .gpatchPantry c q entry => Sys2Proof.Machine.execGpatchPantry c q entry s
  | .gproof c q => Sys2Proof.Machine.execGproof c q s
  | .gseed c q a b => Sys2Proof.Machine.execGseed c q a b s
  | .gdrain c q => Sys2Proof.Machine.execGdrain c q s
  | .gdrainOpen c q => Sys2Proof.Machine.execGdrainOpen c q s
  | .gwait c q => Sys2Proof.Machine.execGwait c q s
  | .gwaitIdle c q => Sys2Proof.Machine.execGwaitIdle c q s
  | .gkill c q => Sys2Proof.Machine.execGkill c q s
  | .gsave c q a => Sys2Proof.Machine.execGsave c q a s
  | .gstall c d a => Sys2Proof.Machine.execGstall c d a s
  | .gstallFlags c d q => Sys2Proof.Machine.execGstallFlags c d q s
  | .eNop => Sys2Proof.Machine.execENop s
  | .eAdd w => Sys2Proof.Machine.execEAdd w s
  | .eSub w => Sys2Proof.Machine.execESub w s
  | .eMul w => Sys2Proof.Machine.execEMul w s
  | .eMulh w => Sys2Proof.Machine.execEMulh w s
  | .eAnd w => Sys2Proof.Machine.execEAnd w s
  | .eOr w => Sys2Proof.Machine.execEOr w s
  | .eXor w => Sys2Proof.Machine.execEXor w s
  | .eShl w => Sys2Proof.Machine.execEShl w s
  | .eShr w => Sys2Proof.Machine.execEShr w s
  | .eSar w => Sys2Proof.Machine.execESar w s
  | .eMin w => Sys2Proof.Machine.execEMin w s
  | .eMax w => Sys2Proof.Machine.execEMax w s
  | .eCmp w => Sys2Proof.Machine.execECmp w s
  | .eSel w => Sys2Proof.Machine.execESel w s
  | .eMov w => Sys2Proof.Machine.execEMov w s
  | .eConst w => Sys2Proof.Machine.execEConst w s
  | .eCnt w => Sys2Proof.Machine.execECnt w s
  | .eAcc w => Sys2Proof.Machine.execEAcc w s
  | .eFadd w => Sys2Proof.Machine.execEFadd w s
  | .eFsub w => Sys2Proof.Machine.execEFsub w s
  | .eFmul w => Sys2Proof.Machine.execEFmul w s
  | .eFfma w => Sys2Proof.Machine.execEFfma w s
  | .eFmin w => Sys2Proof.Machine.execEFmin w s
  | .eFmax w => Sys2Proof.Machine.execEFmax w s
  | .eFcmp w => Sys2Proof.Machine.execEFcmp w s
  | .eFacc w => Sys2Proof.Machine.execEFacc w s
  | .eCvt w => Sys2Proof.Machine.execECvt w s
  | .eExp2 w => Sys2Proof.Machine.execEExp2 w s
  | .eLog2 w => Sys2Proof.Machine.execELog2 w s
  | .eRcp w => Sys2Proof.Machine.execERcp w s
  | .eRsq w => Sys2Proof.Machine.execERsq w s
  | .eLd w => Sys2Proof.Machine.execELd w s
  | .eSt w => Sys2Proof.Machine.execESt w s
  | .eLdl w => Sys2Proof.Machine.execELdl w s
  | .eOrdf w => Sys2Proof.Machine.execEOrdf w s
  | .eOrdj w => Sys2Proof.Machine.execEOrdj w s
  | .eSteer w => Sys2Proof.Machine.execESteer w s
  | .eMerge w => Sys2Proof.Machine.execEMerge w s
  | .eTagchk w => Sys2Proof.Machine.execETagchk w s
  | .eSink w => Sys2Proof.Machine.execESink w s
  | .tMma t => Sys2Proof.Machine.execTMma t s
  | .tMclr t => Sys2Proof.Machine.execTMclr t s
  | .tMdrain t => Sys2Proof.Machine.execTMdrain t s
  | .tMscale t => Sys2Proof.Machine.execTMscale t s
  | .tAccrd t => Sys2Proof.Machine.execTAccrd t s
  | .tDeq t => Sys2Proof.Machine.execTDeq t s
  | .tEnq t => Sys2Proof.Machine.execTEnq t s
  | .tPset t => Sys2Proof.Machine.execTPset t s
  | .tPclr t => Sys2Proof.Machine.execTPclr t s
  | .tSig t => Sys2Proof.Machine.execTSig t s
  | .tSeed t => Sys2Proof.Machine.execTSeed t s
  | .tTagset t => Sys2Proof.Machine.execTTagset t s
  | .tCnt t => Sys2Proof.Machine.execTCnt t s
  | .tMov t => Sys2Proof.Machine.execTMov t s
  | .tCmp t => Sys2Proof.Machine.execTCmp t s
  | .tHalt t => Sys2Proof.Machine.execTHalt t s
  | .launchLoad part slot => Sys2Proof.Machine.execLaunchLoad part slot s
  | .preemptComplete part => Sys2Proof.Machine.execPreemptComplete part s
  | .dvinvComplete part => Sys2Proof.Machine.execDvinvComplete part s
  | .mapChangeComplete part => Sys2Proof.Machine.execMapChangeComplete part s
  | .firmwareCheck => Sys2Proof.Machine.execFirmwareCheck s
  | .priTimeout core eng => Sys2Proof.Machine.execPriTimeout core eng s
  | .marginPlanTimer bins => Sys2Proof.Machine.execMarginPlanTimer bins s
  | .fenceCore core => Sys2Proof.Machine.execFenceCore core s
  | .fenceSlice slice => Sys2Proof.Machine.execFenceSlice slice s
  | .discoveryPass part => Sys2Proof.Machine.execDiscoveryPass part s
  | .placeGang part slot cell => Sys2Proof.Machine.execPlaceGang part slot cell s
  | .operatorLoad part slot op core => Sys2Proof.Machine.execOperatorLoad part slot op core s
  | .contextStart core ctx => Sys2Proof.Machine.execContextStart core ctx s
  | .steal part slot cell core => Sys2Proof.Machine.execSteal part slot cell core s
  | .commitStep part => Sys2Proof.Machine.execCommitStep part s
  | .dvaRetry core row col => Sys2Proof.Machine.execDvaRetry core row col s
  | .pageArrival core part slot page => Sys2Proof.Machine.execPageArrival core part slot page s
  | .faultLimitExpiry part gang => Sys2Proof.Machine.execFaultLimitExpiry part gang s
  | .secondChanceClock core => Sys2Proof.Machine.execSecondChanceClock core s
  | .streamBurst core eng => Sys2Proof.Machine.execStreamBurst core eng s
  | .streamComplete core eng => Sys2Proof.Machine.execStreamComplete core eng s
  | .pushUnit push => Sys2Proof.Machine.execPushUnit push s
  | .spaceToken core eng => Sys2Proof.Machine.execSpaceToken core eng s
  | .proofWave core q => Sys2Proof.Machine.execProofWave core q s
  | .islandTask core isl => Sys2Proof.Machine.execIslandTask core isl s
  | .scaleToken core isl => Sys2Proof.Machine.execScaleToken core isl s
  | .planRunComplete part plan => Sys2Proof.Machine.execPlanRunComplete part plan s
  | .csendCopyDone part gang src dst => Sys2Proof.Machine.execCsendCopyDone part gang src dst s
  | .yieldExpiry core ctx => Sys2Proof.Machine.execYieldExpiry core ctx s
  | .monitorEndCall core ctx ans => Sys2Proof.Machine.execMonitorEndCall core ctx ans s
  | .illegalEncoding addr => Sys2Proof.Machine.execIllegalEncoding addr s
  | .writeOutEnd part slot page => Sys2Proof.Machine.execWriteOutEnd part slot page s
  | .planJoin part plan => Sys2Proof.Machine.execPlanJoin part plan s
  | .launch part v => Sys2Proof.Machine.execLaunch part v s
  | .preempt part v => Sys2Proof.Machine.execPreempt part v s
  | .resume part v => Sys2Proof.Machine.execResume part v s
  | .statusFree part slot v => Sys2Proof.Machine.execStatusFree part slot v s
  | .dvinvPage part v => Sys2Proof.Machine.execDvinvPage part v s
  | .dvinvLaunch part v => Sys2Proof.Machine.execDvinvLaunch part v s
  | .dvinvPartition part v => Sys2Proof.Machine.execDvinvPartition part v s
  | .errstsClear part v => Sys2Proof.Machine.execErrstsClear part v s
  | .routeTableWrite part granule v => Sys2Proof.Machine.execRouteTableWrite part granule v s
  | .slcfgWrite part slice v => Sys2Proof.Machine.execSlcfgWrite part slice v s
  | .sliceMapCommit part v => Sys2Proof.Machine.execSliceMapCommit part v s
  | .partitionCreate part lo hi => Sys2Proof.Machine.execPartitionCreate part lo hi s
  | .partitionDelete part lo => Sys2Proof.Machine.execPartitionDelete part lo s
  | .bootgo v => Sys2Proof.Machine.execBootgo v s
  | .msixUnmask vec => Sys2Proof.Machine.execMsixUnmask vec s
  | .registerWrite bar off d => Sys2Proof.Machine.execRegisterWrite bar off d s
  | .reset => Sys2Proof.Machine.execReset s
  | .uioRequest req => Sys2Proof.Machine.execUioRequest req s
  | .translationCompletion pasid page rd wr => Sys2Proof.Machine.execTranslationCompletion pasid page rd wr s
  | .pageGroupResponse pasid page ok => Sys2Proof.Machine.execPageGroupResponse pasid page ok s
  | .atsInvalidateRequest pasid page => Sys2Proof.Machine.execAtsInvalidateRequest pasid page s
  | .getVersion => Sys2Proof.Machine.execGetVersion s
  | .getCapabilities => Sys2Proof.Machine.execGetCapabilities s
  | .negotiateAlgorithms => Sys2Proof.Machine.execNegotiateAlgorithms s
  | .getDigests => Sys2Proof.Machine.execGetDigests s
  | .getCertificate => Sys2Proof.Machine.execGetCertificate s
  | .challenge nonce => Sys2Proof.Machine.execChallenge nonce s
  | .getMeasurements index => Sys2Proof.Machine.execGetMeasurements index s
  | .portDown port => Sys2Proof.Machine.execPortDown port s
  | .portUp port x16 fast => Sys2Proof.Machine.execPortUp port x16 fast s
  | .thermalAlarm bins => Sys2Proof.Machine.execThermalAlarm bins s
  | .marginAlarm unit bins => Sys2Proof.Machine.execMarginAlarm unit bins s
  | .uncorrectableError at_ => Sys2Proof.Machine.execUncorrectableError at_ s
  | .correctedError core array => Sys2Proof.Machine.execCorrectedError core array s
  | .pageTableWalk core part slot dva write => Sys2Proof.Machine.execPageTableWalk core part slot dva write s
  | .sttMiss core part slot page write => Sys2Proof.Machine.execSttMiss core part slot page write s
  | .streamFault core eng => Sys2Proof.Machine.execStreamFault core eng s
  | .wfeTimeout core ctx => Sys2Proof.Machine.execWfeTimeout core ctx s

end Sys2Proof.Machine
end

