-- ==== Sys2Proof/Machine/Fetch.lean ====
section
/-! DEFINITION. Fetching the instruction at a context's PC (R93, R107). -/

namespace Sys2Proof.Machine
open Sys2Proof

/-- A word and its extension word decoded: what is no instruction is ILLEGAL, trap.addr 0 (R107). -/
def decodeOr (w x : W32) : Instr := match decodeWord w x with | .ok i => i | .error _ => .illegalEncoding 0

/-- An LDI whose extension word lies at or beyond the end of the code. The spec does not order its three outcomes: DESIGN
CHOICE, log 62: a decode check that the word fails comes first (ILLEGAL, trap.addr 0: R107 holds whether or not the
guard does), then a guard that fails (no effect: R10), then ILLEGAL with the address of the missing word (R93). -/
def cutLdi (x : Ctx) (w : W32) : Instr :=
  match decodeWord w 0 with
  | .error _ => .illegalEncoding 0
  | .ok i => if x.guardHolds (guardOf w) then .illegalEncoding (x.pc + 4) else i

/-- The instruction at the PC of a context: at or beyond the end of its operator's code ILLEGAL (R93). -/
def State.fetch (s : State) (k : Nat) : Instr :=
  let pc := (s.ctx k).pc
  match (s.oper k).word? pc with
  | none => .illegalEncoding 0
  | some w =>
    if isTwoWords w then
      match (s.oper k).word? (pc + 4) with
      | none => cutLdi (s.ctx k) w
      | some x => decodeOr w x
    else decodeOr w 0

end Sys2Proof.Machine
end

