-- ==== Sys2Proof/Machine/Schedule.lean ====
section
/-! DEFINITION. What happens in a core cycle and in which order (log 4): events that are due, islands and engines,
elements, then one instruction of each core's CP (R309). -/

namespace Sys2Proof.Machine
open Sys2Proof

/-- The state with an agent in focus. -/
def State.focusOn (s : State) (f : Focus) : State := { s with focus := f }

/-! ### Events of the part that are due -/

/-- The events of boot, launches, errors (R177, R319, R320, R334, R336). -/
def State.partEvents (s : State) : List Instr :=
  let due := decide (s.dev.planHour + 2000 ≤ s.hours)
  let plan := ((List.range 64).filter s.corePresent).map fun c => (c, Config.planBin (64 * s.hours + c) % 4)
  (if s.dev.bootsts = 1 then [.firmwareCheck] else [])
    ++ (if s.dev.bootsts = 3 && due then [.marginPlanTimer plan] else [])
    ++ (s.launches.filter fun l => l.2.state == 1).map (fun l => .launchLoad (l.1 / 4) (l.1 % 4))
    ++ s.cores.flatMap fun c =>
      if !c.2.fenced then []
      else if 64 ≤ c.1 then (if s.dev.fencedSlices.getLsbD (c.1 - 64) then [] else [.fenceSlice (c.1 - 64)])
      else if s.corePresent c.1 then [.fenceCore c.1] else []

/-- The ends of what a partition has under way (R34, R44, R312). -/
def State.windowEvents (s : State) (p : Nat) : List Instr :=
  let x := s.part p
  (if x.dvinv.isSome then [.dvinvComplete p] else []) ++ (if x.slBusy then [.mapChangeComplete p] else [])
    ++ (if x.preBusy || s.gangs.any (fun g => g.2.part == p && g.2.closing.isSome) then [.preemptComplete p] else [])

/-- The tree's work in a tree cycle: a pass or a commit step, never both at once (R179, R185). The tree cycles are those of the
clock that `State.treeRate` gives the partition's tree (R4; DESIGN CHOICE where its cores stand in different bins, log 54). -/
def State.treeEvents (s : State) (p : Nat) : List Instr :=
  let x := s.part p
  if !s.treeEdge p || decide (s.treeNow p < x.stepEnd) then []
  else if x.passDue then [.discoveryPass p]
  else if !(s.acceptedRas p).isEmpty || x.cellsFreed && !(s.waitingRas p).isEmpty then [.commitStep p]
  else []

/-- Where a queued application may be stolen to (R308). -/
def State.stealTo (s : State) (p : Nat) (x : Nat × RA) : Option Nat :=
  let c := x.2.queue.getD 0
  if x.2.fast || decide (x.2.since + 10 ≤ s.tick p) then
    (s.partCores p).find? fun d => d != c && d / 4 == c / 4 && (s.fitRa (s.busyNow p (s.heldFor p x)) x.1 d).isSome
  else none

/-- Placements and steals of queued applications, in order, each with the places taken that those before it take (R306 to
R308). -/
def State.placesOf (s : State) (p : Nat) : List (Nat × RA) → List Instr
  | [] => []
  | x :: r =>
    match s.placement p x with
    | some l => .placeGang p x.2.slot x.2.cell :: (s.takePlace x.1 l).placesOf p r
    | none =>
      match s.stealTo p x with
      | some d =>
        let s1 := match s.fitRa (s.busyNow p (s.heldFor p x)) x.1 d with | some l => s.takePlace x.1 l | none => s
        .steal p x.2.slot x.2.cell d :: s1.placesOf p r
      | none => s.placesOf p r

/-- Placements and steals of a tree cycle: every gang that can be placed in it is (R306 to R308). -/
def State.placeEvents (s : State) (p : Nat) : List Instr := if s.treeEdge p then s.placesOf p (s.queuedRas p) else []

/-- Operators to fetch and gangs to start (R99, R183): they are started in the last core cycle before a tree cycle, so that
their contexts first issue as it begins and gangs of one tree cycle run side by side from there (R306; 17_program_add_reduce.md,
E3 and E5). -/
def State.startEvents (s : State) : List Instr :=
  (s.gangs.filter fun g => !g.2.started && s.treeNext g.2.part).flatMap fun g =>
    ((g.2.members.map coreOf).eraseDups.filter fun c => s.lacks g.2 c).map (fun c => .operatorLoad g.2.part g.2.slot g.2.op c)
      ++ (match g.2.members with | k :: _ => [.contextStart (k / 8) (k % 8)] | [] => [])

/-- Whether a memory element's access has waited for its mapping longer than the launch's fault limit (R32). -/
def State.dvaOverdue (s : State) (k : Nat) (m : MemPend) : Bool :=
  match s.siteOf k with
  | some t => decide (m.since + 2700 * (s.launch (s.launchOf t.im.ctx)).faultLimit < s.clock)
  | none => false

/-- The pager and the walker (R32, R77 to R86). -/
def State.pageEvents (s : State) : List Instr :=
  let at_ := fun (key : Nat) (f : Nat → Nat → Nat → Instr) => f (keyLaunch key / 4) (keyLaunch key % 4) (keyPage key)
  (s.xfers.filter fun x => decide (x.due ≤ s.clock)).map (fun x => at_ x.page (.pageArrival x.core))
    ++ ((List.range 64).filter fun c => decide (4096 < s.takenFrames c + 64)).map .secondChanceClock
    ++ (s.tiles.filter fun t => t.2.st == .draining && !(s.dirE t.1).sealed).map (fun t => at_ t.1 .writeOutEnd)
    ++ (s.gangs.filter fun g => (s.overLimit g.1).isSome).map (fun g => .faultLimitExpiry (g.1 / 65536) (g.1 % 65536))
    ++ (s.elems.filter fun e => match e.2.mem.head? with
        | some m => m.dva && (decide (m.since < s.clock) && (s.clock - m.since) % 2700 == 0 || s.dvaOverdue e.1 m)
        | none => false).map fun e => .dvaRetry (e.1 / 4096) (e.1 % 4096 / 64) (e.1 % 64)

/-- Plans, CSEND copies, the ends of waits (R229, R232, R233, R249 to R252). Of a plan every run that its parts have all fired
completes in the core cycle, the oldest first: a run ends within 1 µs of its last fire (R7, R252). -/
def State.waitEvents (s : State) : List Instr :=
  (s.plans.flatMap fun p =>
      let ready := fun run => decide (p.2.parts.length ≤ 1) || Config.peersReady s.clock p.1 run
      (if !p.2.joined && ready 0 then [.planJoin (p.1 / 8192) (p.1 % 8192)] else [])
        ++ (if p.2.joined then (((List.range (p.2.fires - p.2.done)).takeWhile fun i => ready (p.2.done + i + 1)).map fun _ =>
            .planRunComplete (p.1 / 8192) (p.1 % 8192)) else []))
    ++ (s.gangs.flatMap fun g =>
      (g.2.csends.filter fun c => c.copying && c.sends).map fun c => .csendCopyDone (g.1 / 65536) (g.1 % 65536) c.rank c.partner)
    ++ s.ctxs.flatMap fun e =>
      (if 0 < e.2.yieldUntil ∧ e.2.yieldUntil ≤ s.cyc (coreOf e.1) then [.yieldExpiry (e.1 / 8) (e.1 % 8)] else [])
        ++ (if e.2.sysc.isSome then (match Config.monitorAnswer s.clock e.1 with
            | some a => [.monitorEndCall (e.1 / 8) (e.1 % 8) a] | none => []) else [])

/-- The quadrants of an image as a mask. -/
def Image.mask (im : Image) : BitVec 4 := BitVec.ofNat 4 (maskOf im.quads)

/-- Proof waves, islands, engines, pushes (R48, R58 to R68, R141, R149); an island and an engine act in the core cycles of
their core (R3, R4). -/
def State.flowEvents (s : State) : List Instr :=
  (s.images.filter fun i => !i.2.proved && decide (i.2.waveFrom + i.2.waveTime ≤ s.cyc (i.1 / 4))).map (fun i => .proofWave (i.1 / 4) i.2.mask)
    ++ ((s.islands.filter fun i => s.hasEdge (i.1 / 8)).flatMap fun i =>
      (match i.2.bufB with | .scale _ _ :: _ => [.scaleToken (i.1 / 8) (i.1 % 8)] | _ => []) ++ [.islandTask (i.1 / 8) (i.1 % 8)])
    ++ s.pushes.map (fun p => .pushUnit p.1)
    ++ (s.engines.filter fun e => s.hasEdge (e.1 / 16)).flatMap fun e =>
      let at_ := fun (f : Nat → Nat → Instr) => f (e.1 / 16) (e.1 % 16)
      if e.2.st ≠ .running then []
      else
        (if s.dev.pageReqs.isEmpty then [] else [at_ .priTimeout]) ++ [at_ .streamBurst]
          ++ (if recSrcKind e.2.record = 4 then [at_ .spaceToken] else []) ++ [at_ .streamComplete]

/-- Every event of the part that is due in this core cycle. -/
def State.dueEvents (s : State) : List Instr :=
  let ps := s.parts.map (·.1)
  s.partEvents ++ ps.flatMap s.windowEvents ++ ps.flatMap s.treeEvents ++ ps.flatMap s.placeEvents ++ s.startEvents
    ++ s.pageEvents ++ s.waitEvents ++ s.flowEvents

/-! ### Elements -/

/-- The elements of a core that take this core cycle, those of a context's regions: of loaded images, with words. -/
def State.elementItems (s : State) (core ctx : Nat) : List Item :=
  (s.elems.filter fun e => e.1 / 4096 == core && !e.2.words.isEmpty
    && (match s.imageAt core (elemQuad e.1) with | some i => i.2.ctx % 8 == ctx | none => false)).map fun e =>
      .element core (e.1 % 4096 / 64) (e.1 % 64)

/-- A core cycle of an element (R115, R116, R133): the accesses that wait are tried again, then the selected context word or
the lowest ready trigger instruction acts. -/
def State.runElement (s0 : State) (k : Nat) : Host.Outcome State Fault Refusal :=
  let s := s0.retryMem k
  let s1 := s.focusOn (.elem k)
  match s.siteOf k with
  | none => .next s1
  | some t =>
    if !t.enabled || t.e.acted == s.cycE k + 1 then .next s1
    else if t.e.trig then
      match s.trigPick t with
      | some w => (match decodeTrig w with | some i => exec i s1 | none => .next s1)
      | none => .next (s1.stallAt k (s.trigFull t))
    else
      match decodeElem (s.wordAt t) with
      | some i => exec i s1
      | none => .next s1

/-! ### The CP's issue (R233, R309) -/

/-- The state that an instruction of a context runs in: the context in focus, and the last to have issued on its core. -/
def State.turnOf (s : State) (core ctx : Nat) : State :=
  (s.focusOn (.ctx (core * 8 + ctx))).updCore core fun c => { c with last := ctx }

/-- A context issues the instruction at its PC. -/
def State.issue (s : State) (core ctx : Nat) : Host.Outcome State Fault Refusal :=
  if (s.ctx (core * 8 + ctx)).status = .running then exec (s.fetch (core * 8 + ctx)) (s.turnOf core ctx) else .next s

/-- Whether a context that waits would still wait. -/
def State.stillWaits (s : State) (core ctx : Nat) : Bool :=
  match s.issue core ctx with
  | .next s1 => (s1.ctx (core * 8 + ctx)).wait.isSome
  | _ => false

/-- Whether a context has a pending trap: it waits, and its instruction would now trap (R309). -/
def State.trapsNow (s : State) (core ctx : Nat) : Bool :=
  let x := s.ctx (core * 8 + ctx)
  x.wait.isSome && match s.issue core ctx with
    | .next s1 =>
      let y := s1.ctx (core * 8 + ctx)
      (y.handler && !x.handler) || y.status == .free || (y.status == .committed && (s1.ra (s.gang x.gang).ra).failed)
    | _ => false

/-- Whether a context waits for a store-log line: it takes the line, and goes on, without a turn (R220). -/
def State.logWaits (s : State) (core ctx : Nat) : Bool :=
  (match (s.ctx (core * 8 + ctx)).wait with | some w => w.why.isLog | none => false) && !s.trapsNow core ctx

/-- A context that waits tries again; when it would go on, that is left to its turn, but for a store that takes a store-log
line. What it waits for is looked at again in its turn, so that a BARW for whose barrier the phase has flipped twice by then waits
on: R226 does not say when the phase is looked at (DESIGN CHOICE, log 89). -/
def State.retry (s : State) (core ctx : Nat) : Host.Outcome State Fault Refusal :=
  match s.issue core ctx with
  | .next s1 =>
    if (s1.ctx (core * 8 + ctx)).wait.isSome || s.logWaits core ctx then .next { s1 with cores := s.cores } else .next s
  | r => r

/-- Whether a context waits for the end of a hold of its application (R190). -/
def Ctx.heldWait (x : Ctx) : Bool := match x.wait with | some w => w.why == .held | none => false

/-- Whether a context's next instruction reads its application while a knead holds it: it stalls without issuing (R190). -/
def State.readHeld (s : State) (core ctx : Nat) : Bool :=
  s.raHeld (s.gang (s.ctx (core * 8 + ctx)).gang).ra
    && match s.issue core ctx with
      | .next s1 => (s1.ctx (core * 8 + ctx)).heldWait
      | _ => false

/-- Whether a context is stalled. -/
def State.stalled (s : State) (core ctx : Nat) : Bool :=
  s.logWaits core ctx || ((s.ctx (core * 8 + ctx)).wait.isSome && s.stillWaits core ctx) || s.readHeld core ctx

/-- The turn of a context: it issues, but for an instruction that a hold begun in this core cycle stalls (R190). -/
def State.takeIssue (s : State) (core ctx : Nat) : Host.Outcome State Fault Refusal :=
  match s.issue core ctx with
  | .next s1 => .next (if s.readHeld core ctx then { s1 with cores := s.cores } else s1)
  | r => r

/-- Whether a context is running and neither stalled nor yielding; a pending pre-emption ends a yield (R233). -/
def State.readyCtx (s : State) (core ctx : Nat) : Bool :=
  let x := s.ctx (core * 8 + ctx)
  x.status == .running && (x.preReq || decide (x.yieldUntil ≤ s.cyc core)) && !s.stalled core ctx

/-- Take the next context in a round-robin, each that gives up its turn passed over once (R233): the contexts passed over
and the one chosen. -/
def takeTurn (s : State) (core : Nat) (l : List Nat) : List Nat × Option Nat :=
  match l with
  | [] => ([], none)
  | c :: r =>
    if (s.ctx (core * 8 + c)).yieldTurn then
      let a := takeTurn s core r
      (c :: a.1, a.2)
    else ([], some c)

/-- The choice of a core: a pending trap or pre-emption first, lowest number first; else round-robin after the last (R309). -/
def State.choose (s : State) (core : Nat) : List Nat × Option Nat :=
  let ready := (List.range 8).filter (s.readyCtx core)
  match ready.find? fun c => (s.ctx (core * 8 + c)).preReq || s.trapsNow core c with
  | some c => ([], some c)
  | none =>
    let last := (s.core core).last
    takeTurn s core ((ready.filter fun c => decide (last < c)) ++ ready.filter fun c => decide (c ≤ last))

/-- The cores with a running context or a loaded image that have a core cycle now, ascending. -/
def State.runningCores (s : State) : List Nat :=
  (List.range 64).filter fun core => s.hasEdge core
    && (s.ctxs.any (fun e => coreOf e.1 == core && e.2.status == .running) || s.images.any fun i => i.1 / 4 == core)

/-- What a core does in its core cycle: the stalled contexts try again; then, in the order of the contexts, the elements of
each context's regions and, if it is the one that issues, its instruction: arrivals at a barrier are counted by ascending
context number (R226). -/
def State.coreItems (s : State) (core : Nat) : List Item :=
  let chosen := (s.choose core).2
  ((List.range 8).filter fun c => (s.ctx (core * 8 + c)).status == .running && s.stalled core c).map (fun c => .retry core c)
    ++ (List.range 8).flatMap fun c => s.elementItems core c ++ (if chosen = some c then [.cp core c] else [])

/-! ### The core cycle -/

/-- Contexts that give up a turn have given it up (R233). -/
def State.passOver (s : State) (core : Nat) : State :=
  (s.choose core).1.foldl (fun s c => s.updCtx (core * 8 + c) fun x => { x with yieldTurn := false }) s

/-- The agenda of a core cycle: inputs that have come, due events, elements and one instruction of each CP, then the next core
cycle. -/
def State.schedule (s : State) : State :=
  let inputs := (s.inputs.filter fun e => decide (e.1 ≤ s.clock)).map (·.2)
  let cores := s.runningCores
  let s1 := cores.foldl State.passOver s
  { s1 with
    inputs := s.inputs.filter fun e => decide (s.clock < e.1)
    agenda := inputs.map .outside ++ s.dueEvents.map .event ++ cores.flatMap s.coreItems ++ [.advance] }

/-- The cores after a nominal core cycle: one whose bin gave it none has lost it (R4), and a bin that has been chosen is in force
from now on (R336). -/
def State.slowCores (s : State) : Tab Core :=
  s.cores.map fun c => (c.1, { c.2 with lost := c.2.lost + (if s.hasEdge c.1 then 0 else 1), pace := c.2.bin })

/-- The partitions after a nominal core cycle: the core that a tree follows has had one more core cycle, if its clock gave it
one (R3, R4), and the tree follows the slowest core from now on. -/
def State.tickParts (s : State) : Tab Part :=
  s.parts.map fun p => (p.1, { p.2 with ticks := p.2.ticks + (if s.treeCore p.1 s.clock then 1 else 0), pace := s.slowest p.1 })

/-- The next core cycle begins: freed queue entries are taken and frames held back (R307), ROW_FULL is decided where it can be (R193), results that
wait for translations of endpoint 0 are tried again (R36), fired stores of checkpointed gangs that are abandoned too (R279). -/
def State.nextCycle (s : State) : State :=
  let s1 := { s with clock := s.clock + 1, cores := s.slowCores, parts := s.tickParts }.fillQueues.holdFrames
  let s2 := s1.parts.foldl (fun s e => s.rowFullAll e.1) s1.retrySaved
  (s2.launches.filter (·.2.ending.isSome)).foldl (fun s e => s.finish e.1) s2

/-- What the outside does: an event; the host writes its memory (R35, R300), masks a vector (R326); a peer's CDROP ends a plan
(R252). -/
def State.outside (s : State) (o : Outside) : Host.Outcome State Fault Refusal :=
  match o with
  | .event i => exec i (s.focusOn .none)
  | .hostWrite pasid addr data => .next { s with host := msetN s.host (pasid * 2 ^ 64 + addr) data }
  | .maskVector vec => .next { s with dev := { s.dev with masked := s.dev.masked ||| BitVec.ofNat 96 (2 ^ vec) } }
  | .planDrop part plan => .next (s.peerDrop (part * 8192 + plan))

/-- An item of the agenda. -/
def State.run (s : State) (i : Item) : Host.Outcome State Fault Refusal :=
  match i with
  | .cp core ctx => s.takeIssue core ctx
  | .retry core ctx => s.retry core ctx
  | .element core row col => s.runElement (elemKey core row col)
  | .event i => exec i (s.focusOn .none)
  | .outside o => s.outside o
  | .advance => .next s.nextCycle

end Sys2Proof.Machine
end

