-- ==== Sys2Proof/Machine/Step.lean ====
section
/-! DEFINITION. One step of the model: an item of the agenda, or a new agenda when the last has come to its end. -/

namespace Sys2Proof.Machine
open Sys2Proof

/-- One step. -/
def step (s : State) : Host.Outcome State Fault Refusal :=
  match s.agenda with
  | [] => .next s.schedule
  | i :: r => ({ s with agenda := r } : State).run i

/-- The gang that stands for a loaded program: one member, context 0 of core 0, running operator 1 of launch slot 0. -/
def loadedGang (g : Gang) : Gang := { g with part := 0, slot := 0, op := 1, members := [0], started := true }

/-- The state with an instruction placed where the next step fetches (log 1): operator 1 of the launch in slot 0 of
partition 0 holds its words, context 0 of core 0 runs it from its start, and the agenda lets that context issue. -/
def State.withFetchWord (s : State) (nbits w : Nat) : State :=
  let l := s.launch 0
  let s1 := s.setLaunch 0 { l with state := 2, pantry := { l.pantry with ops := tset l.pantry.ops 1 { code := tableWords nbits w } } }
  let s2 := (s1.setGang 1 (loadedGang (s1.gang 1))).updCtx 0 fun x => { x with status := .running, gang := 1, pc := 0 }
  { s2 with agenda := [.cp 0 0] }

end Sys2Proof.Machine
end

