-- ==== Sys2Proof/Safety.lean ====
section
/-! DEFINITION. The terms that statements about instructions and runs use: the families of instructions, which agent acts,
what an instruction leaves, which agendas hold only what an agenda may list, the canonical form of the memories. -/

namespace Sys2Proof

/-- The guard of an instruction of the CP; none for a step that is none (R10). -/
def Instr.guard? (i : Instr) : Option Guard :=
  match i with
  | .add c _ _ _ _ => some c
  | .sub c _ _ _ _ => some c
  | .mul c _ _ _ _ => some c
  | .mulh c _ _ _ _ => some c
  | .mulhz c _ _ _ _ => some c
  | .div c _ _ _ _ => some c
  | .divz c _ _ _ _ => some c
  | .rem c _ _ _ _ => some c
  | .remz c _ _ _ _ => some c
  | .and c _ _ _ _ => some c
  | .or c _ _ _ _ => some c
  | .xor c _ _ _ _ => some c
  | .shl c _ _ _ _ => some c
  | .shr c _ _ _ _ => some c
  | .sar c _ _ _ _ => some c
  | .min c _ _ _ _ => some c
  | .max c _ _ _ _ => some c
  | .abs c _ _ _ => some c
  | .clz c _ _ _ => some c
  | .popc c _ _ _ => some c
  | .sext c _ _ _ _ => some c
  | .zext c _ _ _ _ => some c
  | .sel c _ _ _ _ => some c
  | .addi c _ _ _ => some c
  | .andi c _ _ _ => some c
  | .ori c _ _ _ => some c
  | .xori c _ _ _ => some c
  | .shli c _ _ _ => some c
  | .shri c _ _ _ => some c
  | .sari c _ _ _ => some c
  | .ldi c _ _ => some c
  | .ldiHi c _ _ => some c
  | .cmp c _ _ _ _ _ => some c
  | .cmpi c _ _ _ _ => some c
  | .fcmp c _ _ _ _ => some c
  | .pand c _ _ _ => some c
  | .por c _ _ _ => some c
  | .pxor c _ _ _ => some c
  | .pnot c _ _ => some c
  | .fadd c _ _ _ => some c
  | .fsub c _ _ _ => some c
  | .fmul c _ _ _ => some c
  | .fma c _ _ _ => some c
  | .fmin c _ _ _ => some c
  | .fmax c _ _ _ => some c
  | .fabs c _ _ => some c
  | .fneg c _ _ => some c
  | .fdiv c _ _ _ => some c
  | .fsqrt c _ _ => some c
  | .fexp2 c _ _ => some c
  | .flog2 c _ _ => some c
  | .frcp c _ _ => some c
  | .fcvt c _ _ _ _ _ _ => some c
  | .ftoi c _ _ _ _ _ => some c
  | .itof c _ _ _ _ => some c
  | .nop c => some c
  | .br c _ => some c
  | .brl c _ => some c
  | .jmp c _ _ => some c
  | .jmpl c _ _ _ => some c
  | .loop c _ _ => some c
  | .ld c _ _ _ _ => some c
  | .ldz c _ _ _ _ => some c
  | .st c _ _ _ _ => some c
  | .ldx c _ _ _ _ _ _ => some c
  | .stx c _ _ _ _ _ => some c
  | .prf c _ _ _ => some c
  | .cln c _ _ => some c
  | .fnc c _ _ => some c
  | .aadd c _ _ _ _ => some c
  | .amin c _ _ _ _ => some c
  | .amax c _ _ _ _ => some c
  | .aand c _ _ _ _ => some c
  | .aor c _ _ _ _ => some c
  | .axch c _ _ _ _ => some c
  | .acas c _ _ _ _ => some c
  | .afadd c _ _ _ _ => some c
  | .bari c _ _ => some c
  | .bara c _ _ => some c
  | .barw c _ _ => some c
  | .barq c _ _ => some c
  | .gets c _ _ => some c
  | .sets c _ _ => some c
  | .sysc c _ => some c
  | .eret c => some c
  | .eretNext c => some c
  | .trap c _ => some c
  | .wfe c _ _ => some c
  | .yield c _ => some c
  | .talloc c _ _ _ _ _ => some c
  | .tview c _ _ _ => some c
  | .tld c _ _ _ _ _ _ => some c
  | .tst c _ _ _ _ _ => some c
  | .tshape c _ _ => some c
  | .tstate c _ _ => some c
  | .twait c _ => some c
  | .tseal c _ => some c
  | .ttouch c _ => some c
  | .tadvKeep c _ => some c
  | .tadvSpill c _ => some c
  | .tpin c _ => some c
  | .tpinUn c _ => some c
  | .tdrop c _ => some c
  | .xspan c _ _ => some c
  | .xlen c _ _ => some c
  | .xkind c _ _ => some c
  | .xarg c _ _ => some c
  | .xargH c _ _ => some c
  | .xcopy c _ _ => some c
  | .xemit c _ => some c
  | .xemitt c _ => some c
  | .xopen c => some c
  | .xclose c => some c
  | .xcloseApp c => some c
  | .xapply c _ _ => some c
  | .commit c => some c
  | .abort c => some c
  | .xfail c _ => some c
  | .trbc c _ _ _ => some c
  | .trbcH c _ _ _ => some c
  | .trred c _ _ _ _ => some c
  | .trgath c _ _ => some c
  | .trbar c => some c
  | .cplan c _ _ => some c
  | .cfire c _ => some c
  | .cwait c _ _ _ => some c
  | .cdrop c _ => some c
  | .csendS c _ _ => some c
  | .csendR c _ _ => some c
  | .sagen c _ _ => some c
  | .sagenTile c _ _ _ => some c
  | .sagenPantry c _ _ => some c
  | .sgo c _ => some c
  | .shalt c _ => some c
  | .shaltPush c _ => some c
  | .swait c _ _ => some c
  | .scnt c _ _ => some c
  | .smcast c _ _ => some c
  | .sbind c _ _ _ => some c
  | .sbindHost c _ => some c
  | .gload c _ _ => some c
  | .gloadPantry c _ _ => some c
  | .gpatch c _ _ => some c
  | .gpatchPantry c _ _ => some c
  | .gproof c _ => some c
  | .gseed c _ _ _ => some c
  | .gdrain c _ => some c
  | .gdrainOpen c _ => some c
  | .gwait c _ => some c
  | .gwaitIdle c _ => some c
  | .gkill c _ => some c
  | .gsave c _ _ => some c
  | .gstall c _ _ => some c
  | .gstallFlags c _ _ => some c
  | _ => none

/-- The bytes of an instruction of the CP: 8 for LDI, 4 otherwise (R101). -/
def Instr.bytes (i : Instr) : Nat :=
  match i with
  | .ldi _ _ _ => 8
  | .ldiHi _ _ _ => 8
  | _ => 4

/-- The ops of a context word (R266 to R283). -/
def Instr.isElementOp (i : Instr) : Bool :=
  match i with
  | .eNop => true
  | .eAdd _ => true
  | .eSub _ => true
  | .eMul _ => true
  | .eMulh _ => true
  | .eAnd _ => true
  | .eOr _ => true
  | .eXor _ => true
  | .eShl _ => true
  | .eShr _ => true
  | .eSar _ => true
  | .eMin _ => true
  | .eMax _ => true
  | .eCmp _ => true
  | .eSel _ => true
  | .eMov _ => true
  | .eConst _ => true
  | .eCnt _ => true
  | .eAcc _ => true
  | .eFadd _ => true
  | .eFsub _ => true
  | .eFmul _ => true
  | .eFfma _ => true
  | .eFmin _ => true
  | .eFmax _ => true
  | .eFcmp _ => true
  | .eFacc _ => true
  | .eCvt _ => true
  | .eExp2 _ => true
  | .eLog2 _ => true
  | .eRcp _ => true
  | .eRsq _ => true
  | .eLd _ => true
  | .eSt _ => true
  | .eLdl _ => true
  | .eOrdf _ => true
  | .eOrdj _ => true
  | .eSteer _ => true
  | .eMerge _ => true
  | .eTagchk _ => true
  | .eSink _ => true
  | _ => false

/-- The ops of a trigger instruction (R285 to R288). -/
def Instr.isTriggerOp (i : Instr) : Bool :=
  match i with
  | .tMma _ => true
  | .tMclr _ => true
  | .tMdrain _ => true
  | .tMscale _ => true
  | .tAccrd _ => true
  | .tDeq _ => true
  | .tEnq _ => true
  | .tPset _ => true
  | .tPclr _ => true
  | .tSig _ => true
  | .tSeed _ => true
  | .tTagset _ => true
  | .tCnt _ => true
  | .tMov _ => true
  | .tCmp _ => true
  | .tHalt _ => true
  | _ => false

/-- The events: what is no instruction of an agent, nor the illegal encoding that one takes (R107). -/
def Instr.isEvent (i : Instr) : Bool :=
  i.guard?.isNone && !i.isElementOp && !i.isTriggerOp && (match i with | .illegalEncoding _ => false | _ => true)

/-- The instructions that write one g register and, where they are float instructions, fx.flags, and nothing else: the
register. -/
def Instr.onlyG? (i : Instr) : Option (BitVec 5) :=
  match i with
  | .add _ _ d _ _ => some d
  | .sub _ _ d _ _ => some d
  | .mul _ _ d _ _ => some d
  | .mulh _ _ d _ _ => some d
  | .mulhz _ _ d _ _ => some d
  | .div _ _ d _ _ => some d
  | .divz _ _ d _ _ => some d
  | .rem _ _ d _ _ => some d
  | .remz _ _ d _ _ => some d
  | .and _ _ d _ _ => some d
  | .or _ _ d _ _ => some d
  | .xor _ _ d _ _ => some d
  | .shl _ _ d _ _ => some d
  | .shr _ _ d _ _ => some d
  | .sar _ _ d _ _ => some d
  | .min _ _ d _ _ => some d
  | .max _ _ d _ _ => some d
  | .abs _ _ d _ => some d
  | .clz _ _ d _ => some d
  | .popc _ _ d _ => some d
  | .sext _ _ d _ _ => some d
  | .zext _ _ d _ _ => some d
  | .sel _ d _ _ _ => some d
  | .addi _ d _ _ => some d
  | .andi _ d _ _ => some d
  | .ori _ d _ _ => some d
  | .xori _ d _ _ => some d
  | .shli _ d _ _ => some d
  | .shri _ d _ _ => some d
  | .sari _ d _ _ => some d
  | .ldi _ d _ => some d
  | .ldiHi _ d _ => some d
  | .fadd _ d _ _ => some d
  | .fsub _ d _ _ => some d
  | .fmul _ d _ _ => some d
  | .fma _ d _ _ => some d
  | .fmin _ d _ _ => some d
  | .fmax _ d _ _ => some d
  | .fabs _ d _ => some d
  | .fneg _ d _ => some d
  | .fdiv _ d _ _ => some d
  | .fsqrt _ d _ => some d
  | .fexp2 _ d _ => some d
  | .flog2 _ d _ => some d
  | .frcp _ d _ => some d
  | .fcvt _ d _ _ _ _ _ => some d
  | .ftoi _ d _ _ _ _ => some d
  | .itof _ d _ _ _ => some d
  | _ => none

/-- The instructions that write one predicate and, for FCMP, fx.flags, and nothing else: the predicate. -/
def Instr.onlyP? (i : Instr) : Option (BitVec 3) :=
  match i with
  | .cmp _ _ d _ _ _ => some d
  | .cmpi _ d _ _ _ => some d
  | .fcmp _ d _ _ _ => some d
  | .pand _ d _ _ => some d
  | .por _ d _ _ => some d
  | .pxor _ d _ _ => some d
  | .pnot _ d _ => some d
  | _ => none

end Sys2Proof

namespace Sys2Proof.Machine
open Sys2Proof

/-- Context k acts, and the guard of its instruction lets it issue (R10). -/
def State.issues (s : State) (k : Nat) (c : Guard) : Prop := s.focus = .ctx k ∧ (s.ctx k).guardHolds c = true

/-- The state `t` with context k gone on to a PC: no wait of it lasts (R101, R103). -/
def State.goesTo (t : State) (k : Nat) (pc : Word) : State := t.updCtx k fun x => x.goOn pc

/-- What a one-word instruction of context k that writes g[d] := v and nothing else leaves of `s`. -/
def State.wroteG (s : State) (k : Nat) (d : BitVec 5) (v : Word) : State :=
  (s.updCtx k fun x => x.wg d v).goesTo k ((s.ctx k).pc + 4)

/-- What an instruction of context k that writes p[d] := v and nothing else leaves of `s`. -/
def State.wroteP (s : State) (k : Nat) (d : BitVec 3) (v : Bool) : State :=
  (s.updCtx k fun x => x.wp d v).goesTo k ((s.ctx k).pc + 4)

/-- An operation on W-bit words as R199 applies it to g registers: W is 64, or 32 with the result sign-extended. -/
def atWidth (w : Bool) (f : (n : Nat) → BitVec n → BitVec n → BitVec n) (x y : Word) : Word :=
  if w then (f 32 (x.setWidth 32) (y.setWidth 32)).signExtend 64 else f 64 x y

/-- Device memory, host memory and the bytes of every page stand in their canonical form. -/
def State.memWf (s : State) : Prop := s.mem.wf = true ∧ s.host.wf = true ∧ s.dir.all (fun e => e.2.data.wf) = true

/-- What the outside may bring: no event is an instruction of an agent. -/
def Outside.ok (o : Outside) : Bool := match o with | .event i => i.isEvent | _ => true

/-- What an agenda may list: no event is an instruction of an agent. -/
def Item.ok (i : Item) : Bool :=
  match i with
  | .event i => i.isEvent
  | .outside o => o.ok
  | _ => true

/-- The agenda and the inputs list only what they may. -/
def State.agendaOk (s : State) : Prop := s.agenda.all Item.ok = true ∧ s.inputs.all (fun e => e.2.ok) = true

/-- The tokens of the queue that a drive feeds (R113, R124). -/
def State.toksAt (s : State) (o : Out) : List Tok :=
  match o with
  | .elem j d => ((s.elem j).queue d).toks
  | .exit key => (tgetD s.exits key {}).toks

/-- The element of a site can take its core cycle, and has not acted in it (R116, R139, R141). -/
def State.acts (s : State) (k : Nat) (t : Site) : Prop :=
  s.focus = .elem k ∧ s.siteOf k = some t ∧ t.enabled = true ∧ t.e.acted ≠ s.cycE k + 1

end Sys2Proof.Machine
end

