-- ==== Sys2Proof/Certificates/Slice0/Obligations.lean ====
section
/-! DEFINITION. The statements about the part, for the provers: each cites the rules of the spec that it rests on. -/

open Sys2Proof Sys2Proof.Machine

/-- An instruction whose guard fails has no effect but to go on, and the reserved guard is no instruction (R10). -/
def Obligations.FailedGuardHasNoEffect : Prop :=
  (∀ (i : Instr) (c : Guard) (s : State) (k : Nat),
    i.guard? = some c → s.focus = .ctx k → (s.ctx k).guardHolds c = false →
    exec i s = .next (s.goesTo k ((s.ctx k).pc + BitVec.ofNat 64 i.bytes)))
  ∧ (∀ x : Ctx, x.guardHolds .always = true)
  ∧ (∀ word ext : W32, word.extractLsb' 21 4 = 8#4 → decodeWord word ext = .error .badGuard)

/-- ADD, SUB, MUL, MULH, MULHZ, AND, OR, XOR, DIV, DIVZ, REM and REMZ write the result of R199 at 64 and at 32 bits
(R166, R199). -/
def Obligations.IntegerArithmeticAndLogic : Prop :=
  ∀ (s : State) (k : Nat) (c : Guard) (w : Bool) (d a b : BitVec 5), s.issues k c →
    let x := (s.ctx k).rg a
    let y := (s.ctx k).rg b
    exec (.add c w d a b) s = .next (s.wroteG k d (atWidth w (fun _ x y => x + y) x y))
    ∧ exec (.sub c w d a b) s = .next (s.wroteG k d (atWidth w (fun _ x y => x - y) x y))
    ∧ exec (.mul c w d a b) s = .next (s.wroteG k d (atWidth w (fun _ x y => x * y) x y))
    ∧ exec (.mulh c w d a b) s = .next (s.wroteG k d
        (atWidth w (fun n x y => (x.signExtend (2 * n) * y.signExtend (2 * n)).extractLsb' n n) x y))
    ∧ exec (.mulhz c w d a b) s = .next (s.wroteG k d
        (atWidth w (fun n x y => (x.setWidth (2 * n) * y.setWidth (2 * n)).extractLsb' n n) x y))
    ∧ exec (.and c w d a b) s = .next (s.wroteG k d (atWidth w (fun _ x y => x &&& y) x y))
    ∧ exec (.or c w d a b) s = .next (s.wroteG k d (atWidth w (fun _ x y => x ||| y) x y))
    ∧ exec (.xor c w d a b) s = .next (s.wroteG k d (atWidth w (fun _ x y => x ^^^ y) x y))
    ∧ exec (.div c w d a b) s = .next (s.wroteG k d
        (atWidth w (fun _ x y => if y = 0 then -1 else x.sdiv y) x y))
    ∧ exec (.divz c w d a b) s = .next (s.wroteG k d
        (atWidth w (fun n x y => if y = 0 then BitVec.allOnes n else x / y) x y))
    ∧ exec (.rem c w d a b) s = .next (s.wroteG k d
        (atWidth w (fun _ x y => if y = 0 then x else x.srem y) x y))
    ∧ exec (.remz c w d a b) s = .next (s.wroteG k d
        (atWidth w (fun _ x y => if y = 0 then x else x % y) x y))

/-- SHL, SHR, SAR, MIN, MAX, ABS, CLZ, POPC, SEXT, ZEXT at 64 and at 32 bits (R166, R199). -/
def Obligations.IntegerShiftsAndSelections : Prop :=
  ∀ (s : State) (k : Nat) (c : Guard) (w : Bool) (d a b : BitVec 5), s.issues k c →
    let x := (s.ctx k).rg a
    let y := (s.ctx k).rg b
    exec (.shl c w d a b) s = .next (s.wroteG k d (atWidth w (fun n x y => x <<< (y.toNat % n)) x y))
    ∧ exec (.shr c w d a b) s = .next (s.wroteG k d (atWidth w (fun n x y => x >>> (y.toNat % n)) x y))
    ∧ exec (.sar c w d a b) s = .next (s.wroteG k d (atWidth w (fun n x y => x.sshiftRight (y.toNat % n)) x y))
    ∧ exec (.min c w d a b) s = .next (s.wroteG k d (atWidth w (fun _ x y => if x.sle y then x else y) x y))
    ∧ exec (.max c w d a b) s = .next (s.wroteG k d (atWidth w (fun _ x y => if x.sle y then y else x) x y))
    ∧ exec (.abs c w d a) s = .next (s.wroteG k d (atWidth w (fun _ x _ => if x.slt 0 then -x else x) x 0))
    ∧ exec (.clz c w d a) s = .next (s.wroteG k d (atWidth w (fun _ x _ => x.clz) x 0))
    ∧ exec (.popc c w d a) s = .next (s.wroteG k d (atWidth w (fun _ x _ => x.cpop) x 0))
    ∧ (b.toNat < 3 →
        exec (.sext c w d a b) s = .next (s.wroteG k d
          (atWidth w (fun n x _ => (x.setWidth (8 * 2 ^ b.toNat)).signExtend n) x 0))
        ∧ exec (.zext c w d a b) s = .next (s.wroteG k d
          (atWidth w (fun n x _ => (x.setWidth (8 * 2 ^ b.toNat)).setWidth n) x 0)))

/-- SEL, the seven immediate operations, LDI and LDI.hi (R200, R201, R202). -/
def Obligations.SelectionAndImmediates : Prop :=
  ∀ (s : State) (k : Nat) (c : Guard) (d a b : BitVec 5) (p : BitVec 3) (imm : BitVec 11) (n : BitVec 6) (v : BitVec 32),
    s.issues k c →
    let x := (s.ctx k).rg a
    exec (.sel c d a b p) s = .next (s.wroteG k d (if p = 0 ∨ (s.ctx k).p.getLsbD p.toNat then x else (s.ctx k).rg b))
    ∧ exec (.addi c d a imm) s = .next (s.wroteG k d (x + imm.signExtend 64))
    ∧ exec (.andi c d a imm) s = .next (s.wroteG k d (x &&& imm.signExtend 64))
    ∧ exec (.ori c d a imm) s = .next (s.wroteG k d (x ||| imm.signExtend 64))
    ∧ exec (.xori c d a imm) s = .next (s.wroteG k d (x ^^^ imm.signExtend 64))
    ∧ exec (.shli c d a n) s = .next (s.wroteG k d (x <<< n.toNat))
    ∧ exec (.shri c d a n) s = .next (s.wroteG k d (x >>> n.toNat))
    ∧ exec (.sari c d a n) s = .next (s.wroteG k d (x.sshiftRight n.toNat))
    ∧ exec (.ldi c d v) s = .next ((s.updCtx k fun x => x.wg d (v.signExtend 64)).goesTo k ((s.ctx k).pc + 8))
    ∧ exec (.ldiHi c d v) s = .next
        ((s.updCtx k fun x => x.wg d (v ++ (x.rg d).setWidth 32)).goesTo k ((s.ctx k).pc + 8))

/-- PAND, POR, PXOR and PNOT: their words, what they write, p0 as an operand and as a destination, and the reserved
encodings (R206). -/
def Obligations.PredicateOperations : Prop :=
  (∀ (s : State) (k : Nat) (c : Guard) (d a b : BitVec 3), s.issues k c →
    let p := fun (r : BitVec 3) => decide (r = 0) || (s.ctx k).p.getLsbD r.toNat
    exec (.pand c d a b) s = .next (s.wroteP k d (p a && p b))
    ∧ exec (.por c d a b) s = .next (s.wroteP k d (p a || p b))
    ∧ exec (.pxor c d a b) s = .next (s.wroteP k d (p a ^^ p b))
    ∧ exec (.pnot c d a) s = .next (s.wroteP k d (!(p a))))
  ∧ (∀ (x : Ctx) (d r : BitVec 3) (v : Bool),
      (x.wp 0 v) = x ∧ (d ≠ 0 → ((x.wp d v).p.getLsbD d.toNat = v ∧ (r ≠ d → (x.wp d v).p.getLsbD r.toNat = x.p.getLsbD r.toNat))))
  ∧ (∀ (word ext : W32), word.extractLsb' 25 7 = 0x0F#7 →
      (4 ≤ (word.extractLsb' 0 6).toNat ∨ word.extractLsb' 19 2 ≠ 0 ∨ word.extractLsb' 14 2 ≠ 0 ∨ word.extractLsb' 9 2 ≠ 0
        ∨ (word.extractLsb' 0 6 = 3#6 ∧ word.extractLsb' 6 5 ≠ 0)) →
      (decodeWord word ext).toOption = none)
  ∧ (∀ (word ext : W32), word.extractLsb' 25 7 = 0x0F#7 → word.extractLsb' 19 2 = 0 → word.extractLsb' 14 2 = 0 → word.extractLsb' 9 2 = 0 →
      let c : Guard := ⟨word.getLsbD 24, word.extractLsb' 21 3⟩
      let d := word.extractLsb' 16 3
      let a := word.extractLsb' 11 3
      let b := word.extractLsb' 6 3
      let fn := word.extractLsb' 0 6
      c ≠ ⟨true, 0⟩ →
      (fn = 0 → decodeWord word ext = .ok (.pand c d a b)) ∧ (fn = 1 → decodeWord word ext = .ok (.por c d a b))
      ∧ (fn = 2 → decodeWord word ext = .ok (.pxor c d a b)) ∧ (fn = 3 → b = 0 → decodeWord word ext = .ok (.pnot c d a)))

/-- CMP, CMP.w, CMPI and FCMP write the predicate that R203 to R205 give (R166, R203, R204, R205). -/
def Obligations.Comparisons : Prop :=
  (∀ (s : State) (k : Nat) (c : Guard) (w : Bool) (d : BitVec 3) (a b : BitVec 5) (cc : BitVec 3) (imm : BitVec 10),
    s.issues k c → cc.toNat < 6 →
    let cmp := fun (n : Nat) (x y : BitVec n) =>
      [x == y, x != y, x.slt y, x.sle y, x.ult y, x.ule y].getD cc.toNat false
    let x := (s.ctx k).rg a
    let y := (s.ctx k).rg b
    exec (.cmp c w d a b cc) s = .next (s.wroteP k d
        (if w then cmp 32 (x.setWidth 32) (y.setWidth 32) else cmp 64 x y))
    ∧ exec (.cmpi c d cc a imm) s = .next (s.wroteP k d (cmp 64 x (imm.signExtend 64))))
  ∧ (∀ (s : State) (k : Nat) (c : Guard) (d : BitVec 3) (a b : BitVec 5) (cc : BitVec 3),
    s.issues k c → cc.toNat < 6 →
    let x := v32 (((s.ctx k).rg a).setWidth 32)
    let y := v32 (((s.ctx k).rg b).setWidth 32)
    ∃ r : Bool,
      exec (.fcmp c d a b cc) s = .next ((s.updCtx k fun z => { z.wp d r with
          fxFlags := if x = .nan true ∨ y = .nan true then z.fxFlags ||| 1#5 else z.fxFlags }).goesTo k ((s.ctx k).pc + 4))
      ∧ ((isNaN x = true ∨ isNaN y = true) → r = decide (cc = 1 ∨ cc = 4))
      ∧ (isNaN x = false ∧ isNaN y = false →
          (cc = 4 → r = false) ∧ (cc = 5 → r = true) ∧ (cc = 0 → r = !(ltVal false x y || ltVal false y x))
          ∧ (cc = 1 → r = (ltVal false x y || ltVal false y x)) ∧ (cc = 2 → r = ltVal false x y)
          ∧ (cc = 3 → r = !(ltVal false y x))))

/-- Every float instruction of R208 completes with the zero-extended 32-bit result of its operation and only sets
flags (R97, R156, R158, R166, R207, R208). -/
def Obligations.FloatOperationsComplete : Prop :=
  (∀ (s : State) (k : Nat) (c : Guard) (d a b : BitVec 5), s.issues k c →
    let wrote := fun (r : W32) (fl : BitVec 5) =>
      (s.updCtx k fun x => { x.wg d (r.setWidth 64) with fxFlags := x.fxFlags ||| fl }).goesTo k ((s.ctx k).pc + 4)
    (∀ i ∈ [Instr.fadd c d a b, .fsub c d a b, .fmul c d a b, .fma c d a b, .fmin c d a b, .fmax c d a b, .fdiv c d a b,
        .fsqrt c d a, .fexp2 c d a, .flog2 c d a, .frcp c d a], ∃ r fl, exec i s = .next (wrote r fl))
    ∧ exec (.fabs c d a) s = .next (wrote (((s.ctx k).rg a).setWidth 32 &&& 0x7FFFFFFF) 0)
    ∧ exec (.fneg c d a) s = .next (wrote (((s.ctx k).rg a).setWidth 32 ^^^ 0x80000000) 0))
  ∧ (∀ (s : State) (k : Nat) (c : Guard) (d a b : BitVec 5), s.issues k c →
    let z := v32 (((s.ctx k).rg d).setWidth 32)
    let x := v32 (((s.ctx k).rg a).setWidth 32)
    let y := v32 (((s.ctx k).rg b).setWidth 32)
    let wrote := fun (invalid : Bool) =>
      (s.updCtx k fun u => { u.wg d 0x7FC00000 with
        fxFlags := if invalid then u.fxFlags ||| 1#5 else u.fxFlags }).goesTo k ((s.ctx k).pc + 4)
    (isNaN x = true ∨ isNaN y = true →
      ∀ i ∈ [Instr.fadd c d a b, .fsub c d a b, .fmul c d a b, .fmin c d a b, .fmax c d a b, .fdiv c d a b],
        exec i s = .next (wrote (x == .nan true || y == .nan true)))
    ∧ (isNaN x = true →
      ∀ i ∈ [Instr.fsqrt c d a, .fexp2 c d a, .flog2 c d a, .frcp c d a], exec i s = .next (wrote (x == .nan true)))
    ∧ (isNaN x = true ∨ isNaN y = true ∨ isNaN z = true →
      exec (.fma c d a b) s = .next (wrote (x == .nan true || y == .nan true || z == .nan true
        || (isZero x && isInf y) || (isInf x && isZero y)))))
  ∧ (∀ (s : State) (k : Nat) (c : Guard) (d a b : BitVec 5), s.issues k c →
    let wz := ((s.ctx k).rg d).setWidth 32
    let wx := ((s.ctx k).rg a).setWidth 32
    let wy := ((s.ctx k).rg b).setWidth 32
    let wrote := fun (r : Nat × FFlags) =>
      (s.updCtx k fun x => { x.wg d ((BitVec.ofNat 32 r.1).setWidth 64) with fxFlags := x.fxFlags ||| r.2.bits }).goesTo k ((s.ctx k).pc + 4)
    (∀ i r, (i, r) ∈ [(Instr.fadd c d a b, addVal (v32 wx) (v32 wy)), (.fsub c d a b, addVal (v32 wx) (negVal (v32 wy))),
        (.fmul c d a b, mulVal (v32 wx) (v32 wy)), (.fma c d a b, fmaVal (v32 wx) (v32 wy) (v32 wz)),
        (.fmin c d a b, minMax fp32 false wx.toNat wy.toNat), (.fmax c d a b, minMax fp32 true wx.toNat wy.toNat),
        (.fdiv c d a b, divVal (v32 wx) (v32 wy)), (.fsqrt c d a, sqrtVal (v32 wx)), (.fexp2 c d a, exp2Bits wx),
        (.flog2 c d a, log2Bits wx), (.frcp c d a, rcpBits wx)] → exec i s = .next (wrote r))
    ∧ (∀ (nx ny nz : Bool) (mx my mz : Nat) (ex ey ez : Int), v32 wx = .fin nx mx ex → v32 wy = .fin ny my ey →
        let num := fun (neg : Bool) (m : Nat) (e low : Int) => (if neg then -1 else 1) * (m * 2 ^ (e - low).toNat : Int)
        let rn := fun (v low : Int) => roundTo fp32 0 false (decide (v < 0)) v.natAbs low false
        let low := min ex ey
        let plow := min (ex + ey) ez
        let sum := num nx mx ex low + num ny my ey low
        let diff := num nx mx ex low - num ny my ey low
        let fused := num (nx != ny) (mx * my) (ex + ey) plow + num nz mz ez plow
        (sum ≠ 0 → exec (.fadd c d a b) s = .next (wrote (rn sum low)))
        ∧ (diff ≠ 0 → exec (.fsub c d a b) s = .next (wrote (rn diff low)))
        ∧ exec (.fmul c d a b) s = .next (wrote (roundTo fp32 0 false (nx != ny) (mx * my) (ex + ey) false))
        ∧ (v32 wz = .fin nz mz ez → fused ≠ 0 → exec (.fma c d a b) s = .next (wrote (rn fused plow)))))

/-- FCVT, FTOI and ITOF complete for every legal form (R161, R207, R209, R210, R211). -/
def Obligations.ConversionsComplete : Prop :=
  ∀ (s : State) (k : Nat) (c : Guard) (d a : BitVec 5) (src dst : BitVec 4) (sat z : Bool) (width rm : BitVec 2),
    s.issues k c →
    let x := v32 (((s.ctx k).rg a).setWidth 32)
    let wrote := fun (v : Word) (fl : BitVec 5) =>
      (s.updCtx k fun x => { x.wg d v with fxFlags := x.fxFlags ||| fl }).goesTo k ((s.ctx k).pc + 4)
    let bits := 8 * 2 ^ width.toNat
    let lo : Int := if z then 0 else -(2 ^ (bits - 1))
    let hi : Int := if z then 2 ^ bits - 1 else 2 ^ (bits - 1) - 1
    (fcvtOk src sat dst rm = true → ∃ p fl, p < 2 ^ (8 * fmtSize dst.toNat) ∧
      exec (.fcvt c d a src sat dst rm) s = .next (wrote
        (if dst.toNat ≤ 2 then ((BitVec.ofNat 64 p).setWidth (8 * fmtSize dst.toNat)).signExtend 64 else BitVec.ofNat 64 p) fl)
      ∧ (let v := ((s.ctx k).rg a).toNat % 2 ^ (8 * fmtSize src.toNat)
        let got := fun (r : Nat × FFlags) => p = r.1 ∧ fl = r.2.bits
        (∀ f g neg m e, floatFmt src.toNat = some f → floatFmt dst.toNat = some g → src ≠ dst → f.value v = .fin neg m e →
          got (roundTo g rm.toNat sat neg m e false))
        ∧ (∀ f, floatFmt src.toNat = some f → src = dst → isNaN (f.value v) = false → p = v ∧ fl = 0)
        ∧ (∀ f w sg, floatFmt src.toNat = some f → intFmt dst.toNat = some (w, sg) →
            let r := floatToInt w sg rm.toNat (f.value v)
            got ((r.1 % (2 ^ w : Int)).toNat, r.2))
        ∧ (∀ g w sg, intFmt src.toNat = some (w, sg) → floatFmt dst.toNat = some g →
            got (roundTo g rm.toNat sat (decide (intOf w sg v < 0)) (intOf w sg v).natAbs 0 false))
        ∧ (∀ w sg w' sg', intFmt src.toNat = some (w, sg) → intFmt dst.toNat = some (w', sg') →
            (intRange w' sg').1 ≤ intOf w sg v → intOf w sg v ≤ (intRange w' sg').2 →
            (p : Int) = intOf w sg v % (2 ^ w' : Int) ∧ fl = 0)))
    ∧ (∃ n : Int, ∃ fl, lo ≤ n ∧ n ≤ hi ∧
        (isNaN x = true → n = 0 ∧ fl = 1#5) ∧ (isInf x = true → n = (if signOf x then lo else hi) ∧ fl = 1#5) ∧
        (∀ neg m e, x = .fin neg m e → ∃ q : Int,
          -- q is the value ±m·2^e, num over den, rounded to an integer in the mode
          let num : Int := (if neg then -1 else 1) * (m * 2 ^ e.toNat : Nat)
          let den : Int := 2 ^ (-e).toNat
          (rm = 0 → 2 * (q * den - num).natAbs ≤ den ∧ (2 * ((q * den - num).natAbs : Int) = den → q % 2 = 0))
          ∧ (rm = 1 → (q * den).natAbs ≤ num.natAbs ∧ num.natAbs < (q * den).natAbs + den ∧ 0 ≤ q * num)
          ∧ (rm = 2 → num ≤ q * den ∧ q * den < num + den) ∧ (rm = 3 → q * den ≤ num ∧ num < q * den + den)
          ∧ (q < lo → n = lo ∧ fl = 1#5) ∧ (hi < q → n = hi ∧ fl = 1#5)
          ∧ (lo ≤ q → q ≤ hi → n = q ∧ fl = if q * den = num then 0 else 16#5)) ∧
        exec (.ftoi c d a z width rm) s = .next (wrote (BitVec.ofInt 64 n) fl))
    ∧ (let v := intOf bits (!z) ((s.ctx k).rg a).toNat
      let r := roundTo fp32 (s.ctx k).fxMode.toNat false (decide (v < 0)) v.natAbs 0 false
      exec (.itof c d a z width) s = .next (wrote ((BitVec.ofNat 32 r.1).setWidth 64) r.2.bits))

/-- NOP, BR, BRL and LOOP (R103, R212, R213, R215). -/
def Obligations.BranchesAndLoops : Prop :=
  ∀ (s : State) (k : Nat) (c : Guard) (a : BitVec 5) (off : BitVec 21) (imm : BitVec 11), s.issues k c →
    let pc := (s.ctx k).pc
    exec (.nop c) s = .next (s.goesTo k (pc + 4))
    ∧ exec (.br c off) s = .next (s.goesTo k (pc + 4 * off.signExtend 64))
    ∧ exec (.brl c off) s = .next ((s.updCtx k fun x => x.wg 31 (pc + 4)).goesTo k (pc + 4 * off.signExtend 64))
    ∧ (a ≠ 0 →
        let v := (s.ctx k).rg a - 1
        exec (.loop c a imm) s = .next ((s.updCtx k fun x => x.wg a v).goesTo k
          (if v = 0 then pc + 4 else pc - 4 * imm.setWidth 64)))
    ∧ (∀ word ext : W32, word.extractLsb' 25 7 = 0x1C#7 → word.extractLsb' 11 5 = 0#5 →
        exec (decodeOr word ext) s = .next (s.takeTrap k ⟨0x01, 0, 0⟩))

/-- JMP and JMPL, the link, the return from a BRL, and the JMP with d ≠ 0 that is no instruction (R214). -/
def Obligations.Jumps : Prop :=
  (∀ (s : State) (k : Nat) (c : Guard) (d a : BitVec 5) (imm : BitVec 11), s.issues k c →
    let target := ((s.ctx k).rg a &&& ~~~3#64) + 4 * imm.signExtend 64
    exec (.jmp c a imm) s = .next (s.goesTo k target)
    ∧ exec (.jmpl c d a imm) s = .next ((s.updCtx k fun x => x.wg d ((s.ctx k).pc + 4)).goesTo k target)
    ∧ exec (.jmpl c 0 a imm) s = exec (.jmp c a imm) s
    ∧ (∀ off, (s.ctx k).pc &&& 3#64 = 0 → ∃ t, exec (.brl c off) s = .next t ∧
        exec (.jmp c 31 0) t = .next (t.goesTo k ((s.ctx k).pc + 4))))
  ∧ (∀ word ext : W32,
      let c : Guard := ⟨word.getLsbD 24, word.extractLsb' 21 3⟩
      c ≠ ⟨true, 0⟩ →
      (word.extractLsb' 25 7 = 0x1A#7 → decodeWord word ext =
        if word.extractLsb' 16 5 = 0 then .ok (.jmp c (word.extractLsb' 11 5) (word.extractLsb' 0 11))
        else .error .unusedNonzero)
      ∧ (word.extractLsb' 25 7 = 0x1B#7 → decodeWord word ext =
        .ok (.jmpl c (word.extractLsb' 16 5) (word.extractLsb' 11 5) (word.extractLsb' 0 11))))

/-- g0 reads as zero and discards writes, p0 reads as true and discards writes, and every other register holds what is
written (R93). -/
def Obligations.ZeroRegistersAndFreshRegisters : Prop :=
  ∀ (x : Ctx) (d r : BitVec 5) (p q : BitVec 3) (h j : BitVec 4) (v : Word) (b : Bool) (u : Handle),
    x.rg 0 = 0 ∧ x.rp 0 = true ∧ x.wg 0 v = x ∧ x.wp 0 b = x
    ∧ (d ≠ 0 → (x.wg d v).rg d = v) ∧ (r ≠ d → (x.wg d v).rg r = x.rg r)
    ∧ (p ≠ 0 → (x.wp p b).rp p = b) ∧ (q ≠ p → (x.wp p b).rp q = x.rp q)
    ∧ (x.wh h u).rh h = u ∧ (j ≠ h → (x.wh h u).rh j = x.rh j)

/-- What a register-only instruction leaves unchanged (R93, R97, R108, R199, R208). -/
def Obligations.RegisterInstructionsFrame : Prop :=
  ∀ (i : Instr) (c : Guard) (s t : State) (k : Nat), i.guard? = some c → s.focus = .ctx k →
    (i.onlyG?.isSome = true ∨ i.onlyP?.isSome = true) → exec i s = .next t →
    let x := s.ctx k
    let y := t.ctx k
    t = { s with ctxs := t.ctxs }
    ∧ (∀ j, j ≠ k → t.ctx j = s.ctx j)
    ∧ (∀ a, mget t.mem a = mget s.mem a)
    ∧ (∀ r : BitVec 5, i.onlyG? ≠ some r → y.rg r = x.rg r)
    ∧ (∀ r : BitVec 3, i.onlyP? ≠ some r → y.rp r = x.rp r)
    ∧ x.fxFlags &&& y.fxFlags = x.fxFlags
    ∧ (∃ g p fl pc, y = { x with g := g, p := p, fxFlags := fl, pc := pc, wait := none, issued := true })

/-- LD, LDZ, LDX and LDX.z load the bytes that the context sees (R27, R216, R217, R219, R295). -/
def Obligations.LoadsComplete : Prop :=
  ∀ (s s1 : State) (k : Nat) (c : Guard) (d a b : BitVec 5) (size : BitVec 2) (off : BitVec 9) (sh : BitVec 3) (z : Bool),
    s.issues k c →
    let n := 2 ^ size.toNat
    ∀ (i : Instr) (addr : Word) (zero : Bool),
      (i, addr, zero) ∈ [(Instr.ld c d a size off, (s.ctx k).rg a + off.signExtend 64 * BitVec.ofNat 64 n, false),
        (.ldz c d a size off, (s.ctx k).rg a + off.signExtend 64 * BitVec.ofNat 64 n, true),
        (.ldx c d a b sh z size, (s.ctx k).rg a + ((s.ctx k).rg b <<< sh.toNat), z)] →
      addr.toNat % n = 0 →
      ∀ (dpa key mtype : Nat), s.translate (coreOf k) (s.launchOf k) addr false = .ok (s1, ⟨dpa, .mem key, mtype⟩) →
      s1.poison.contains (key / 64) = false →
      let v : Word := BitVec.ofNat 64 (ofBytes ((List.range n).map fun j =>
        ((s.ctx k).logged (key + j)).getD (mget s1.mem (key + j))))
      ∃ t, exec i s = .next t
        ∧ t.ctx k = ((s.ctx k).wg d (if zero then (v.setWidth (8 * n)).setWidth 64 else (v.setWidth (8 * n)).signExtend 64)).goOn
            ((s.ctx k).pc + 4)
        ∧ t = { s1 with ctxs := t.ctxs, l1d := t.l1d, owners := t.owners, l2 := t.l2 } ∧ (∀ j, j ≠ k → t.ctx j = s.ctx j)

/-- ST and STX of an operator declared effects write their bytes to memory, and no other byte; one to a trigger
aperture fires its plan (R25, R216, R217, R219, R252). That a peer's trigger aperture stands at its offset
0x1_0000_0000 is the model's reading (log 18). -/
def Obligations.EffectsStoresPerform : Prop :=
  ∀ (s s1 : State) (k : Nat) (c : Guard) (d a b : BitVec 5) (size : BitVec 2) (off : BitVec 9) (sh : BitVec 3),
    s.issues k c → s.effects k = true → s.mem.wf = true →
    let n := 2 ^ size.toNat
    ∀ (i : Instr) (addr : Word),
      (i, addr) ∈ [(Instr.st c d a size off, (s.ctx k).rg a + off.signExtend 64 * BitVec.ofNat 64 n),
        (.stx c d a b sh size, (s.ctx k).rg a + ((s.ctx k).rg b <<< sh.toNat))] →
      addr.toNat % n = 0 →
      ∀ (dpa mtype : Nat),
      let hits := fun (x : Target) => s.translate (coreOf k) (s.launchOf k) addr true = .ok (s1, ⟨dpa, x, mtype⟩)
      let goes := fun (t u : State) => exec i s = .next t ∧ t.ctx k = (s.ctx k).goOn ((s.ctx k).pc + 4) ∧ (∀ j, j ≠ k → t.ctx j = s.ctx j)
        ∧ t = { u with ctxs := t.ctxs, l1d := t.l1d, owners := t.owners, l2 := t.l2 }
      let plan := fun (m : Nat) => (s.gangOf k).part * 8192 + m
      (∀ key, hits (.mem key) → ∃ t, goes t { s1 with mem := t.mem }
        ∧ ∀ e, mget t.mem e =
            if key ≤ e ∧ e < key + n then ((s.ctx k).rg d).extractLsb' (8 * (e - key)) 8 else mget s1.mem e)
      ∧ (∀ m pl, n = 8 → hits (.trig m) → tget? s1.plans (plan m) = some pl → ∃ t, goes t (if pl.dropped then s1 else { s1 with
          plans := tset s1.plans (plan m) { pl with fires := pl.fires + 1 }
          dev := { s1.dev with sent := .plan 1 pl.key (pl.fires + 1) pl.parts :: s1.dev.sent } }))
      ∧ (∀ pbr m, n = 8 → hits (.peer pbr m) → ∃ t, goes t { s1 with dev := { s1.dev with
          sent := .peerTrigger pbr m ((List.range 8).map fun j => ((s.ctx k).rg d).extractLsb' (8 * j) 8) :: s1.dev.sent } })

/-- ST and STX of a restartable context enter its store log and write no memory (R216, R217, R219, R220, R252). That a
store of a restartable context to a trigger aperture is logged, and fires when its log is published, is the model's
reading (log 18). -/
def Obligations.RestartableStoresAreLogged : Prop :=
  ∀ (s s1 : State) (k : Nat) (c : Guard) (d a b : BitVec 5) (size : BitVec 2) (off : BitVec 9) (sh : BitVec 3),
    s.issues k c → s.effects k = false →
    let n := 2 ^ size.toNat
    ∀ (i : Instr) (addr : Word),
      (i, addr) ∈ [(Instr.st c d a size off, (s.ctx k).rg a + off.signExtend 64 * BitVec.ofNat 64 n),
        (.stx c d a b sh size, (s.ctx k).rg a + ((s.ctx k).rg b <<< sh.toNat))] →
      addr.toNat % n = 0 →
      ∀ (dpa key mtype : Nat) (x : Target), s.translate (coreOf k) (s.launchOf k) addr true = .ok (s1, ⟨dpa, x, mtype⟩) →
      (x = .mem key
        ∨ (∃ m, x = .trig m ∧ n = 8 ∧ (tget? s1.plans ((s.gangOf k).part * 8192 + m)).isSome = true
            ∧ key = (8192 + (s.gangOf k).part) * 2 ^ 52 + 8 * m)
        ∨ (∃ pbr m, x = .peer pbr m ∧ n = 8 ∧ key = (16384 + pbr) * 2 ^ 52 + 8 * m)) →
      key % n = 0 →
      let room := (s.ctx k).slog.any (fun l => l.line == key / 64) || (s1.logRoom (coreOf k) (s1.logSince (s.ctx k).wait))
      (room = true → ∃ t, exec i s = .next t
        ∧ (∀ e, (t.ctx k).logged e =
            if key ≤ e ∧ e < key + n then some (((s.ctx k).rg d).extractLsb' (8 * (e - key)) 8) else (s.ctx k).logged e)
        ∧ t.ctx k = { (s.ctx k).goOn ((s.ctx k).pc + 4) with slog := (t.ctx k).slog }
        ∧ (∀ j, j ≠ k → t.ctx j = s.ctx j) ∧ t = { s1 with ctxs := t.ctxs, l1d := t.l1d, owners := t.owners, l2 := t.l2 })
      ∧ (room = false → exec i s = .next (s1.updCtx k fun x => x.waiting (.storeLog (key / 64)) s.clock))
      ∧ (∀ (l : LogLine) (t : State) (owner w j : Nat), l.line = owner * 2 ^ 46 + w → w < 2 ^ 46 → j < 8 →
          (∀ e < 64, (tget? l.bytes e).isSome = decide (e / 8 = j)) →
          (owner = 8192 + (s.gangOf k).part → owner < 16384 → t.publishLine l = (t.firePlan (s.gangOf k).part (8 * w + j)).getD t)
          ∧ (∀ pbr, owner = 16384 + pbr → t.publishLine l = t.sendPeer pbr (8 * w + j) ((List.range 8).map fun e => tgetD l.bytes (8 * j + e) 0)))

/-- When a load, a store or an atomic traps: misaligned, untranslated, at the trigger aperture, poisoned (R29, R98,
R108, R216, R217, R222, R252, R318). That an access which takes MISALIGN or DVA_FAULT meets no poisoned line is the
model's reading (log 82); that a read of a trigger aperture takes DVA_FAULT kind 4 is the model's reading (log 18). -/
def Obligations.AccessesTrap : Prop :=
  ∀ (s : State) (k : Nat) (c : Guard) (d a b : BitVec 5) (size : BitVec 2) (off : BitVec 9) (sh scope : BitVec 3) (z : Bool),
    s.issues k c →
    let m := (s.ctx k).rg a + off.signExtend 64 * BitVec.ofNat 64 (2 ^ size.toNat)
    let x := (s.ctx k).rg a + ((s.ctx k).rg b <<< sh.toNat)
    let g := (s.ctx k).rg a
    let loads := [(Instr.ld c d a size off, m, 2 ^ size.toNat, false), (.ldz c d a size off, m, 2 ^ size.toNat, false),
      (.ldx c d a b sh z size, x, 2 ^ size.toNat, false)]
    let stores := [(Instr.st c d a size off, m, 2 ^ size.toNat, true), (.stx c d a b sh size, x, 2 ^ size.toNat, true)]
    let atomics := [(Instr.aadd c d a b scope, g, 8, true), (.amin c d a b scope, g, 8, true),
      (.amax c d a b scope, g, 8, true), (.aand c d a b scope, g, 8, true), (.aor c d a b scope, g, 8, true),
      (.axch c d a b scope, g, 8, true), (.acas c d a b scope, g, 8, true), (.afadd c d a b scope, g, 4, true)]
    ∀ (i : Instr) (addr : Word) (n : Nat) (w : Bool),
      let xlat := s.translate (coreOf k) (s.launchOf k) addr w
      ((i, addr, n, w) ∈ loads ++ stores ++ atomics →
        (addr.toNat % n ≠ 0 → exec i s = .next (s.takeTrap k ⟨0x03, 0, addr⟩))
        ∧ (addr.toNat % n = 0 → ∀ kind, xlat = .error kind → exec i s = .next (s.takeTrap k ⟨0x04, kind, addr⟩)))
      ∧ ((i, addr, n, w) ∈ loads ++ atomics → addr.toNat % n = 0 → ∀ s1 dpa mtype,
        (∀ x, (∀ key, x ≠ .mem key) → xlat = .ok (s1, ⟨dpa, x, mtype⟩) → exec i s = .next (s1.takeTrap k ⟨0x04, 4, addr⟩))
        ∧ (∀ key, xlat = .ok (s1, ⟨dpa, .mem key, mtype⟩) → s1.poison.contains (key / 64) = true →
            exec i s = .next (s1.takeTrap k ⟨0x0B, 0, 0⟩)))
      ∧ ((i, addr, n, w) ∈ stores → addr.toNat % n = 0 → ∀ s1 dpa mtype,
        (∀ m, n ≠ 8 ∨ tget? s1.plans ((s.gangOf k).part * 8192 + m) = none → xlat = .ok (s1, ⟨dpa, .trig m, mtype⟩) →
          exec i s = .next (s1.takeTrap k ⟨0x04, 4, addr⟩))
        ∧ (∀ pbr m, n ≠ 8 → xlat = .ok (s1, ⟨dpa, .peer pbr m, mtype⟩) → exec i s = .next (s1.takeTrap k ⟨0x04, 4, addr⟩))
        ∧ (xlat = .ok (s1, ⟨dpa, .hole, mtype⟩) → exec i s = .next (s1.takeTrap k ⟨0x04, 4, addr⟩)))

/-- The eight atomics write the new value and return the old, in memory or in the context's own view (R156, R157,
R222, R223, R224). -/
def Obligations.AtomicsReadModifyWrite : Prop :=
  ∀ (s s1 : State) (k : Nat) (c : Guard) (d a b : BitVec 5) (scope : BitVec 3), s.issues k c → s.mem.wf = true →
    let addr := (s.ctx k).rg a
    let v := (s.ctx k).rg b
    let e := (s.ctx k).rg d
    ∀ (dpa key mtype : Nat), s.translate (coreOf k) (s.launchOf k) addr true = .ok (s1, ⟨dpa, .mem key, mtype⟩) →
    s1.poison.contains (key / 64) = false →
    let old := fun (n : Nat) => BitVec.ofNat 64 (ofBytes ((List.range n).map fun j =>
      ((s.ctx k).logged (key + j)).getD (mget s1.mem (key + j))))
    ∀ (i : Instr) (n : Nat) (new : Word),
      (i, n, new) ∈ [(Instr.aadd c d a b scope, 8, old 8 + v), (.amin c d a b scope, 8, if (old 8).sle v then old 8 else v),
        (.amax c d a b scope, 8, if (old 8).sle v then v else old 8), (.aand c d a b scope, 8, old 8 &&& v),
        (.aor c d a b scope, 8, old 8 ||| v), (.axch c d a b scope, 8, v),
        (.acas c d a b scope, 8, if old 8 = e then v else old 8),
        (.afadd c d a b scope, 4, BitVec.ofNat 64 (addVal (v32 ((old 4).setWidth 32)) (v32 (v.setWidth 32))).1)] →
      addr.toNat % n = 0 → key % n = 0 →
      let room := (s.ctx k).slog.any (fun l => l.line == key / 64) || (s1.logRoom (coreOf k) (s1.logSince (s.ctx k).wait))
      (s.effects k = true → ∃ t, exec i s = .next t
        ∧ (∀ j, mget t.mem j = if key ≤ j ∧ j < key + n then new.extractLsb' (8 * (j - key)) 8 else mget s1.mem j)
        ∧ t.ctx k = ((s.ctx k).wg d (old n)).goOn ((s.ctx k).pc + 4) ∧ (∀ j, j ≠ k → t.ctx j = s.ctx j)
        ∧ t = { s1 with ctxs := t.ctxs, l1d := t.l1d, owners := t.owners, l2 := t.l2, mem := t.mem })
      ∧ (s.effects k = false → room = true → ∃ t, exec i s = .next t
        ∧ (∀ j, (t.ctx k).logged j =
            if key ≤ j ∧ j < key + n then some (new.extractLsb' (8 * (j - key)) 8) else (s.ctx k).logged j)
        ∧ t.ctx k = { ((s.ctx k).wg d (old n)).goOn ((s.ctx k).pc + 4) with slog := (t.ctx k).slog }
        ∧ (∀ j, j ≠ k → t.ctx j = s.ctx j) ∧ t = { s1 with ctxs := t.ctxs, l1d := t.l1d, owners := t.owners, l2 := t.l2 })

/-- PRF, CLN and FNC complete (R218, R221). That PRF.wr translates as a read, so that it takes a page without write
access too, is the model's choice (log 78); that FNC only goes on and the form of ownership are the model's (log 5,
log 13). -/
def Obligations.PrefetchCleanAndFence : Prop :=
  ∀ (s : State) (k : Nat) (c : Guard) (a : BitVec 5) (w : Bool) (off : BitVec 9) (kind : BitVec 2) (scope : BitVec 3),
    s.issues k c →
    let addr := (s.ctx k).rg a + off.signExtend 64
    let xlat := s.translate (coreOf k) (s.launchOf k) addr false
    exec (.fnc c kind scope) s = .next (s.goesTo k ((s.ctx k).pc + 4))
    ∧ (∃ t, exec (.prf c w a off) s = .next t ∧ t.ctx k = (s.ctx k).goOn ((s.ctx k).pc + 4)
        ∧ (∀ s1 dpa key, xlat = .ok (s1, ⟨dpa, .mem key, 0⟩) →
            (tget? t.l1d (l1dKey (coreOf k) dpa)).isSome = true ∧ (w = true → tget? t.owners (key / 64) = some (coreOf k))
            ∧ t = { s1 with ctxs := t.ctxs, l1d := t.l1d, owners := t.owners, l2 := t.l2 })
        ∧ (∀ s1 dpa target mtype, xlat = .ok (s1, ⟨dpa, target, mtype⟩) → (∀ key, target = .mem key → mtype ≠ 0) →
            t = s1.goesTo k ((s.ctx k).pc + 4))
        ∧ (∀ kind, xlat = .error kind → t = s.goesTo k ((s.ctx k).pc + 4)))
    ∧ (∀ s1 dpa key mtype, xlat = .ok (s1, ⟨dpa, .mem key, mtype⟩) →
        ∃ t, exec (.cln c a off) s = .next t ∧ t.ctx k = (s.ctx k).goOn ((s.ctx k).pc + 4)
          ∧ t = { s1 with ctxs := t.ctxs, l1d := t.l1d, l2 := t.l2 }
          ∧ (if mtype = 0 ∧ (s.ctx k).slog.any (fun l => l.line == key / 64) = false
              then tget? t.l1d (l1dKey (coreOf k) dpa) ≠ some true else t.l1d = s1.l1d))
    ∧ (∀ kind, xlat = .error kind → exec (.cln c a off) s = .next (s.takeTrap k ⟨0x04, kind, addr⟩))

/-- A page-table walk sets A, and D on a write, in the leaf it finds, writes no other byte, and fills the TLB (R26,
R28, R30, R32). -/
def Obligations.PageTableWalkSetsAccessedAndDirty : Prop :=
  ∀ (s : State) (core part slot : Nat) (dva : Word) (write : Bool), s.mem.wf = true → slot < 4 →
    let l := part * 4 + slot
    (∀ kind, s.walk core l dva write = .error kind → exec (.pageTableWalk core part slot dva write) s = .next s)
    ∧ (∀ s1 f, s.walk core l dva write = .ok (s1, f) → ∃ t at_ e,
        exec (.pageTableWalk core part slot dva write) s = .next t
        ∧ e = mread s.mem at_ 8
        ∧ (∀ b, mget t.mem b = if at_ ≤ b ∧ b < at_ + 8
            then (BitVec.ofNat 64 e ||| (if write then 0x60#64 else 0x20#64)).extractLsb' (8 * (b - at_)) 8 else mget s.mem b)
        ∧ e % 4 = 3 ∧ f.dpa = e / 2 ^ 7 % 2 ^ 45 * 2 ^ 7 ∧ f.dpa % 2 ^ f.bits = 0
        ∧ (∃ h, t.tlbHit core l dva write = some h ∧ h.dpa = f.dpa ∧ h.bits = f.bits)
        ∧ t = { s with mem := t.mem, tlb := t.tlb, freeCtr := t.freeCtr, ptc := t.ptc, l2 := t.l2 })
    ∧ (dva.extractLsb' 48 16 ≠ 0 → s.walk core l dva write = .error 7)
    ∧ (dva.extractLsb' 48 16 = 0 → (s.launch l).root = none → s.walk core l dva write = .error 1)

/-- Taking a trap: what is saved, where it vectors, and how an unhandled one reduces the application (R81, R98, R108,
R310, R311). That every other context keeps its state after an unhandled trap is the model's reading (log 27), and
that the end of an effects gang waits for a fired store that cannot be performed is the model's reading (log 20). -/
def Obligations.TrapEntry : Prop :=
  ∀ (s : State) (k : Nat) (u : Trap), u.code < 256 → u.kind < 256 →
    let x := s.ctx k
    let y := { x with trapCause := BitVec.ofNat 64 (u.kind * 65536 + u.code), trapPc := x.pc, trapAddr := u.addr, wait := none, sysc := none, issued := true }
    let t := s.takeTrap k u
    let g := s.gang x.gang
    let ra := g.ra
    (u.code ≠ 0x0B → t.mem = s.mem)
    ∧ (u.code = 0x0B → (tget? s.gangs x.gang).isSome = true → (s.ra ra).st ≠ .accepted → k ∈ g.members → g.ending = none →
        (g.effects = true → s.storesPending x.gang = false) →
        tget? t.gangs x.gang = none
        ∧ (∀ m ∈ g.members, (t.ctx m).status = .free)
        ∧ (g.effects = false → (s.ra ra).eccStrikes = 0 →
            (t.ra ra).st = .marked ∧ (t.ra ra).eccStrikes = 1 ∧ (t.ra ra).cell = (s.ra ra).cell)
        ∧ (g.effects = true ∨ 1 ≤ (s.ra ra).eccStrikes → (t.ra ra).st = .accepted ∧ (t.ra ra).result = [0xB00000000000000B]))
    ∧ (u.code ≠ 0x0B → x.handler = false → x.trapVec.getLsbD 0 = true →
        t = s.setCtx k { y with handler := true, pc := ((x.trapVec.extractLsb' 2 15).setWidth 64) * 4 })
    ∧ (u.code ≠ 0x0B → (x.handler = true ∨ x.trapVec.getLsbD 0 = false) →
        t.ctx k = { y with status := .committed }
        ∧ (∀ j, j ≠ k → t.ctx j = s.ctx j)
        ∧ ((s.ra ra).st ≠ .accepted → t.ra ra = { s.ra ra with
              st := .accepted, result := [BitVec.ofNat 64 (0xB * 2 ^ 60 + u.code)], gang := x.gang, failed := true,
              failRank := x.rank, failAt := s.treeNow (s.ra ra).part, accAt := s.treeNow (s.ra ra).part })
        ∧ ((s.ra ra).st = .accepted → t.ra ra =
            if (s.ra ra).failed ∧ (s.ra ra).failAt = s.treeNow (s.ra ra).part ∧ x.rank < (s.ra ra).failRank
            then { s.ra ra with result := [BitVec.ofNat 64 (0xB * 2 ^ 60 + u.code)], failRank := x.rank } else s.ra ra))

/-- TRAP, ERET, ERET.next and an illegal encoding (R93, R97, R107, R230, R231). That bits [1:0] of trap.pc are cleared
on the way into the PC is the model's reading of R93 (log 22). -/
def Obligations.TrapAndReturn : Prop :=
  ∀ (s : State) (k : Nat) (c : Guard) (n : BitVec 8) (addr : Word), s.issues k c →
    let x := s.ctx k
    let back := fun (len : Nat) => (s.updCtx k fun x => { x with handler := false }).goesTo k
      ((x.trapPc &&& ~~~3#64) + BitVec.ofNat 64 len)
    exec (.trap c n) s = .next (s.takeTrap k ⟨0x09, n.toNat, 0⟩)
    ∧ exec (.illegalEncoding addr) s = .next (s.takeTrap k ⟨0x01, 0, addr⟩)
    ∧ (x.handler = true → exec (.eret c) s = .next (back 0)
        ∧ (∀ w, (s.oper k).word? x.trapPc = some w →
            exec (.eretNext c) s = .next (back (if w.extractLsb' 25 7 = 0x0A#7 then 8 else 4)))
        ∧ ((s.oper k).word? x.trapPc = none → exec (.eretNext c) s = .next (back 4)))
    ∧ (x.handler = false → exec (.eret c) s = .next (s.takeTrap k ⟨0x02, 0, 0⟩)
        ∧ exec (.eretNext c) s = .next (s.takeTrap k ⟨0x02, 0, 0⟩))

/-- GETS reads each s-register (R96, R97, R190, R228). -/
def Obligations.SystemRegisterReads : Prop :=
  ∀ (s : State) (k : Nat) (c : Guard) (d : BitVec 5) (n : BitVec 11), s.issues k c → n.toNat < 34 →
    let x := s.ctx k
    let g := s.gang x.gang
    let values : List Word := [BitVec.ofNat 64 (k % 8), BitVec.ofNat 64 (k / 8), BitVec.ofNat 64 (x.gang % 65536),
      BitVec.ofNat 64 g.members.length, BitVec.ofNat 64 x.rank, BitVec.ofNat 64 (s.ra g.ra).cell,
      BitVec.ofNat 64 (s.raLen g.ra), s.raOp g.ra, x.trapCause, x.trapPc, x.trapAddr, x.trapVec,
      x.fxFlags.setWidth 64, x.fxMode.setWidth 64, BitVec.ofNat 64 (s.cyc (k / 8)), BitVec.ofNat 64 (s.tick g.part)]
      ++ (List.range 16).map (fun i => (s.part g.part).caps.getD i 0)
      ++ [if x.preReq then 1 else 0, BitVec.ofNat 64 (x.log.length + x.slog.length * 65536)]
    (¬ ((n = 5 ∨ n = 6) ∧ s.raHeld g.ra = true) → exec (.gets c d n) s = .next (s.wroteG k d (values.getD n.toNat 0)))
    ∧ ((n = 5 ∨ n = 6) ∧ s.raHeld g.ra = true → exec (.gets c d n) s = .next (s.updCtx k fun x => x.waiting .held s.clock))

/-- SETS writes the RW s-registers, and traps for the others and for nonzero bits that are no field (R96, R97, R98,
R228). -/
def Obligations.SystemRegisterWrites : Prop :=
  ∀ (s : State) (k : Nat) (c : Guard) (a : BitVec 5) (n : BitVec 11), s.issues k c → n.toNat < 34 →
    let v := (s.ctx k).rg a
    let next := fun (f : Ctx → Ctx) => (s.updCtx k f).goesTo k ((s.ctx k).pc + 4)
    let illegal := Host.Outcome.next (s.takeTrap k ⟨0x01, 0, 0⟩)
    (n = 8 → exec (.sets c a n) s = if v &&& ~~~0xFF00FF#64 = 0 then .next (next fun x => { x with trapCause := v }) else illegal)
    ∧ (n = 9 → exec (.sets c a n) s = .next (next fun x => { x with trapPc := v }))
    ∧ (n = 10 → exec (.sets c a n) s = .next (next fun x => { x with trapAddr := v }))
    ∧ (n = 11 → exec (.sets c a n) s = if v &&& ~~~0x1FFFD#64 = 0 then .next (next fun x => { x with trapVec := v }) else illegal)
    ∧ (n = 12 → exec (.sets c a n) s = if v >>> 5 = 0 then .next (next fun x => { x with fxFlags := v.setWidth 5 }) else illegal)
    ∧ (n = 13 → exec (.sets c a n) s = if v >>> 2 = 0 then .next (next fun x => { x with fxMode := v.setWidth 2 }) else illegal)
    ∧ (¬ (8 ≤ n.toNat ∧ n.toNat ≤ 13) →
        let fields : Word := ([0x7, 0x3F, 0xFFFF, 0x1F, 0xF, 0x3FFF, 0x7FFF] : List Word).getD n.toNat
          (if n = 32 then 1 else if n = 33 then 0x1FFF07FF else -1)
        exec (.sets c a n) s = if v &&& ~~~fields = 0 then .next (s.takeTrap k ⟨0x02, 0, 0⟩) else illegal)

/-- SYSC and the three ways in which the monitor ends a call (R229). -/
def Obligations.MonitorCalls : Prop :=
  ∀ (s : State) (k : Nat) (c : Guard) (n : BitVec 11) (rs : List (Nat × Word)), s.issues k c →
    exec (.sysc c 0) s = .next (s.wroteG k 1 0)
    ∧ (n ≠ 0 → exec (.sysc c n) s = .next (s.updCtx k fun x => ({ x with sysc := some n } : Ctx).waiting .other s.clock))
    ∧ (∀ core ctx, ctx < 8 →
        let j := core * 8 + ctx
        let x := s.ctx j
        (x.status = .running → x.sysc = some n →
          ((∀ e ∈ rs, 1 ≤ e.1 ∧ e.1 ≤ 7) → exec (.monitorEndCall core ctx (.complete rs)) s =
            .next (s.updCtx j fun x => { (rs.foldl (fun x e => x.wg (BitVec.ofNat 5 e.1) e.2) x).goOn (x.pc + 4) with sysc := none }))
          ∧ exec (.monitorEndCall core ctx .refuse) s = .next (s.takeTrap j ⟨0x02, 0, 0⟩)
          ∧ exec (.monitorEndCall core ctx .returnToOperator) s = .next (s.takeTrap j ⟨0x0A, 0, n.setWidth 64⟩))
        ∧ (∀ ans, x.sysc = none → exec (.monitorEndCall core ctx ans) s = .next s))

/-- WFE, its end by time, YIELD and its end (R232, R233). That the wait ends exactly 2700·n nominal core cycles after
it began, and not at a tick of the counter, is the model's choice (log 60). -/
def Obligations.WaitForEventAndYield : Prop :=
  ∀ (s : State) (k : Nat) (c : Guard) (d : BitVec 5) (n : BitVec 11), s.issues k c →
    let x := s.ctx k
    let late := match x.wait with | some w => n ≠ 0 ∧ w.since + 2700 * n.toNat ≤ s.clock | none => False
    (x.event = true → exec (.wfe c d n) s = .next ((s.updCtx k fun x => { x.wg d 1 with event := false }).goesTo k (x.pc + 4)))
    ∧ (x.event = false → late → exec (.wfe c d n) s = .next (s.wroteG k d 0))
    ∧ (x.event = false → ¬ late → exec (.wfe c d n) s = .next (s.updCtx k fun x => x.waiting .other s.clock))
    ∧ (x.event = false → late → x.status = .running → ∀ w core ctx, k = core * 8 + ctx → (s.oper k).word? x.pc = some w →
        w.extractLsb' 25 7 = 0x35#7 → w.extractLsb' 16 5 = d → w.extractLsb' 0 11 = n →
        exec (.wfeTimeout core ctx) s = .next (s.wroteG k d 0))
    ∧ (n ≠ 0 → exec (.yield c n) s = .next
        ((s.updCtx k fun x => { x with yieldUntil := s.cyc (k / 8) + n.toNat + 1 }).goesTo k (x.pc + 4)))
    ∧ exec (.yield c 0) s = .next ((s.updCtx k fun x => { x with yieldTurn := true }).goesTo k (x.pc + 4))
    ∧ (∀ core ctx, k = core * 8 + ctx → 0 < x.yieldUntil → x.yieldUntil ≤ s.cyc (k / 8) →
        exec (.yieldExpiry core ctx) s = .next (s.updCtx k fun x => { x with yieldUntil := 0 }))

/-- BARI, BARA, BARW and BARQ (R98, R225, R226, R232). -/
def Obligations.NamedBarriers : Prop :=
  ∀ (s : State) (k : Nat) (c : Guard) (d bar b : BitVec 5), s.issues k c →
    let x := s.ctx k
    let key := k / 8 * 32 + bar.toNat
    let r := s.bar key
    let n := (x.rg b).toNat
    ((n = 0 ∨ 63 < n) → exec (.bari c bar b) s = .next (s.takeTrap k ⟨0x01, 0, 0⟩))
    ∧ (1 ≤ n → n ≤ 63 → (r.gang = none ∨ r.gang = some x.gang) → exec (.bari c bar b) s = .next
        (({ s with bars := tset s.bars key ⟨some x.gang, BitVec.ofNat 6 n, 0, r.phase⟩ } : State).goesTo k (x.pc + 4)))
    ∧ (1 ≤ n → n ≤ 63 → r.gang ≠ none → r.gang ≠ some x.gang →
        exec (.bari c bar b) s = .next (s.updCtx k fun x => x.waiting .other s.clock))
    ∧ (r.gang = some x.gang →
        (∃ t, exec (.bara c d bar) s = .next t
          ∧ t.bars = tset s.bars key (if r.arrivals + 1 = r.expected then ⟨some x.gang, r.expected, 0, !r.phase⟩
              else ⟨some x.gang, r.expected, r.arrivals + 1, r.phase⟩)
          ∧ t.ctx k = { (x.wg d (if r.phase then 1 else 0)).goOn (x.pc + 4) with event := (t.ctx k).event }
          ∧ t = { s with bars := t.bars, ctxs := t.ctxs })
        ∧ (r.phase ≠ (x.rg b).getLsbD 0 → exec (.barw c bar b) s = .next (s.goesTo k (x.pc + 4)))
        ∧ (r.phase = (x.rg b).getLsbD 0 → exec (.barw c bar b) s = .next (s.updCtx k fun x => x.waiting .other s.clock))
        ∧ exec (.barq c d bar) s = .next (s.wroteG k d
            ((BitVec.ofBool r.phase ++ 0#1 ++ r.expected ++ r.arrivals).setWidth 64)))
    ∧ (r.gang ≠ some x.gang → ∀ i ∈ [Instr.bara c d bar, .barw c bar b, .barq c d bar],
        exec i s = .next (s.takeTrap k ⟨0x01, 8, 0⟩))

/-- TALLOC allocates an open EMPTY tile and binds a handle; its checks (R70, R71, R72, R94, R237). trap.addr 0 of
TALLOC's TILE_FAULTs is the model's reading (log 23); that TALLOC.pin counts at once and waits while frames lack is
the model's reading (log 25). -/
def Obligations.TileAllocation : Prop :=
  ∀ (s : State) (k : Nat) (c : Guard) (d : BitVec 4) (a b : BitVec 5) (fmt : BitVec 4) (pin : Bool), s.issues k c → fmt.toNat < 11 →
    let x := s.ctx k
    let rows := (x.rg a).toNat
    let cols := (x.rg b).toNat
    let n := if fmt = 10 then 5 else (rows * ((cols * fmtSize fmt.toNat + 31) / 32 * 32) + 2047) / 2048
    let l := s.launchOf k
    let page := (s.launch l).nextPage
    let shape := 1 ≤ rows ∧ rows ≤ 128 ∧ 1 ≤ cols ∧ cols ≤ 128 ∧ (fmt = 10 → rows = 128 ∧ cols = 128)
    let i := Instr.talloc c d a b fmt pin
    let fits := pin = true → s.pinnedFrames (k / 8) + n ≤ 2048
    let room := pin = true → s.usedFrames (k / 8) + (s.core (k / 8)).framesHeld + n ≤ 4096
    (¬ shape → exec i s = .next (s.takeTrap k ⟨0x05, 3, 0⟩))
    ∧ (shape → ¬ fits → exec i s = .next (s.takeTrap k ⟨0x05, 6, 0⟩))
    ∧ (shape → fits → ¬ room → exec i s = .next (s.updCtx k fun x => x.waiting (.page 0) s.clock))
    ∧ (shape → fits → room → page + n ≤ 2 ^ 37 →
        ((s.newPages (pageKey l page) x.gang k x.rank n 0 n) = none → exec i s = .next (s.takeTrap k ⟨0x05, 5, 0⟩))
        ∧ ((s.newPages (pageKey l page) x.gang k x.rank n 0 n).isSome = true → ∃ t, exec i s = .next t
          ∧ t.ctx k = (x.wh d ⟨true, BitVec.ofNat 64 (9 * 2 ^ 60 + fmt.toNat * 2 ^ 55 + (rows - 1) * 2 ^ 48 + (cols - 1) * 2 ^ 41
              + 2 ^ 40 + (if pin then 2 ^ 39 else 0) + page), false, 0, 0, BitVec.ofNat 7 (cols - 1)⟩).goOn (x.pc + 4)
          ∧ t.tile? (pageKey l page) = some ⟨fmt.toNat, rows, cols, .empty, 0, 0⟩
          ∧ (t.launch l).nextPage = page + n
          ∧ (∀ j < n, let e := t.dirE (pageKey l page + j)
              e.sealed = false ∧ e.owner = x.gang ∧ e.wcore = k / 8 ∧ e.wctx = k % 8 ∧ e.wrank = x.rank ∧ e.data = [])))

/-- Reading an unbound handle takes TILE_STATE, a handle of a freed tile TILE_FAULT kind 1 (R82, R94, R98, R108, R236,
R238, R241). The trap.addr of these TILE_FAULTs is the model's reading (log 23). -/
def Obligations.TileHandleTraps : Prop :=
  ∀ (s : State) (k : Nat) (c : Guard) (d : BitVec 4) (g a b : BitVec 5) (mode : BitVec 3) (z : Bool) (size : BitVec 2) (h : BitVec 4),
    s.issues k c →
    ∀ i ∈ [Instr.tview c d h b, .tld c g h b mode z size, .tst c h a b mode size, .tshape c g h, .tstate c g h, .twait c h,
        .tseal c h, .ttouch c h, .tadvKeep c h, .tadvSpill c h, .tpin c h, .tpinUn c h, .tdrop c h, .xemitt c h],
      let u := (s.ctx k).rh h
      let key := pageKey (s.launchOf k) (u.atom.extractLsb' 0 37).toNat
      (u.bound = false → exec i s = .next (s.takeTrap k ⟨0x06, 0, 0⟩))
      ∧ (u.bound = true → s.tile? key = none → (i = .xemitt c h → u.view = false) →
          (i = .tst c h a b mode size ∨ i = .tseal c h → u.atom.getLsbD 40 = true) →
          exec i s = .next (s.takeTrap k ⟨0x05, 1, BitVec.ofNat 64 (key % 2 ^ 37 * 2048)⟩))
      ∧ (u.bound = true → s.tile? key = none → (i = .xemitt c h ∧ u.view = true
          ∨ (i = .tst c h a b mode size ∨ i = .tseal c h) ∧ u.atom.getLsbD 40 = false) → exec i s = .next (s.takeTrap k ⟨0x06, 0, 0⟩))

/-- TVIEW, TSHAPE, TSTATE, TWAIT and TSEAL (R86, R94, R238, R240, R241). The trap.addr of TSEAL's kind 2 fault, the
tile's first byte, is the model's reading (log 23). -/
def Obligations.TileViewsShapesAndStates : Prop :=
  ∀ (s : State) (k : Nat) (c : Guard) (d h : BitVec 4) (g b : BitVec 5) (tl : Tile), s.issues k c →
    let x := s.ctx k
    let u := x.rh h
    let key := pageKey (s.launchOf k) (u.atom.extractLsb' 0 37).toNat
    let e := s.dirE key
    u.bound = true → s.tile? key = some tl →
    (let v := x.rg b
      let rows := (v.extractLsb' 16 7).toNat + 1
      let cols := (v.extractLsb' 24 7).toNat + 1
      v &&& ~~~0x7F7F7F7F#64 = 0 → (v.extractLsb' 8 7).toNat + rows ≤ (u.atom.extractLsb' 48 7).toNat + 1 →
      (v.extractLsb' 0 7).toNat + cols ≤ (u.atom.extractLsb' 41 7).toNat + 1 → tl.fmt ≠ 10 →
      exec (.tview c d h b) s = if tl.st = .ready then
          .next ((s.updCtx k fun x => x.wh d ⟨true,
            (u.atom &&& ~~~(0xF07FFE6000000000#64)) ||| 0x9000000000000000#64 ||| (BitVec.ofNat 64 (rows - 1) <<< 48) ||| (BitVec.ofNat 64 (cols - 1) <<< 41),
            true, u.vrow + v.extractLsb' 8 7, u.vcol + v.extractLsb' 0 7, u.pcols⟩).goesTo k (x.pc + 4))
        else .next (s.updCtx k fun x => x.waiting .other s.clock))
    ∧ exec (.tshape c g h) s = .next (s.wroteG k g u.atom)
    ∧ exec (.tstate c g h) s = .next (s.wroteG k g ((BitVec.ofBool (!e.sealed && e.owner == x.gang) ++ BitVec.ofBool (u.atom.getLsbD 39)
        ++ BitVec.ofBool (u.atom.getLsbD 40) ++ BitVec.ofBool u.view
        ++ (match tl.st with | .empty => 0#2 | .filling => 1#2 | .ready => 2#2 | .draining => 3#2)).setWidth 64))
    ∧ exec (.twait c h) s = (if tl.st = .ready then .next (s.goesTo k (x.pc + 4))
        else .next (s.updCtx k fun x => x.waiting .other s.clock))
    ∧ (let legal := e.sealed = false ∧ u.atom.getLsbD 40 = true ∧ (tl.st = .empty ∨ tl.st = .ready)
      (¬ legal → exec (.tseal c h) s = .next (s.takeTrap k ⟨0x06, 0, 0⟩))
      ∧ (legal → e.owner ≠ x.gang → exec (.tseal c h) s = .next (s.takeTrap k ⟨0x05, 2, BitVec.ofNat 64 (key % 2 ^ 37 * 2048)⟩))
      ∧ (legal → e.owner = x.gang → ∃ t, exec (.tseal c h) s = .next t ∧ t.tile? key = some { tl with st := .ready }
          ∧ t.dir = s.dir ∧ t.ctx k = { x.goOn (x.pc + 4) with event := (t.ctx k).event }))

/-- TLD reads the element of a READY tile, TST writes it into an EMPTY tile of the gang, and no other byte (R71, R77,
R86, R239, R295). The trap.addr of the kind 3 fault, the tile's first byte and not the element's, is the model's
reading (log 23). -/
def Obligations.TileLoadsAndStores : Prop :=
  ∀ (s : State) (k : Nat) (c : Guard) (d a b : BitVec 5) (h : BitVec 4) (z : Bool) (size : BitVec 2) (tl : Tile), s.issues k c →
    let x := s.ctx k
    let u := x.rh h
    let key := pageKey (s.launchOf k) (u.atom.extractLsb' 0 37).toNat
    let w := (u.atom.extractLsb' 55 5).toNat
    let n := 2 ^ size.toNat
    u.bound = true → s.tile? key = some tl → tl.fmt ≠ 10 → w = tl.fmt →
    let ok := fun (v : Word) => v &&& ~~~0x7F007F#64 = 0 ∧ (v.extractLsb' 16 7).toNat ≤ (u.atom.extractLsb' 48 7).toNat
      ∧ (v.extractLsb' 0 7).toNat ≤ (u.atom.extractLsb' 41 7).toNat ∧ n = fmtSize w
    let at_ := fun (v : Word) => (u.vrow.toNat + (v.extractLsb' 16 7).toNat) * (((u.pcols.toNat + 1) * n + 31) / 32 * 32)
      + (u.vcol.toNat + (v.extractLsb' 0 7).toNat) * n
    let fault3 := Host.Outcome.next (s.takeTrap k ⟨0x05, 3, BitVec.ofNat 64 (key % 2 ^ 37 * 2048)⟩)
    (¬ ok (x.rg b) → exec (.tld c d h b 0 z size) s = fault3)
    ∧ (¬ ok (x.rg a) → exec (.tst c h a b 0 size) s = fault3)
    ∧ (ok (x.rg b) → tl.st ≠ .ready → exec (.tld c d h b 0 z size) s = .next (s.updCtx k fun x => x.waiting .other s.clock))
    ∧ (ok (x.rg b) → tl.st = .ready → ∀ s1, s.pageAccess (k / 8) (key + at_ (x.rg b) / 2048) x.gang false = .ok s1 →
        let v : Word := BitVec.ofNat 64 (ofBytes (mgetN (s.dirE (key + at_ (x.rg b) / 2048)).data (at_ (x.rg b) % 2048) n))
        exec (.tld c d h b 0 z size) s = .next ((s1.updCtx k fun x => x.wg d (if z then (v.setWidth (8 * n)).setWidth 64
          else (v.setWidth (8 * n)).signExtend 64)).goesTo k (x.pc + 4)) ∧ s1.dir = s.dir)
    ∧ (ok (x.rg a) → ((s.dirE key).sealed = true ∨ u.atom.getLsbD 40 = false ∨ tl.st ≠ .empty) →
        exec (.tst c h a b 0 size) s = .next (s.takeTrap k ⟨0x06, 0, 0⟩))
    ∧ (ok (x.rg a) → (s.dirE key).sealed = false → u.atom.getLsbD 40 = true → tl.st = .empty → (s.dirE key).owner = x.gang →
        (∀ p, (s.dirE p).data.wf = true) →
        ∀ s1, s.pageAccess (k / 8) (key + at_ (x.rg a) / 2048) x.gang true = .ok s1 →
        ∃ t, exec (.tst c h a b 0 size) s = .next t ∧ t.ctx k = x.goOn (x.pc + 4)
          ∧ (∀ p e, e < 2048 → mget (t.dirE p).data e =
              if p = key + at_ (x.rg a) / 2048 ∧ at_ (x.rg a) % 2048 ≤ e ∧ e < at_ (x.rg a) % 2048 + n
              then (x.rg b).extractLsb' (8 * (e - at_ (x.rg a) % 2048)) 8 else mget (s.dirE p).data e)
          ∧ t.mem = s.mem)

/-- TLD and TST of an nq4 tile: the decoded value, the code, the block-scale code, the superblock scale (R72, R164,
R239). -/
def Obligations.Nq4TileElements : Prop :=
  ∀ (s : State) (k : Nat) (c : Guard) (d a b : BitVec 5) (h : BitVec 4) (z : Bool) (tl : Tile), s.issues k c →
    let x := s.ctx k
    let u := x.rh h
    let key := pageKey (s.launchOf k) (u.atom.extractLsb' 0 37).toNat
    u.bound = true → s.tile? key = some tl → tl.fmt = 10 → u.atom.extractLsb' 41 14 = 0x3FFF#14 →
    (∀ p < 5, ∃ e, tget? s.stt (sttKey (k / 8) (key + p)) = some e ∧
      (e.sealed = true ∨ ((s.dirE (key + p)).owner = x.gang ∧ s.writerCore (s.dirE (key + p)) = e.core))) →
    let row := fun (v : Word) => (v.extractLsb' 16 7).toNat
    let col := fun (v : Word) => (v.extractLsb' 0 7).toNat
    let byte := fun (o : Nat) => (mget (s.dirE (key + o / 2048)).data (o % 2048)).toNat
    let nibble := fun (v : Word) => row v * 64 + col v / 2
    let block := fun (v : Word) => 8192 + 2 * row v + col v / 64
    let code := fun (v : Word) => if col v % 2 = 0 then byte (nibble v) % 16 else byte (nibble v) / 16
    let scale : W32 := BitVec.ofNat 32 (ofBytes (mgetN (s.dirE (key + 4)).data 256 4))
    let i := x.rg b
    let j := x.rg a
    (tl.st = .ready → i &&& ~~~0x7F007F#64 = 0 →
      let value := nq4Value (code i) (byte (block i)) scale
      (∃ t, exec (.tld c d h b 1 z 2) s = .next t ∧ t.dir = s.dir ∧
        t.ctx k = ({ x.wg d (BitVec.ofNat 64 value.1) with fxFlags := x.fxFlags ||| value.2.bits }).goOn (x.pc + 4))
      ∧ (∃ t, exec (.tld c d h b 2 z 0) s = .next t ∧ t.ctx k = (x.wg d (BitVec.ofNat 64 (code i))).goOn (x.pc + 4))
      ∧ (∃ t, exec (.tld c d h b 3 z 0) s = .next t ∧ t.ctx k = (x.wg d (BitVec.ofNat 64 (byte (block i)))).goOn (x.pc + 4))
      ∧ (i = 0 → ∃ t, exec (.tld c d h b 4 z 2) s = .next t ∧ t.ctx k = (x.wg d (scale.setWidth 64)).goOn (x.pc + 4)))
    ∧ (tl.st = .empty → (s.dirE key).sealed = false → u.atom.getLsbD 40 = true → (s.dirE key).owner = x.gang →
      (∀ p < 5, ∃ e, tget? s.stt (sttKey (k / 8) (key + p)) = some e ∧ e.sealed = false
        ∧ s.writerCore (s.dirE (key + p)) = e.core) → (∀ p, (s.dirE p).data.wf = true) →
      j &&& ~~~0x7F007F#64 = 0 →
      let put := fun (t : State) (off n : Nat) (v : Word) => t.ctx k = x.goOn (x.pc + 4) ∧ t.mem = s.mem ∧
        (∀ p e, e < 2048 → mget (t.dirE p).data e =
          if p = key + off / 2048 ∧ off % 2048 ≤ e ∧ e < off % 2048 + n then v.extractLsb' (8 * (e - off % 2048)) 8
          else mget (s.dirE p).data e)
      (∃ t, exec (.tst c h a b 2 0) s = .next t ∧ put t (nibble j) 1 (if col j % 2 = 0
          then BitVec.ofNat 64 (byte (nibble j) / 16 * 16) ||| (x.rg b &&& 0xF) else BitVec.ofNat 64 (byte (nibble j) % 16) ||| ((x.rg b &&& 0xF) <<< 4)))
      ∧ (∃ t, exec (.tst c h a b 3 0) s = .next t ∧ put t (block j) 1 (x.rg b))
      ∧ (j = 0 → ∃ t, exec (.tst c h a b 4 2) s = .next t ∧ put t 8448 4 (x.rg b)))

/-- TTOUCH, TADV.keep, TADV.spill, TPIN, TPIN.un and TDROP (R83, R85, R86, R242). The trap.addr of TPIN's kind 6 fault
is the model's reading (log 23); that it counts only the frames of the pages that this core can home is the model's
reading (log 25). -/
def Obligations.TilePlacementAdvice : Prop :=
  ∀ (s : State) (k : Nat) (c : Guard) (h : BitVec 4) (tl : Tile), s.issues k c →
    let x := s.ctx k
    let u := x.rh h
    let key := pageKey (s.launchOf k) (u.atom.extractLsb' 0 37).toNat
    let keys := (List.range (tilePages tl.fmt tl.rows tl.cols)).map (key + ·)
    u.bound = true → s.tile? key = some tl →
    (∀ i ∈ [Instr.ttouch c h, .tadvKeep c h], ∃ t, exec i s = .next t ∧ t.ctx k = x.goOn (x.pc + 4)
        ∧ (∀ p, (t.dirE p).data = (s.dirE p).data) ∧ t.tiles = s.tiles)
    ∧ (tl.st ≠ .ready → exec (.tadvSpill c h) s = .next (s.goesTo k (x.pc + 4)))
    ∧ (tl.st = .ready → ∃ t, exec (.tadvSpill c h) s = .next t ∧ (∀ p, (t.dirE p).data = (s.dirE p).data)
        ∧ t.ctx k = { x.goOn (x.pc + 4) with event := (t.ctx k).event }
        ∧ ((s.dirE key).sealed = false → t.tile? key = some { tl with st := .draining })
        ∧ ((s.dirE key).sealed = true → t.tile? key = some tl))
    ∧ (let fresh := keys.filter fun p => !(s.frames.any fun f =>
          f.1 / 4096 == k / 8 && (match f.2 with | .page q (_ :: _) => q == p | _ => false))
        && ((s.dirE p).sealed || s.writerCore (s.dirE p) == k / 8)
      (2048 < s.pinnedFrames (k / 8) + fresh.length →
        exec (.tpin c h) s = .next (s.takeTrap k ⟨0x05, 6, BitVec.ofNat 64 (key % 2 ^ 37 * 2048)⟩))
      ∧ (s.pinnedFrames (k / 8) + fresh.length ≤ 2048 → ∀ s1, s.pagesAccess (k / 8) keys x.gang false = .ok s1 →
        ∃ t, exec (.tpin c h) s = .next t
          ∧ (∀ f p pins, (f, Frame.page p pins) ∈ t.frames → f / 4096 = k / 8 → p ∈ keys → k ∈ pins)
          ∧ (t.ctx k).pc = x.pc + 4 ∧ (t.ctx k).g = x.g))
    ∧ (∃ t, exec (.tpinUn c h) s = .next t
        ∧ (∀ f p pins, (f, Frame.page p pins) ∈ t.frames → p ∈ keys → k ∉ pins)
        ∧ (t.ctx k).pc = x.pc + 4 ∧ (t.ctx k).g = x.g
        ∧ (∀ j, ((t.ctx k).rh j).bound = true → (((t.ctx k).rh j).atom.extractLsb' 0 37) = u.atom.extractLsb' 0 37 →
            ((t.ctx k).rh j).atom.getLsbD 39 = false))
    ∧ (∃ t, exec (.tdrop c h) s = .next t ∧ t.ctx k = (x.wh h {}).goOn (x.pc + 4)
        ∧ ((∀ j, j ≠ h → (x.rh j).bound = true → (x.rh j).atom.extractLsb' 0 37 ≠ u.atom.extractLsb' 0 37) →
            ∀ f p pins, (f, Frame.page p pins) ∈ t.frames → p ∈ keys → k ∉ pins))

/-- XSPAN, XLEN, XKIND, XARG, XARG.h and XCOPY read the operand, and wait while a knead holds the application (R72,
R174, R176, R190, R244). The trap.addr of XARG.h's kind 3 fault, the tile's first byte, is the model's reading (log
23). -/
def Obligations.OperandReads : Prop :=
  ∀ (s : State) (k : Nat) (c : Guard) (d a b : BitVec 5) (h : BitVec 4), s.issues k c →
    let x := s.ctx k
    let ra := (s.gang x.gang).ra
    let ops := s.operandSyms ra
    let i := (x.rg a).toNat
    let n := (x.rg b).toNat
    let w := ops.getD i 0
    (s.raHeld ra = true → ∀ j ∈ [Instr.xspan c d a, .xlen c d a, .xkind c d a, .xarg c d a, .xargH c h a, .xcopy c a b],
        exec j s = .next (s.updCtx k fun x => x.waiting .held s.clock) ∧ (x.waiting .held s.clock).issued = x.issued)
    ∧ (s.raHeld ra = false →
        exec (.xarg c d a) s = .next (s.wroteG k d w)
        ∧ exec (.xkind c d a) s = .next (s.wroteG k d (w >>> 60))
        ∧ exec (.xspan c d a) s = .next (s.wroteG k d
            (if ops.length ≤ i ∨ w >>> 60 = 2 then 0 else if w >>> 60 = 1 then BitVec.ofNat 64 (elemLen (ops.drop i) 0) else 1))
        ∧ exec (.xlen c d a) s = .next (s.wroteG k d
            (if ops.length ≤ i ∨ w >>> 60 = 2 then -2 else if w >>> 60 = 1 then BitVec.ofNat 64 (topCount (ops.drop i) 0) else -1))
        ∧ (w >>> 60 ≠ 9 → exec (.xargH c h a) s = .next (s.takeTrap k ⟨0x08, 0, 0⟩))
        ∧ (w >>> 60 = 9 → w.extractLsb' 55 5 = 10 → w.extractLsb' 41 14 ≠ 0x3FFF#14 → exec (.xargH c h a) s = .next
            (s.takeTrap k ⟨0x05, 3, BitVec.ofNat 64 (pageKey (s.launchOf k) (w.extractLsb' 0 37).toNat % 2 ^ 37 * 2048)⟩))
        ∧ (w >>> 60 = 9 → ¬ (w.extractLsb' 55 5 = 10 ∧ w.extractLsb' 41 14 ≠ 0x3FFF#14) → exec (.xargH c h a) s = .next
            ((s.updCtx k fun x => x.wh h ⟨true, w, false, 0, 0, w.extractLsb' 41 7⟩).goesTo k (x.pc + 4)))
        ∧ (n ≠ 0 → ops.length < i + n → exec (.xcopy c a b) s = .next (s.takeTrap k ⟨0x01, 9, 0⟩))
        ∧ ((n = 0 ∨ i + n ≤ ops.length) → 1024 < x.log.length + n → exec (.xcopy c a b) s = .next (s.takeTrap k ⟨0x07, 0, 0⟩))
        ∧ ((n = 0 ∨ i + n ≤ ops.length) → x.log.length + n ≤ 1024 → exec (.xcopy c a b) s = .next
            ((s.updCtx k fun x => { x with log := x.log ++ ((ops.drop i).take n).map fun w => ⟨w, true⟩ }).goesTo k (x.pc + 4))))

/-- XEMIT, XEMITT, XOPEN, XCLOSE, XCLOSE.app and XAPPLY append their symbols to the result log (R86, R174, R184,
R245). -/
def Obligations.ResultLogAppends : Prop :=
  ∀ (s : State) (k : Nat) (c : Guard) (a b : BitVec 5) (h : BitVec 4) (tl : Tile), s.issues k c →
    let x := s.ctx k
    let full := Host.Outcome.next (s.takeTrap k ⟨0x07, 0, 0⟩)
    let appended := fun (l : List LogSym) => Host.Outcome.next
      ((s.updCtx k fun x => { x with log := x.log ++ l }).goesTo k (x.pc + 4))
    let u := x.rh h
    let key := pageKey (s.launchOf k) (u.atom.extractLsb' 0 37).toNat
    exec (.xemit c a) s = (if 1024 ≤ x.log.length then full
        else if 1 ≤ (x.rg a >>> 60).toNat ∧ (x.rg a >>> 60).toNat ≤ 0xB then appended [⟨x.rg a, false⟩]
        else .next (s.takeTrap k ⟨0x08, 0, 0⟩))
    ∧ (u.bound = true → s.tile? key = some tl → exec (.xemitt c h) s =
        (if u.view then .next (s.takeTrap k ⟨0x06, 0, 0⟩) else if 1024 ≤ x.log.length then full
        else if tl.st = .ready then appended [⟨u.atom, true⟩] else .next (s.updCtx k fun x => x.waiting .other s.clock)))
    ∧ (∀ p ∈ [(Instr.xopen c, 0x1000000000000000#64), (.xclose c, 0x2000000000000000#64), (.xcloseApp c, 0x5000000000000000#64)],
        exec p.1 s = if 1024 ≤ x.log.length then full else appended [⟨p.2, false⟩])
    ∧ exec (.xapply c a b) s = (if 1021 < x.log.length then full else appended [⟨0x3000000000000000#64, false⟩,
        ⟨0x6#4 ++ 0#12 ++ (x.rg a).setWidth 16 ++ (x.rg b).setWidth 32, false⟩, ⟨0x4000000000000000#64, false⟩])

/-- COMMIT, ABORT and XFAIL (R81, R174, R184, R246, R247). That ABORT leaves the run of abandonments as it was is the
model's reading (log 19); what a fired store that cannot be performed does to COMMIT and ABORT is the model's reading
(log 20). -/
def Obligations.CommitAbortAndXfail : Prop :=
  ∀ (s : State) (k : Nat) (c : Guard) (a : BitVec 5), s.issues k c →
    let x := s.ctx k
    let g := s.gang x.gang
    let commit := fun (t : State) => exec (.commit c) s = .next t
    ((∀ r < g.members.length, g.ncoll.getD r 0 ≤ g.ncoll.getD x.rank 0 ∨ g.colls.getD r none = none) →
      let rest := (List.range g.commits.length).all fun r => r == x.rank || g.commits.getD r false
      let symbols := g.members.flatMap fun m => (s.ctx m).log
      (x.rank < g.commits.length → rest = false → ∃ t, commit t ∧ (t.ctx k).status = .committed ∧ t.ras = s.ras ∧ t.mem = s.mem)
      ∧ (∀ code, rest = true → resultOk symbols = true → (s.settleAll false (s.gangImages x.gang)).2 = some code →
          commit (s.abandonErr x.gang code))
      ∧ (rest = true → resultOk symbols = true → (s.settleAll false (s.gangImages x.gang)).2 = none →
          s.accessStuck false (s.gangImages x.gang) = true → commit (s.updCtx k fun x => x.waiting .other s.clock))
      ∧ (rest = true → resultOk symbols = true → (s.settleAll false (s.gangImages x.gang)).2 = none →
          s.accessStuck false (s.gangImages x.gang) = false → ∃ t, commit t ∧ (t.ctx k).status = .committed
          ∧ (t.ra g.ra).st = .accepted ∧ (t.ra g.ra).result = symbols.map (·.word) ∧ (t.ra g.ra).failed = false
          ∧ (t.ra g.ra).cell = (s.ra g.ra).cell)
      ∧ (rest = true → resultOk symbols = false → g.members.head? = some k → x.rank = 0 → x.handler = false →
          x.trapVec.getLsbD 0 = true → ∃ t, commit t ∧ (t.ctx k).status = .running
          ∧ (t.ctx k).trapCause = 0x08 ∧ (t.ctx k).trapPc = x.pc ∧ (t.ctx k).handler = true ∧ t.ras = s.ras))
    ∧ ((tget? s.gangs x.gang).isSome = true → (s.ra g.ra).st ≠ .accepted → g.ending = none → s.endWaits x.gang = true →
        ∃ t, exec (.abort c) s = .next t ∧ (t.gang x.gang).ending = some .requeue
          ∧ ∀ m ∈ g.members, (s.ctx m).status = .running → (t.ctx m).status = .halted)
    ∧ ((tget? s.gangs x.gang).isSome = true → (s.ra g.ra).st ≠ .accepted → g.ending = none → s.endWaits x.gang = false →
        ∃ t, exec (.abort c) s = .next t
        ∧ tget? t.gangs x.gang = none ∧ (∀ m ∈ g.members, (t.ctx m).status = .free)
        ∧ (t.ra g.ra).st = .marked ∧ (t.ra g.ra).agePass = (s.ra g.ra).agePass ∧ (t.ra g.ra).strikes = (s.ra g.ra).strikes)
    ∧ ((s.ra g.ra).st ≠ .accepted → ∃ t, exec (.xfail c a) s = .next t ∧ (t.ctx k).status = .committed
        ∧ (t.ra g.ra).st = .accepted ∧ (t.ra g.ra).failed = true
        ∧ (t.ra g.ra).result = [0xB#4 ++ 0#44 ++ (x.rg a).setWidth 16] ∧ t.mem = s.mem)

/-- TRBC, TRBC.h, TRRED, TRGATH and TRBAR complete in every member when the last one issues (R51, R247, R248). -/
def Obligations.CollectivesComplete : Prop :=
  ∀ (s : State) (k : Nat) (c : Guard) (d a b : BitVec 5) (hd ha : BitVec 4) (fmt op : BitVec 3), s.issues k c →
    let x := s.ctx k
    let g := s.gang x.gang
    let n := g.ncoll.getD x.rank 0 + 1
    let bound := if (x.rh ha).bound then some (x.rh ha) else none
    let width := if fmt = 0 ∨ fmt = 2 then 32 else 16
    let format := [2, 4, 9, 8].getD fmt.toNat 8
    g.members.Nodup → x.rank < g.members.length → g.members[x.rank]? = some k → g.colls.length = g.members.length →
    g.colls.getD x.rank none = none → fmt.toNat < 4 →
    ∀ (i : Instr) (mine : Coll),
      (i, mine) ∈ [(Instr.trbc c d a b, (⟨0, 0, 0, x.rg a, x.rg b, none, d.toNat⟩ : Coll)),
        (.trbcH c hd ha b, ⟨1, 0, 0, 0, x.rg b, bound, hd.toNat⟩), (.trred c d a fmt op, ⟨2, op.toNat, fmt.toNat, x.rg a, 0, none, d.toNat⟩),
        (.trgath c d a, ⟨3, 0, 0, x.rg a, 0, none, d.toNat⟩), (.trbar c, ⟨4, 0, 0, 0, 0, none, 0⟩)] →
      (mine.kind = 3 → 32 < d.toNat + g.members.length → exec i s = .next (s.takeTrap k ⟨0x01, 0, 0⟩))
      ∧ ((mine.kind = 3 → d.toNat + g.members.length ≤ 32) →
        (∀ cs : List Coll, g.colls.set x.rank (some mine) = cs.map some →
          (∀ r < g.members.length, r ≠ x.rank → g.ncoll.getD r 0 = n ∧
            ∀ o : Coll, cs[r]? = some o → o.kind = mine.kind ∧ o.op = mine.op ∧ o.fmt = mine.fmt) →
          let rootIx := ((cs.head?.map fun z : Coll => z.root).getD 0).toNat % 16
          (mine.kind ≤ 1 → rootIx < g.members.length) →
          ∀ root : Coll, cs[rootIx]? = some root →
          (mine.kind = 1 → ∃ h m, root.hsrc = some h ∧ g.members[rootIx]? = some m ∧ (s.tile? (s.tileKey m h)).isSome = true) →
          ∃ t, exec i s = .next t ∧ t.mem = s.mem ∧
            ∀ (r m : Nat), g.members[r]? = some m → ∀ o : Coll, cs[r]? = some o →
              let y := s.ctx m
              t.ctx m = (match mine.kind with
                | 0 => y.wg (BitVec.ofNat 5 o.dst) root.value
                | 1 => y.wh (BitVec.ofNat 4 o.dst) (root.hsrc.getD {})
                | 2 => y.wg (BitVec.ofNat 5 o.dst)
                    (let v := BitVec.ofNat 64 (treeReduce op.toNat format
                      (((g.members.map (· / 8)).zip cs).map fun e : Nat × Coll => (e.1, e.2.value.toNat % 2 ^ width)))
                    if fmt = 0 then (v.setWidth 32).signExtend 64 else v)
                | 3 => (List.range cs.length).foldl (fun z q => z.wg (BitVec.ofNat 5 (o.dst + q)) ((cs[q]?.map fun w : Coll => w.value).getD 0)) y
                | _ => y).goOn (y.pc + 4))
        ∧ ((∃ r < g.members.length, r ≠ x.rank ∧ g.colls.getD r none = none) → (∀ r < g.members.length, g.commits.getD r false = false) →
          (∀ r < g.members.length, ∀ o : Coll, g.colls.getD r none = some o → g.ncoll.getD r 0 = n →
            o.kind = mine.kind ∧ o.op = mine.op ∧ o.fmt = mine.fmt) →
          ∃ t, exec i s = .next t ∧ t.ctx k = x.waiting .other s.clock ∧ (t.gang x.gang).colls = g.colls.set x.rank (some mine)))

/-- CSEND.s and CSEND.r wait for their partner, meet it and complete, or trap (R74, R86, R98, R249). The trap.addr of
the mismatch's kind 3 fault, each tile's first byte, is the model's reading (log 23); that the sender's core reads and
the receiver's core writes the pages, and what becomes of a copy whose source page is lost, is the model's reading
(log 74). -/
def Obligations.TileCopiesBetweenMembers : Prop :=
  ∀ (s : State) (k : Nat) (c : Guard) (b : BitVec 5) (h : BitVec 4) (tl : Tile), s.issues k c →
    let x := s.ctx k
    let g := s.gang x.gang
    let p := (x.rg b).toNat % 16
    let u := x.rh h
    let key := s.tileKey k u
    let e := s.dirE key
    (∀ i ∈ [Instr.csendS c h b, .csendR c h b], (p = x.rank ∨ g.members.length ≤ p) → exec i s = .next (s.takeTrap k ⟨0x01, 0, 0⟩))
    ∧ (p ≠ x.rank → p < g.members.length → u.bound = true → u.view = false → s.tile? key = some tl →
      ∀ (i : Instr) (sends : Bool) (m part gang : Nat),
        (i = .csendS c h b ∧ sends = true ∧ tl.st = .ready)
          ∨ (i = .csendR c h b ∧ sends = false ∧ tl.st = .empty ∧ u.atom.getLsbD 40 = true ∧ e.sealed = false ∧ e.owner = x.gang) →
        x.gang = part * 65536 + gang → gang < 65536 → g.members[p]? = some m → g.members[x.rank]? = some k → m ≠ k →
        g.csend? x.rank p sends = none →
        (g.csend? p x.rank (!sends) = none → ∃ t, exec i s = .next t ∧ t.ctx k = x.waiting .other s.clock
          ∧ (t.gang x.gang).csends = g.csends ++ [{ rank := x.rank, partner := p, sends := sends, tile := key }])
        ∧ (∀ o ot, g.csend? p x.rank (!sends) = some o → o.copying = false → s.tile? o.tile = some ot →
          let shaped := ot.fmt = tl.fmt ∧ ot.rows = tl.rows ∧ ot.cols = tl.cols
          let n := tilePages tl.fmt tl.rows tl.cols
          let src := if sends then key else o.tile
          let dst := if sends then o.tile else key
          let dt := if sends then ot else tl
          let a := if sends then k else m
          let z := if sends then m else k
          let own := fun (key : Nat) (y : SttEnt) => (s.dirE key).owner = x.gang ∧ s.writerCore (s.dirE key) = y.core
          let reads := fun (key : Nat) => ∃ y, tget? s.stt (sttKey (coreOf a) key) = some y ∧ (y.sealed = true ∨ own key y)
          let writes := fun (key : Nat) => ∃ y, tget? s.stt (sttKey (coreOf z) key) = some y ∧ y.sealed = false ∧ own key y
          let done := if sends then Instr.csendCopyDone part gang x.rank p else .csendCopyDone part gang p x.rank
          (¬ shaped → exec i s = .next (((s.setGang x.gang (g.dropCsend p)).takeTrap m ⟨0x05, 3, tileAddr o.tile 0⟩).takeTrap k
            ⟨0x05, 3, tileAddr key 0⟩))
          ∧ (shaped → (src + n ≤ dst ∨ dst + n ≤ src) → ∃ t, exec i s = .next t
            ∧ t.tile? dst = some { dt with st := .filling } ∧ (t.ctx k).pc = x.pc ∧ t.mem = s.mem
            ∧ (∀ w i atSrc, t.copyTile (coreOf a) (coreOf z) x.gang src dst 0 n = .wait w i atSrc → ∃ v, exec done t = .next v
              ∧ v.tile? dst = some { dt with st := .filling } ∧ v.mem = w.mem ∧ ∀ q ∈ [k, m], v.ctx q = w.ctx q)
            ∧ (dt.st = .empty → ∀ j < n, (s.dirE (src + j)).lost = true → tget? s.stt (sttKey (coreOf a) (src + j)) = none →
              (∀ i < j, reads (src + i) ∧ writes (dst + i)) → ∃ (w : State), exec done t = .next (w.takeTrap a ⟨0x05, 7, tileAddr (src + j) 0⟩)
              ∧ w.tile? dst = some { dt with st := .empty } ∧ (∀ q ∈ [k, m], w.ctx q = t.ctx q) ∧ w.mem = s.mem)
            ∧ ((∀ j < n, reads (src + j) ∧ writes (dst + j)) → ∃ v, exec done t = .next v
              ∧ v.tile? dst = some { dt with st := .ready }
              ∧ (∀ j < n, (v.dirE (dst + j)).data = (s.dirE (src + j)).data)
              ∧ (∀ q ∈ [k, m], (v.ctx q).pc = (s.ctx q).pc + 4 ∧ (v.ctx q).wait = none ∧ (v.ctx q).g = (s.ctx q).g)
              ∧ v.mem = s.mem))))

/-- CPLAN, CFIRE, CWAIT, CDROP and the events of a plan (R98, R250, R251, R252). That CPLAN with a differing
descriptor gives up its own plan is the model's choice (log 29); that a second CDROP of a plan is ILLEGAL is an
inference of the model (log 29). -/
def Obligations.CollectivePlans : Prop :=
  ∀ (s : State) (k : Nat) (c : Guard) (d a b : BitVec 5), s.issues k c →
    let x := s.ctx k
    let g := s.gang x.gang
    let addr := x.rg a
    (g.effects = false → exec (.cplan c d a) s = .next (s.takeTrap k ⟨0x01, 10, 0⟩))
    ∧ (g.effects = true → addr.toNat % 128 ≠ 0 → exec (.cplan c d a) s = .next (s.takeTrap k ⟨0x03, 0, addr⟩))
    ∧ (g.effects = true → addr.toNat % 128 = 0 → ∀ s1 bs, s.devReadLong k addr 12 = .ok (s1, bs) →
        let plan := parsePlan (dwords bs) s.dev.pbr x.gang (g.part * 4 + g.slot) x.rank g.leaderDie
        (plan = none → exec (.cplan c d a) s = .next (s1.takeTrap k ⟨0x01, 11, 0⟩))
        ∧ (∀ p, plan = some p → p.parts.length = 1 →
            (∀ e ∈ s.plans, ¬ (e.2.gang = x.gang ∧ e.2.rank = x.rank ∧ e.2.key = p.key)) →
            s.blocksUsed p.die + p.blocks ≤ 128 → (∃ m < 8192, tget? s.plans (g.part * 8192 + m) = none) →
            ∃ t m, m < 8192 ∧ tget? s.plans (g.part * 8192 + m) = none ∧ exec (.cplan c d a) s = .next t ∧ t.ctx k = (x.wg d (BitVec.ofNat 64 m)).goOn (x.pc + 4)
              ∧ (∃ q, tget? t.plans (g.part * 8192 + m) = some q ∧ q.gang = x.gang ∧ q.n = p.n ∧ q.fires = 0 ∧ q.done = 0 ∧ q.joined = true)
              ∧ t.mem = s1.mem)
        ∧ (∀ p, plan = some p → 1 < p.parts.length → s.plans.find? (fun e => e.2.awaits p) = none →
            s.blocksUsed p.die + p.blocks ≤ 128 → (∃ m < 8192, tget? s.plans (g.part * 8192 + m) = none) →
            ∃ t m q, m < 8192 ∧ tget? s.plans (g.part * 8192 + m) = none ∧ exec (.cplan c d a) s = .next t
              ∧ t.ctx k = x.waiting .other s.clock ∧ tget? t.plans (g.part * 8192 + m) = some q ∧ q.awaits p = true ∧ q.joined = false ∧ t.mem = s1.mem)
        ∧ (∀ p e, plan = some p → s.plans.find? (fun e => e.2.awaits p) = some e →
            (e.2.joined = true → ∃ t, exec (.cplan c d a) s = .next t ∧ t.mem = s1.mem
              ∧ t.ctx k = (x.wg d (BitVec.ofNat 64 (e.1 % 8192))).goOn (x.pc + 4))
            ∧ (e.2.joined = false → exec (.cplan c d a) s = .next (s1.updCtx k fun x => x.waiting .other s.clock)
              ∨ exec (.cplan c d a) s = .next (({ s1 with plans := tdel s1.plans e.1 } : State).takeTrap k ⟨0x01, 11, 0⟩))))
    ∧ (∀ i ∈ [Instr.cfire c a, .cwait c d a b, .cdrop c a],
        (8192 ≤ addr.toNat ∨ ∀ p, tget? s.plans (g.part * 8192 + addr.toNat) = some p → p.gang ≠ x.gang) →
        exec i s = .next (s.takeTrap k ⟨0x01, 0, 0⟩))
    ∧ (∀ p, addr.toNat < 8192 → tget? s.plans (g.part * 8192 + addr.toNat) = some p → p.gang = x.gang →
        let key := g.part * 8192 + addr.toNat
        let target := (x.rg b).toNat % 2 ^ 32
        (∃ t, exec (.cfire c a) s = .next t ∧ t.ctx k = x.goOn (x.pc + 4)
          ∧ tget? t.plans key = some (if p.dropped then p else { p with fires := p.fires + 1 }))
        ∧ ((∀ r, p.poisoned = some r → target < r) →
            exec (.cwait c d a b) s = if target ≤ p.done then .next (s.wroteG k d (BitVec.ofNat 64 p.done))
              else .next (s.updCtx k fun x => x.waiting .other s.clock))
        ∧ (p.released = true → exec (.cdrop c a) s = .next (s.takeTrap k ⟨0x01, 0, 0⟩))
        ∧ (p.released = false → p.fires ≤ p.done → ∃ t, exec (.cdrop c a) s = .next t ∧ t.ctx k = x.goOn (x.pc + 4)
          ∧ tget? t.plans key = some { p with dropped := true, released := true, blocks := 0 })
        ∧ (p.released = false → p.done < p.fires → exec (.cdrop c a) s = .next (s.updCtx k fun x => x.waiting .other s.clock)))
    ∧ (∀ part plan p, tget? s.plans (part * 8192 + plan) = some p →
        (∃ t, exec (.planJoin part plan) s = .next t ∧ tget? t.plans (part * 8192 + plan) =
          some (if p.reserved < p.parts.length then { p with reserved := p.reserved + 1 } else { p with joined := true }))
        ∧ (p.joined = true → p.done < p.fires → ∃ t, exec (.planRunComplete part plan) s = .next t ∧
            tget? t.plans (part * 8192 + plan) =
              if p.dropped = true ∧ p.done + 1 = p.fires ∧ tget? s.gangs p.gang = none ∧ tget? s.saved p.gang = none then none
              else some { p with done := p.done + 1 })
        ∧ (p.joined = true → p.done < p.fires → p.parts.length = 1 → p.pos = 0 → p.root = 0 → s.mem.wf = true →
            let size := fmtSize p.fmt
            let place := fun (base : Word) (i : Nat) => base + BitVec.ofNat 64 (i * size)
            ∀ (src dst : Nat → Nat),
              (∀ i < p.n, ∃ dpa m, s.translate 0 p.launch (place p.src i) false = .ok (s, ⟨dpa, .mem (src i), m⟩)
                ∧ (s.tlbHit 0 p.launch (place p.src i) false).isSome = true) →
              (∀ i < p.n, ∃ dpa m, s.translate 0 p.launch (place p.dst i) true = .ok (s, ⟨dpa, .mem (dst i), m⟩)
                ∧ (s.tlbHit 0 p.launch (place p.dst i) true).isSome = true) →
              (∀ i < p.n, ∀ j < p.n, i ≠ j → dst i + size ≤ dst j ∨ dst j + size ≤ dst i) →
              ∃ t, exec (.planRunComplete part plan) s = .next t
                ∧ (∀ i < p.n, ∀ b < size, mget t.mem (dst i + b) = mget s.mem (src i + b))
                ∧ ∀ a, (∀ i < p.n, a < dst i ∨ dst i + size ≤ a) → mget t.mem a = mget s.mem a))

/-- SAGEN from a device address, from a tile and from the pantry loads a record into an engine (R52, R53, R54, R55,
R56, R68, R254). -/
def Obligations.StreamProgramsLoad : Prop :=
  ∀ (s : State) (k : Nat) (c : Guard) (eng ha : BitVec 4) (a b : BitVec 5) (entry : BitVec 10), s.issues k c →
    let x := s.ctx k
    let all := [Instr.sagen c eng a, .sagenTile c eng ha b, .sagenPantry c eng entry]
    (x.physEngine k eng = none → ∀ i ∈ all, exec i s = .next (s.takeTrap k ⟨0x01, 0, 0⟩))
    ∧ (∀ e, x.physEngine k eng = some e → (s.engine e).st = .running →
        ((x.rg a).toNat % 64 = 0 → exec (.sagen c eng a) s = .next (s.updCtx k fun x => x.waiting .other s.clock))
        ∧ ((x.rh ha).bound = true → (s.tile? (s.tileKey k (x.rh ha))).isSome = true →
            exec (.sagenTile c eng ha b) s = .next (s.updCtx k fun x => x.waiting .other s.clock))
        ∧ (entry ≠ 0 → (tget? (s.launch (s.launchOf k)).pantry.streams entry.toNat).isSome = true →
            exec (.sagenPantry c eng entry) s = .next (s.updCtx k fun x => x.waiting .other s.clock)))
    ∧ (∀ e, x.physEngine k eng = some e → (s.engine e).st ≠ .faulted →
        ((x.rg a).toNat % 64 ≠ 0 → exec (.sagen c eng a) s = .next (s.takeTrap k ⟨0x03, 0, x.rg a⟩))
        ∧ ((entry = 0 ∨ tget? (s.launch (s.launchOf k)).pantry.streams entry.toNat = none) →
            exec (.sagenPantry c eng entry) s = .next (s.takeTrap k ⟨0x01, 0, 0⟩)))
    ∧ (∀ e, x.physEngine k eng = some e → (s.engine e).st ≠ .faulted → (s.engine e).st ≠ .running →
        ∀ (i : Instr) (r : List Word) (s1 : State),
          (i = .sagen c eng a ∧ (x.rg a).toNat % 64 = 0
            ∧ (∃ bs, s.devReadLong k (x.rg a) 8 = .ok (s1, bs) ∧ r = dwords bs)
            ∧ (∃ s2 t, s1.translate (coreOf k) (s1.launchOf k) (x.rg a) false = .ok (s2, t)))
          ∨ (i = .sagenTile c eng ha b ∧ (x.rh ha).bound = true ∧ (∃ tl, s.tile? (s.tileKey k (x.rh ha)) = some tl ∧ tl.st = .ready
              ∧ 64 * (x.rg b).toNat + 64 ≤ tileBytes tl.fmt tl.rows tl.cols)
            ∧ s.pageAccess (k / 8) (s.tileKey k (x.rh ha) + 64 * (x.rg b).toNat / 2048) x.gang false = .ok s1
            ∧ r = dwords (s1.tileGet (s.tileKey k (x.rh ha)) (64 * (x.rg b).toNat) 64))
          ∨ (i = .sagenPantry c eng entry ∧ entry ≠ 0 ∧ s1 = s
            ∧ tget? (s.launch (s.launchOf k)).pantry.streams entry.toNat = some r) →
          recOk r false = true → sideOk x.quads (engQuad (e % 16)) (recSrcKind r) (recSrcSel r) = true →
          sideOk x.quads (engQuad (e % 16)) (recDstKind r) (recDstSel r) = true →
          let base := fun (kind : Nat) (sel : BitVec 10) (w : Word) =>
            (if kind = 2 then x.rg (sel.extractLsb' 0 5) else 0) + (w.extractLsb' 0 48).signExtend 64
          let sb := base (recSrcKind r) (recSrcSel r) (r.getD 1 0)
          let db := base (recDstKind r) (recDstSel r) (r.getD 2 0)
          ((recSrcKind r = 1 ∨ recSrcKind r = 2 ∨ recSrcKind r = 3) → sb.toNat % recSize r = 0) →
          ((recDstKind r = 1 ∨ recDstKind r = 2 ∨ recDstKind r = 3) → db.toNat % recSize r = 0) →
          ∃ t, exec i s = .next t
            ∧ t.ctx k = { x.goOn (x.pc + 4) with event := (t.ctx k).event }
            ∧ (t.engine e).record = r ∧ (t.engine e).srcBase = sb ∧ (t.engine e).dstBase = db ∧ (t.engine e).ctx = k
            ∧ (t.engine e).ext = recExt r ∧ (t.engine e).str = recStr r ∧ (t.engine e).n = 0 ∧ (t.engine e).slot0 = none
            ∧ (t.engine e).slot1 = none ∧ (t.engine e).count = (if recCount r = 0 then prodOf (recExt r) else recCount r)
            ∧ ((t.engine e).st = .loaded ∨ (t.engine e).st = .faulted ∧ (recSrcKind r = 2 ∨ recDstKind r = 2))
            ∧ (recSrcKind r ≠ 2 → recDstKind r ≠ 2 → t.mem = s1.mem))

/-- SBIND, SBIND.host and SGO (R35, R56, R57, R65, R255, R256). SBIND's MISALIGN and its trap.addr are the model's
reading (log 51). -/
def Obligations.StreamsBindAndStart : Prop :=
  ∀ (s : State) (k : Nat) (c : Guard) (eng h : BitVec 4) (slot : BitVec 5) (e : Nat) (tl : Tile), s.issues k c → slot.toNat < 2 →
    let x := s.ctx k
    let g := s.engine e
    let r := g.record
    let u := x.rh h
    let key := s.tileKey k u
    let went := fun (t : State) => t.ctx k = { x.goOn (x.pc + 4) with event := (t.ctx k).event } ∧ t.mem = s.mem
    x.physEngine k eng = some e → g.st ≠ .faulted →
    (g.st ≠ .loaded → ∀ i ∈ [Instr.sbind c eng h slot, .sbindHost c eng, .sgo c eng], exec i s = .next (s.takeTrap k ⟨0x01, 0, 0⟩))
    ∧ (g.st = .loaded → recSrcKind r = 4 → exec (.sgo c eng) s = .next (s.takeTrap k ⟨0x01, 0, 0⟩))
    ∧ (g.st = .loaded → recSrcKind r ≠ 4 → g.bound = false → exec (.sgo c eng) s = .next (s.takeTrap k ⟨0x06, 0, 0⟩))
    ∧ (g.st = .loaded → recSrcKind r ≠ 4 → g.bound = true → g.extOk = true → ∃ t, exec (.sgo c eng) s = .next t ∧ went t
        ∧ t.engine e = { g with st := .running })
    ∧ (g.st = .loaded → g.extOk = true → u.bound = true → s.tile? key = some tl →
        let isSrc := recSrcKind r = 1 ∧ (recSrcSel r).toNat = slot.toNat
        let isDst := recDstKind r = 1 ∧ (recDstSel r).toNat = slot.toNat
        let isIdx := recIndexed r = true ∧ recIdxTile r = true ∧ (recIdxReg r).toNat = slot.toNat
        let bound := fun (t : State) => t.engine e =
          (if slot = 0 then { g with slot0 := some u, reg0 := h.toNat } else { g with slot1 := some u, reg1 := h.toNat })
        let odd := fun (base : Word) => u.start base.toInt % (recSize r : Int) ≠ 0
        ((isSrc ∧ odd g.srcBase ∨ isDst ∧ odd g.dstBase) →
          exec (.sbind c eng h slot) s = .next (s.takeTrap k ⟨0x03, 0, BitVec.ofNat 64 (key % 2 ^ 37 * 2048 + u.offset 0 0)⟩))
        ∧ ((isSrc ∨ isIdx) → ¬ isDst → tl.st = .ready → (isSrc → ¬ odd g.srcBase ∧ g.tileFits u tl g.srcBase false = true) →
          ∃ t, exec (.sbind c eng h slot) s = .next t ∧ went t ∧ bound t ∧ t.tiles = s.tiles)
        ∧ (isDst → ¬ isSrc → ¬ isIdx → tl.st = .empty → u.atom.getLsbD 40 = true → (s.dirE key).sealed = false →
          (s.dirE key).owner = x.gang → ¬ odd g.dstBase → g.tileFits u tl g.dstBase true = true →
          ∃ t, exec (.sbind c eng h slot) s = .next t ∧ went t ∧ bound t
            ∧ t.tile? key = some { tl with st := .filling, declared := g.count * recSize r, received := 0 }))
    ∧ (g.st = .loaded → g.extOk = true →
        let l := s.launch (s.launchOf k)
        let fits := fun (kind : Nat) (sel : BitVec 10) (base : Word) (out : Bool) => kind = 3 → g.hostFits l sel base out = true
        (fits (recSrcKind r) (recSrcSel r) g.srcBase false → fits (recDstKind r) (recDstSel r) g.dstBase true →
          ∃ t, exec (.sbindHost c eng) s = .next t ∧ went t ∧ t.engine e = { g with hostOk := true })
        ∧ (recSrcKind r = 3 → g.hostFits l (recSrcSel r) g.srcBase false = false →
          exec (.sbindHost c eng) s = .next (s.takeTrap k ⟨0x04, 6, BitVec.ofNat 64 (recSrcSel r).toNat⟩))
        ∧ (fits (recSrcKind r) (recSrcSel r) g.srcBase false → recDstKind r = 3 → g.hostFits l (recDstSel r) g.dstBase true = false →
          exec (.sbindHost c eng) s = .next (s.takeTrap k ⟨0x04, 6, BitVec.ofNat 64 (recDstSel r).toNat⟩)))

/-- SHALT, SHALT.push, SWAIT, SCNT and the trap of a recorded stream fault (R49, R65, R68, R256, R257). That the
subscriptions of a push that SHALT.push ends, or of one whose source faults, are idle afterwards as by SHALT is the
model's choice: R49 ends the push and discards its words, and does not say what becomes of the engines (log 30). -/
def Obligations.StreamsStopWaitAndCount : Prop :=
  ∀ (s : State) (k : Nat) (c : Guard) (eng h : BitVec 4) (d a slot : BitVec 5) (scope : BitVec 3) (entry : BitVec 10) (e : Nat), s.issues k c →
    let x := s.ctx k
    let g := s.engine e
    (∀ u, tget? s.pushes (x.rg a).toNat = some u → u.gang = x.gang → ∃ t, exec (.shaltPush c a) s = .next t
        ∧ (t.ctx k).pc = x.pc + 4 ∧ tget? t.pushes (x.rg a).toNat = none ∧ (∀ y ∈ u.subs, (s.engine y.1).st ≠ .faulted → (t.engine y.1).st = .idle))
    ∧ ((∀ u, tget? s.pushes (x.rg a).toNat = some u → u.gang ≠ x.gang) → exec (.shaltPush c a) s = .next (s.takeTrap k ⟨0x01, 0, 0⟩))
    ∧ (x.physEngine k eng = none → ∀ i ∈ [Instr.shalt c eng, .swait c eng scope, .scnt c d eng], exec i s = .next (s.takeTrap k ⟨0x01, 0, 0⟩))
    ∧ (x.physEngine k eng = some e →
      (g.st ≠ .faulted →
        (∃ t, exec (.shalt c eng) s = .next t ∧ t.ctx k = { x.goOn (x.pc + 4) with event := (t.ctx k).event } ∧ t.mem = s.mem
          ∧ (t.engine e).st = .idle ∧ (t.engine e).n = g.n
          ∧ (g.st ≠ .idle → (t.engine e).held = [] ∧ (t.engine e).slot0 = none ∧ (t.engine e).slot1 = none
              ∧ ∀ u tl, g.dstTile = some u → s.tile? (s.tileKey g.ctx u) = some tl → tl.st = .filling →
                t.tile? (s.tileKey g.ctx u) = some { tl with st := .empty }))
        ∧ exec (.scnt c d eng) s = .next (s.wroteG k d (BitVec.ofNat 64 g.n))
        ∧ (g.st = .idle → exec (.swait c eng scope) s = .next (s.goesTo k (x.pc + 4)))
        ∧ (g.st = .running → exec (.swait c eng scope) s = .next (s.updCtx k fun x => x.waiting .other s.clock))
        ∧ (g.st = .loaded → exec (.swait c eng scope) s = .next (s.takeTrap k ⟨0x01, 0, 0⟩)))
      ∧ (∀ code kind addr, g.st = .faulted → g.fault = some (code, kind, addr) →
        ∀ i ∈ [Instr.sagen c eng a, .sagenPantry c eng entry, .sbind c eng h slot, .sbindHost c eng, .sgo c eng, .shalt c eng,
            .swait c eng scope, .scnt c d eng, .sagenTile c eng h a],
          exec i s = .next ((s.setEngine e { g with st := .idle, fault := none }).takeTrap k ⟨code, kind, addr⟩)))

/-- The burst, completion and fault events of a stream engine (R36, R58, R61, R63, R66, R68, R124). The order of words
that wait for one port, and that a burst is the elements of one line from the first, are the model's reading (log 64). -/
def Obligations.StreamsAdvance : Prop :=
  ∀ (s : State) (core eng : Nat),
    let e := core * 16 + eng
    let g := s.engine e
    let l := s.launch (s.launchOf g.ctx)
    (g.st ≠ .running → exec (.streamBurst core eng) s = .next s ∧ exec (.streamComplete core eng) s = .next s
        ∧ exec (.streamFault core eng) s = .next s)
    ∧ (∀ p, g.st = .running → recSrcKind g.record ≠ 5 → recDstKind g.record = 3 → l.endp? (recDstSel g.record).toNat true = some p →
        g.gather ≠ [] → g.held = [] → g.n + g.gather.length = g.count →
        (∀ w ∈ g.gather, 0 ≤ g.dstBase.toInt + w.1 ∧ g.dstBase.toInt + w.1 + recSize g.record ≤ p.extent
          ∧ s.dstLine g w.1 = s.dstLine g (g.gather.headD (0, 0)).1
          ∧ s.atcMiss l.pasid (p.addr.toNat + (g.dstBase.toInt + w.1).toNat) (recSize g.record) true = none) →
        ∃ t, exec (.streamBurst core eng) s = .next t
          ∧ t.host = g.gather.foldl (fun m w => msetN m (l.pasid * 2 ^ 64 + p.addr.toNat + (g.dstBase.toInt + w.1).toNat)
              (toBytes w.2 (recSize g.record))) s.host
          ∧ t.engine e = { g with gather := [], n := g.count, wait := none, hostWait := none } ∧ t.mem = s.mem)
    ∧ (∀ w rest q ed i, g.st = .running → recSrcKind g.record ≠ 5 → recDstKind g.record = 5 → g.held = w :: rest →
        (g.count ≤ g.taken ∧ g.gather = [] ∨ s.slotFree e = false ∧ g.gather ≠ []) →
        portOf (s.ctx g.ctx).quads (recDstSel g.record) = some (q, ed, i) → s.notNext e (exitKey core q ed i) w.arr = false →
        eng < 16 →
        (∀ s1, s.offerPort core q ed i w = some s1 →
          exec (.streamBurst core eng) s = .next (s1.setEngine e { g with held := rest, n := g.n + 1 }))
        ∧ (s.offerPort core q ed i w = none → s.stopsAt core q ed i w.tag = false → exec (.streamBurst core eng) s = .next s)
        ∧ (s.stopsAt core q ed i w.tag = true → ∃ t, exec (.streamBurst core eng) s = .next t ∧ t.engine e = g ∧ t.elems = s.elems
            ∧ (t.inPort (exitKey core q ed i)).head = some { w with arr := s.cyc core }))
    ∧ (g.st = .running → g.count ≤ g.n → ∃ t, exec (.streamComplete core eng) s = .next t ∧ (t.engine e).st = .idle
        ∧ (t.engine e).n = g.n ∧ (∀ u tl, g.dstTile = some u → s.tile? (s.tileKey g.ctx u) = some tl →
            t.tile? (s.tileKey g.ctx u) = some { tl with st := .ready }) ∧ t.mem = s.mem)
    ∧ (∀ s1 code kind a, g.st = .running → g.held = [] → s.burstLen g = 0 → g.taken < g.count →
        s.getBurst e = .fault s1 code kind a → ∃ t, exec (.streamFault core eng) s = .next t ∧ (t.engine e).st = .faulted
          ∧ (t.engine e).fault = some (code, kind, a) ∧ (t.engine e).n = (s1.engine e).n ∧ (t.engine e).gather = [])

/-- SMCAST starts a push to its loaded subscriptions; a unit goes to each for one permit; space tokens make permits
(R46, R47, R48, R67, R258). That bit 19 of a push's record is ignored, its own extents and strides standing, is the
model's choice (log 64); that unit j begins at element j·unit is the model's reading (log 30). -/
def Obligations.Multicast : Prop :=
  ∀ (s : State) (k : Nat) (c : Guard) (a b : BitVec 5), s.issues k c →
    let x := s.ctx k
    let p := (x.rg a).toNat
    let g := s.gang x.gang
    (p / 2 ∈ (s.part g.part).map → (x.rg b).toNat % 64 = 0 → x.wait.bind (·.why.mcast?) = none → ∀ s1 bs, s.devReadLong k (x.rg b) 8 = .ok (s1, bs) →
      let r := dwords bs
      let count := if recCount r = 0 then prodOf (recExt r) else recCount r
      let base := x.rg ((recSrcSel r).extractLsb' 0 5) + ((r.getD 1 0).extractLsb' 0 48).signExtend 64
      let subs := s.engines.filter fun e => e.2.st == .loaded && recSrcKind e.2.record == 4
        && (recSrcSel e.2.record).toNat == p && e.2.bound && e.2.extOk && g.members.contains e.2.ctx
      recOk r true = true → base.toNat % recSize r = 0 → subs ≠ [] → subs.length ≤ 16 → (∀ e ∈ subs, prodOf e.2.ext = count) →
      tget? s.pushes p = none → ∃ t u, exec (.smcast c a b) s = .next t ∧ (t.ctx k).pc = x.pc + 4
        ∧ tget? t.pushes p = some u ∧ u.gang = x.gang ∧ u.base = base ∧ u.n = 0 ∧ u.count = count
        ∧ u.unit = (recExt r).getD 0 1 * (recExt r).getD 1 1 ∧ (∀ e ∈ subs, u.permits ≤ recDepth e.2.record)
        ∧ (∃ e ∈ subs, u.permits = recDepth e.2.record)
        ∧ u.subs.map (·.1) = subs.map (·.1) ∧ (∀ e ∈ subs, (t.engine e.1).st = .running))
    ∧ (p / 2 ∈ (s.part g.part).map → (x.rg b).toNat % 64 = 0 → x.wait.bind (·.why.mcast?) = none → ∀ s1 bs, s.devReadLong k (x.rg b) 8 = .ok (s1, bs) →
      let r := dwords bs
      let subs := s.engines.filter fun e => e.2.st == .loaded && recSrcKind e.2.record == 4
        && (recSrcSel e.2.record).toNat == p && e.2.bound && e.2.extOk && g.members.contains e.2.ctx
      recOk r true = true → (x.rg ((recSrcSel r).extractLsb' 0 5) + ((r.getD 1 0).extractLsb' 0 48).signExtend 64).toNat % recSize r = 0 →
      subs ≠ [] → subs.length ≤ 16 → (∀ e ∈ subs, prodOf e.2.ext = if recCount r = 0 then prodOf (recExt r) else recCount r) →
      (tget? s.pushes p).isSome = true → exec (.smcast c a b) s = .next (s1.updCtx k fun x => x.waiting (.mcast r
        (x.rg ((recSrcSel r).extractLsb' 0 5) + ((r.getD 1 0).extractLsb' 0 48).signExtend 64)
        (x.rg (recIdxReg r) + BitVec.ofInt 64 (off48 (r.getD 7 0))) (subs.map fun e => (e.1, e.2.loadedAt))) s.clock))
    ∧ (∀ r base idx l, p / 2 ∈ (s.part g.part).map → x.wait.bind (·.why.mcast?) = some (r, base, idx, l) →
      let subs := s.engines.filter fun e => e.2.st == .loaded && l.contains (e.1, e.2.loadedAt)
      ((tget? s.pushes p).isSome = true → exec (.smcast c a b) s = .next (s.updCtx k fun x => x.waiting (.mcast r base idx l) s.clock))
      ∧ (tget? s.pushes p = none → ∃ t, exec (.smcast c a b) s = .next t ∧ (t.ctx k).pc = x.pc + 4
        ∧ (∀ e ∈ subs, (t.engine e.1).st = .running) ∧ (∀ e, (∀ y ∈ subs, y.1 ≠ e) → t.engine e = s.engine e)
        ∧ (subs ≠ [] → ∃ u, tget? t.pushes p = some u ∧ u.gang = x.gang ∧ u.record = r ∧ u.base = base ∧ u.n = 0
            ∧ u.subs.map (·.1) = subs.map (·.1))))
    ∧ (p / 2 ∉ (s.part g.part).map → exec (.smcast c a b) s = .next (s.takeTrap k ⟨0x01, 0, 0⟩))
    ∧ (∀ push u s1 r ws, tget? s.pushes push = some u → 0 < u.permits → u.n < u.count →
        s.pushWords u.reader u.n (min u.unit (u.count - u.n)) = .val (s1, r, ws) → (u.subs.map (·.1)).Nodup →
        ∃ t, exec (.pushUnit push) s = .next t
          ∧ tget? t.pushes push = some { u with n := u.n + min u.unit (u.count - u.n), permits := u.permits - 1,
                                                node := r.node, ended := r.ended }
          ∧ (∀ y ∈ u.subs, (s1.engine y.1).skip = 0 → (t.engine y.1).rbuf = (s1.engine y.1).rbuf ++ ws))
    ∧ (∀ core eng u, let e := core * 16 + eng
        let gg := s.engine e
        0 < gg.tokens → recSrcKind gg.record = 4 → tget? s.pushes (recSrcSel gg.record).toNat = some u →
        let subs := u.subs.map fun y => if y.1 = e then (y.1, y.2 + 1) else y
        ∃ t, exec (.spaceToken core eng) s = .next t ∧ t.engine e = { gg with tokens := gg.tokens - 1 }
          ∧ ∃ v, tget? t.pushes (recSrcSel gg.record).toNat = some v
              ∧ (u.subs ≠ [] → ∃ n, v = { u with subs := subs.map fun y => (y.1, y.2 - n), permits := u.permits + n }
                  ∧ (∀ y ∈ subs, n ≤ y.2) ∧ ∃ y ∈ subs, y.2 = n))

/-- GLOAD, GPATCH and the proof wave (R115, R125, R127, R128, R130, R131, R139, R141, R259, R260, R331). -/
def Obligations.GridImagesLoad : Prop :=
  (∀ (d p : ImgData), p.chan = d.chan → p.wins = d.wins → p.rows = d.rows → p.cols = d.cols →
    let strange := ∃ r ∈ p.recs, ∃ x ∈ r.rects, ∀ q ∈ d.recs, x ∉ q.rects
    (strange → d.patched p = .error (0, 0))
    ∧ (¬ strange → ∃ e, d.patched p = .ok e ∧ e.ii = p.ii ∧ e.c = p.c ∧ (∀ r ∈ p.recs, r ∈ e.recs)
        ∧ ∀ r ∈ e.recs, r ∈ p.recs ∨ ∃ q ∈ d.recs, r.words = q.words ∧ r.trig = q.trig
            ∧ ∀ x, x ∈ r.rects ↔ x ∈ q.rects ∧ ∀ z ∈ p.recs, x ∉ z.rects))
  ∧ ∀ (s : State) (k : Nat) (c : Guard) (q : BitVec 4) (a : BitVec 5) (n : BitVec 10), s.issues k c →
    let x := s.ctx k
    let core := coreOf k
    let entry := tget? (s.launch (s.launchOf k)).pantry.grids n.toNat
    ((x.maskQuads q = none ∨ ∃ qs, x.maskQuads q = some qs ∧ isRegion qs = false) →
      ∀ i ∈ [Instr.gload c q a, .gloadPantry c q n], exec i s = .next (s.takeTrap k ⟨0x01, 0, 0⟩))
    ∧ (∀ qs, x.maskQuads q = some qs → isRegion qs = true →
        let old := s.imagesOn core qs
        let still := old.all fun i => s.quiescent i.1 i.2
        ((x.rg a).toNat % 64 ≠ 0 → exec (.gload c q a) s = .next (s.takeTrap k ⟨0x03, 0, x.rg a⟩))
        ∧ ((n = 0 ∨ entry = none) → exec (.gloadPantry c q n) s = .next (s.takeTrap k ⟨0x01, 0, 0⟩))
        ∧ ∀ (i : Instr) (src : ImgSrc) (e : Nat),
            (i = .gload c q a ∧ (x.rg a).toNat % 64 = 0 ∧ src = .device (x.rg a) ∧ e = 0)
              ∨ (i = .gloadPantry c q n ∧ n ≠ 0 ∧ entry.isSome = true ∧ src = .pantry ∧ e = n.toNat) →
            (still = false → exec i s = .next (s.updCtx k fun x => x.waiting .other s.clock))
            ∧ (still = true → ∀ s1 d, s.fetchImage k src e qs = .ok (s1, d) →
                (∀ kind off, checkImage d (originRow qs) (originCol qs) = .error (kind, off) →
                  exec i s = .next (s1.takeTrap k ⟨0x01, kind, off⟩))
                ∧ (∀ gates wins, checkImage d (originRow qs) (originCol qs) = .ok gates → ∀ s2, s1.resolveWins k x d = .ok (s2, wins) →
                  ∃ t im, exec i s = .next t ∧ t.mem = s2.mem
                    ∧ t.ctx k = { x.goOn (x.pc + 4) with lastLoad := some (core * 4 + qs.headD 0) }
                    ∧ tget? t.images (core * 4 + qs.headD 0) = some im
                    ∧ im.quads = qs ∧ im.ctx = k ∧ im.img = d ∧ im.src = src ∧ im.wins = wins ∧ im.gates = gates
                    ∧ im.proved = false ∧ im.portsOpen = true ∧ im.flags = 0 ∧ im.patches = []
                    ∧ (∀ j, j / 4096 = core → elemQuad j ∈ qs → let y := t.elem j
                        y.qN.toks = [] ∧ y.qE.toks = [] ∧ y.qS.toks = [] ∧ y.qW.toks = [] ∧ y.lreg = 0 ∧ y.prev = 0 ∧ y.preds = 0
                          ∧ y.stallOp = 0 ∧ y.stallSp = 0 ∧ y.halted = false ∧ y.mem = [])
                    ∧ (∀ j, j / 8 = core → j % 8 / 2 ∈ qs → t.island j = {})
                    ∧ (∀ p ∈ qs, p < 4 → ∀ r < 16, t.scaleReg core p r = 0x3F800000))))
    ∧ (∀ qs ik im, x.maskQuads q = some qs → s.imagesOn core qs = [(ik, im)] → im.quads = qs →
        ∀ (i : Instr) (src : ImgSrc) (e : Nat),
          (i = .gpatch c q a ∧ (x.rg a).toNat % 64 = 0 ∧ src = .device (x.rg a) ∧ e = 0)
            ∨ (i = .gpatchPantry c q n ∧ n ≠ 0 ∧ (∃ y, entry = some y ∧ y.base ≠ 0 ∧ im.img.ccid = y.base) ∧ im.src = .pantry
                ∧ src = .pantry ∧ e = n.toNat) →
          (s.still ik im = false → exec i s = .next (s.updCtx k fun x => x.waiting .other s.clock))
          ∧ (s.still ik im = true → ∀ s1 p, s.fetchImage k src e qs = .ok (s1, p) →
              (∀ kind off, im.img.patched p = .error (kind, off) → exec i s = .next (s1.takeTrap k ⟨0x01, kind, off⟩))
              ∧ (∀ d kind off, im.img.patched p = .ok d → (s.effects k = true → (patchList im.patches (p.ccid, src)).length ≤ 23) →
                checkImage d (originRow qs) (originCol qs) = .error (kind, off) → exec i s = .next (s1.takeTrap k ⟨0x01, kind, off⟩)))
          ∧ (s.still ik im = true → ∀ s1 p d gates, s.fetchImage k src e qs = .ok (s1, p) → im.img.patched p = .ok d →
              checkImage d (originRow qs) (originCol qs) = .ok gates →
              (s.effects k = true → (patchList im.patches (p.ccid, src)).length ≤ 23) →
              ∃ t im', exec i s = .next t ∧ t.ctx k = x.goOn (x.pc + 4) ∧ t.mem = s1.mem ∧ tget? t.images ik = some im'
                ∧ im'.img = d ∧ im'.proved = false ∧ im'.wins = im.wins ∧ im'.flags = im.flags ∧ im'.portsOpen = im.portsOpen
                ∧ im'.patches = im.patches.filter (· != (p.ccid, src)) ++ [(p.ccid, src)]
                ∧ (∀ j, (∀ r ∈ p.recs, ∀ z ∈ r.cells, regionElem (ik / 4) qs z ≠ j) → t.elem j = s.elem j)
                ∧ (∀ j, (t.elem j).lreg = (s.elem j).lreg ∧ (t.elem j).preds = (s.elem j).preds ∧ (t.elem j).qN = (s.elem j).qN
                    ∧ (t.elem j).qE = (s.elem j).qE ∧ (t.elem j).qS = (s.elem j).qS ∧ (t.elem j).qW = (s.elem j).qW)))
    ∧ (∀ (co : Nat) (m : BitVec 4) (im : Image), let qs := (List.range 4).filter fun i => m.getLsbD i
        tget? s.images (co * 4 + qs.headD 0) = some im → im.quads = qs → im.proved = false →
        s.cyc co ≥ im.waveFrom + (im.img.rows + im.img.cols - 2) →
        ∃ t im', exec (.proofWave co m) s = .next t ∧ tget? t.images (co * 4 + qs.headD 0) = some im' ∧ im'.img = im.img
          ∧ im'.proved = true ∧ im'.killed = false ∧ (im.keepPorts = false → im'.portsOpen = true) ∧ im'.flags = im.flags
          ∧ (∀ j, j / 4096 = co → elemQuad j ∈ qs → t.elem j = { s.elem j with halted := false }) ∧ t.mem = s.mem)

/-- GPROOF, GSEED, GDRAIN, GWAIT, GKILL, GSAVE and GSTALL (R117, R124, R139, R153, R234, R259, R261, R262, R263,
R264). That GKILL waits while a fired access cannot be performed is the model's reading (log 20); that GSEED completes
with a token whose tag has no valid channel entry at the port's head is the model's reading (log 64); that
GSTALL.flags of no image answers 0 is the model's reading (log 38). -/
def Obligations.GridCommands : Prop :=
  ∀ (s : State) (k : Nat) (c : Guard) (q : BitVec 4) (d a b : BitVec 5), s.issues k c →
    let x := s.ctx k
    let core := coreOf k
    let waits := s.updCtx k fun x => x.waiting .other s.clock
    ((x.maskQuads q = none ∨ ∃ qs, x.maskQuads q = some qs ∧ coversWhole qs (s.imagesOn core qs) = false) →
      ∀ i ∈ [Instr.gproof c q, .gdrain c q, .gdrainOpen c q, .gwait c q, .gwaitIdle c q, .gkill c q, .gstallFlags c d q],
        exec i s = .next (s.takeTrap k ⟨0x01, 0, 0⟩))
    ∧ (∀ qs, x.maskQuads q = some qs → coversWhole qs (s.imagesOn core qs) = true →
        let l := s.imagesOn core qs
        (exec (.gproof c q) s = .next (if l.all fun i => i.2.proved then s.goesTo k (x.pc + 4) else waits))
        ∧ (∀ i ∈ [Instr.gwait c q, .gwaitIdle c q],
            exec i s = .next (if l.all fun i => s.idle i.1 i.2 then s.goesTo k (x.pc + 4) else waits))
        ∧ (∀ i o, (i, o) ∈ [(Instr.gdrain c q, false), (.gdrainOpen c q, true)] → (s.images.map (·.1)).Nodup →
            ∃ t, exec i s = .next t ∧ t.ctx k = x.goOn (x.pc + 4) ∧ (∀ e ∈ l, tget? t.images e.1 = some { e.2 with portsOpen := o })
              ∧ t.elems = s.elems ∧ t.exits = s.exits ∧ t.mem = s.mem)
        ∧ (∀ code, (s.settleAll true l).2 = some code → exec (.gkill c q) s = .next (s.abandonErr x.gang code))
        ∧ ((s.settleAll true l).2 = none → s.accessStuck true l = true → exec (.gkill c q) s = .next waits)
        ∧ ((s.images.map (·.1)).Nodup → (s.settleAll true l).2 = none → s.accessStuck true l = false →
            ∃ t, exec (.gkill c q) s = .next t ∧ (t.ctx k).pc = x.pc + 4
            ∧ (∀ e ∈ l, ∃ im, tget? t.images e.1 = some im ∧ im.killed = true ∧ im.img = e.2.img)
            ∧ (∀ j, j / 4096 = core → elemQuad j ∈ qs → let y := t.elem j
                y.qN.toks = [] ∧ y.qE.toks = [] ∧ y.qS.toks = [] ∧ y.qW.toks = [] ∧ y.preds = (s.elem j).preds ∧ y.words = (s.elem j).words
                  ∧ y.lreg = ((s.settleAll true l).1.elem j).lreg ∧ y.prev = ((s.settleAll true l).1.elem j).prev
                  ∧ ((s.elem j).mem = [] → y.lreg = (s.elem j).lreg ∧ y.prev = (s.elem j).prev)
                  ∧ ((∃ e ∈ l, elemQuad j ∈ e.2.quads) → y.mem = []))
            ∧ (∀ j, j / 8 = core → j % 8 / 2 ∈ qs → t.island j = {})
            ∧ (∀ e ∈ s.ctxEngines k, recTouches x.quads qs (s.engine e).record = true → (s.engine e).st ≠ .faulted → (t.engine e).st = .idle))
        ∧ ((l = [] → exec (.gstallFlags c d q) s = .next (s.wroteG k d 0))
          ∧ (∀ e, l = [e] → exec (.gstallFlags c d q) s = .next (s.wroteG k d (e.2.flags.zeroExtend 64)))
          ∧ (1 < l.length → exec (.gstallFlags c d q) s = .next (s.takeTrap k ⟨0x01, 0, 0⟩)))
        ∧ (s.effects k = true → (x.rg a).toNat % 64 = 0 →
            let rests := ∀ i ∈ s.islands, i.1 / 8 = core → i.1 % 8 / 2 ∈ qs →
              i.2.run = none ∧ ∀ o ∈ i.2.queue, (∀ h g, o ≠ .task h g) ∧ ∀ b, o ≠ .clear b
            ((∃ e ∈ l, s.idle e.1 e.2 = false) ∨ ¬ rests → exec (.gsave c q a) s = .next waits)
            ∧ ((∀ e ∈ l, s.idle e.1 e.2 = true) → rests → ∀ s1,
                s.devWriteLong k (x.rg a) (chunks8 (s.saveBytes k qs)) = .ok s1 →
                exec (.gsave c q a) s = .next (s1.goesTo k (x.pc + 4)))))
    ∧ (s.effects k = false → exec (.gsave c q a) s = .next (s.takeTrap k ⟨0x01, 10, 0⟩))
    ∧ (∀ p, x.maskQuads q = some [p] →
        let v := x.rg b
        let edge := (v.extractLsb' 5 2).toNat
        let tag := v.extractLsb' 8 5
        let pe := portElem core p edge (v.extractLsb' 0 5).toNat
        let port := exitKey core p edge (v.extractLsb' 0 5).toNat
        let inner := ∃ n, acrossEdge p edge = some n ∧ n ∈ x.quads
        ((v &&& ~~~(0x1F7F : Word) ≠ 0 ∨ tag = 31 ∨ inner ∨ s.imageAt core p = none) →
          exec (.gseed c q a b) s = .next (s.takeTrap k ⟨0x01, 0, 0⟩))
        ∧ (∀ i, v &&& ~~~(0x1F7F : Word) = 0 → tag ≠ 31 → ¬ inner → s.imageAt core p = some i →
          let first := s.heldBefore core port (match x.wait with | some w => w.since | none => s.clock) = false
          let stops := first ∧ s.stopsAt core p edge (v.extractLsb' 0 5).toNat tag = true ∧ ((s.elem pe.1).queue pe.2).hasRoom (s.cyc core) = true
          let takes := i.2.proved = true ∧ i.2.killed = false ∧ i.2.portsOpen = true ∧ (i.2.chan tag).getLsbD 15 = true
            ∧ (i.2.chan tag).extractLsb' 4 5 ≠ 10 ∧ ((s.elem pe.1).queue pe.2).hasRoom (s.cyc core) = true
            ∧ first ∧ (s.inPort port).free (s.cyc core) 1 = true
          (takes → ∃ t, exec (.gseed c q a b) s = .next t ∧ t.ctx k = x.goOn (x.pc + 4)
              ∧ (t.elem pe.1).queue pe.2 = ((s.elem pe.1).queue pe.2).push ⟨(x.rg a).extractLsb' 0 32, tag, s.cyc core, none⟩
              ∧ (∀ j, j ≠ pe.1 → t.elem j = s.elem j) ∧ t.mem = s.mem)
          ∧ (stops → ∃ t, exec (.gseed c q a b) s = .next t ∧ t.ctx k = x.goOn (x.pc + 4) ∧ t.elems = s.elems ∧ t.mem = s.mem
              ∧ (t.inPort port).head = some ⟨(x.rg a).extractLsb' 0 32, tag, s.cyc core, none⟩)
          ∧ (¬ takes → ¬ stops → exec (.gseed c q a b) s = .next (s.updCtx k fun x => x.waiting (.seed port) s.clock))))
    ∧ (let v := x.rg a
       let row := (v.extractLsb' 8 6).toNat
       let col := (v.extractLsb' 0 6).toNat
       let e := s.elem (regionElem core x.quads (row * 64 + col))
       let within := v &&& ~~~(0x13F3F : Word) = 0 ∧ x.quads ≠ [] ∧ row < regionRows x.quads ∧ col < regionCols x.quads
       (within → exec (.gstall c d a) s = .next (s.wroteG k d ((if v.getLsbD 16 then e.stallSp else e.stallOp).zeroExtend 64)))
       ∧ (¬ within → exec (.gstall c d a) s = .next (s.takeTrap k ⟨0x01, 0, 0⟩)))

/-- The element ops on tokens: operands taken, result, local register, flags and tokens sent (R113, R116 and R117,
R121 and R122, R135, R266 and R267, R270 and R271, R272 and R273, R274, R275, R280, R281 and R282, R284). That a word
which reads a register that an access not yet performed is to write finds no operand is the model's choice (log 85). -/
def Obligations.ElementOpsCompute : Prop :=
  ∀ (s : State) (k : Nat) (t : Site) (w : ElWord) (i : Instr) (code : Nat) (r : W32) (fl : FFlags), s.acts k t →
    let v := fun x => t.e.src (s.cycE k) (immOf code w.imm) x
    let a := v w.a
    let b := v w.b
    let l := t.e.lreg
    let pt := decide (v w.p ≠ 0)
    let unsigned := decide (w.cond ≠ 0)
    let n := if w.imm = 0 then 65536 else w.imm.toNat
    let sh := b.toNat % 32
    let rn := fun (z : Nat × FFlags) => (BitVec.ofNat 32 z.1, z.2)
    let sc := s.chanScale t ((t.e.srcTag (s.cycE k) w.a).getD 0)
    (i, code, r, fl) ∈
      [(Instr.eAdd w, 0x01, a + b, {}), (.eSub w, 0x02, a - b, {}), (.eMul w, 0x03, a * b, {}),
       (.eMulh w, 0x04, (if unsigned then (a.zeroExtend 64 * b.zeroExtend 64) else a.signExtend 64 * b.signExtend 64).extractLsb' 32 32, {}),
       (.eAnd w, 0x05, a &&& b, {}), (.eOr w, 0x06, a ||| b, {}), (.eXor w, 0x07, a ^^^ b, {}),
       (.eShl w, 0x08, a <<< sh, {}), (.eShr w, 0x09, a >>> sh, {}), (.eSar w, 0x0A, a.sshiftRight sh, {}),
       (.eMin w, 0x0B, if (if unsigned then a.ult b else a.slt b) then a else b, {}),
       (.eMax w, 0x0C, if (if unsigned then a.ult b else a.slt b) then b else a, {}),
       (.eCmp w, 0x0D, if cmp32 w.cond.toNat a b then 1 else 0, {}), (.eSel w, 0x0E, if pt then a else b, {}), (.eMov w, 0x0F, a, {}),
       (.eConst w, 0x10, if w.cond = 0 then w.imm.signExtend 32 else if w.cond = 1 then w.imm.zeroExtend 32 else w.imm.zeroExtend 32 <<< 16, {}),
       (.eCnt w, 0x11, BitVec.ofNat 32 ((l + 1).toNat % n), {}), (.eAcc w, 0x12, if pt then a else l + a, {}),
       (.eFadd w, 0x13, rn (addVal (v32 a) (v32 b))), (.eFsub w, 0x14, rn (addVal (v32 a) (negVal (v32 b)))),
       (.eFmul w, 0x15, rn (mulVal (v32 a) (v32 b))), (.eFfma w, 0x16, rn (fmaVal (v32 a) (v32 b) (v32 (v w.p)))),
       (.eFmin w, 0x17, rn (minMax fp32 false a.toNat b.toNat)), (.eFmax w, 0x18, rn (minMax fp32 true a.toNat b.toNat)),
       (.eFcmp w, 0x19, if (fcmpVal w.cond.toNat (v32 a) (v32 b)).1 then 1 else 0, (fcmpVal w.cond.toNat (v32 a) (v32 b)).2),
       (.eFacc w, 0x1A, rn (addVal (if pt then .fin true 0 0 else v32 l) (v32 a))),
       (.eCvt w, 0x1B, cvtToken ((t.im.chan ((t.e.srcTag (s.cycE k) w.a).getD 0)).extractLsb' 4 5).toNat (w.aux.toNat % 32) (w.cond.getLsbD 2)
         (w.cond.toNat % 4) sc a),
       (.eExp2 w, 0x1C, funcOf exp2Bits sc a), (.eLog2 w, 0x1D, funcOf log2Bits sc a), (.eRcp w, 0x1E, funcOf rcpBits sc a),
       (.eRsq w, 0x1F, funcOf rsqBits sc a), (.eOrdf w, 0x23, 0, {}), (.eOrdj w, 0x24, 0, {}), (.eSteer w, 0x25, a, {}),
       (.eMerge w, 0x26, if pt then a else b, {}), (.eTagchk w, 0x27, a, {})] →
    t.e.mismatch (s.cycE k) code w = false →
    let deq := t.e.needed (s.cycE k) code w
    let outs := t.e.driven (s.cycE k) code w
    let heads := t.e.awaits w = false ∧ ∀ d ∈ deq, (t.e.head (s.cycE k) d).isSome = true
    let space := t.gated deq (outs.map (·.1)) = false ∧ ∀ d ∈ outs, s.roomPast (t.out d.1) (t.e.reserved d.1) = true
    exec .eNop s = .next s
    ∧ (¬ heads → ∃ t', exec i s = .next t' ∧ t'.elem k = { t.e with stallOp := t.e.stallOp + 1, acted := s.cycE k + 1 })
    ∧ (heads → ¬ space → ∃ t', exec i s = .next t' ∧ t'.elem k = { t.e with stallSp := t.e.stallSp + 1, acted := s.cycE k + 1 })
    ∧ (heads → space → ∃ t', exec i s = .next t'
        ∧ (t'.elem k).prev = r ∧ (t'.elem k).lreg = lregAfter t.e w (some r) a
        ∧ (t'.elem k).mem.map (fun m => (m.off, m.value, m.outs)) = t.e.mem.map (fun m => (m.off, m.value, m.outs))
        ∧ (t'.elem k).preds = t.e.preds ∧ (t'.elem k).words = t.e.words ∧ (t'.elem k).stallOp = t.e.stallOp ∧ (t'.elem k).stallSp = t.e.stallSp
        ∧ (∀ d ∈ deq, ((t'.elem k).queue d).popAt = s.cycE k + 1)
        ∧ (∀ d ∈ deq, (∀ o ∈ outs, t.out o.1 ≠ .elem k d) → ((t'.elem k).queue d).toks = (t.e.queue d).toks.tail)
        ∧ (∀ d ∈ outs, isPass d.2 = false → (⟨r, s.resultTag (s.cycE k) t.e w, s.cycE k + elLat code, none⟩ : Tok) ∈ t'.toksAt (t.out d.1))
        ∧ (∀ d ∈ outs, isPass d.2 = true → ∀ h, t.e.head (s.cycE k) (dirOf (d.2.toNat - 2)) = some h →
            { h with arr := s.cycE k + 1, eng := none } ∈ t'.toksAt (t.out d.1))
        ∧ (∃ im, tget? t'.images t.ik = some im ∧ im.flags = stick t.im.flags fl ∧ im.img = t.im.img)
        ∧ (∀ j, j ≠ k → (∀ d ∈ outs, ∀ side, t.out d.1 ≠ .elem j side) → t'.elem j = s.elem j)
        ∧ t'.mem = s.mem)

/-- e.ld, e.st and e.ldl through a window, the walker's retry, e.tagchk on a mismatch, e.sink (R32, R276, R277, R278,
R279, R282, R283). -/
def Obligations.MemoryElements : Prop :=
  ∀ (s : State) (k : Nat) (t : Site) (w : ElWord), s.acts k t →
    let gone := fun (t' : State) (v prev lreg : W32) (m : MemPend) => (t'.elem k).mem = [] ∧ (t'.elem k).prev = prev ∧ (t'.elem k).lreg = lreg
      ∧ (t'.elem k).preds = t.e.preds
      ∧ (∀ o ∈ m.outs, o.2.1 = none → (⟨v, o.2.2, s.cycE k + 8, none⟩ : Tok) ∈ t'.toksAt (t.out o.1))
      ∧ (∀ o ∈ m.outs, ∀ d, o.2.1 = some d → (⟨d, o.2.2, s.cycE k + 1, none⟩ : Tok) ∈ t'.toksAt (t.out o.1))
    (∀ i code op deq outs, (i, code, op) ∈ [(Instr.eLd w, 0x20, 0), (.eSt w, 0x21, 1), (.eLdl w, 0x22, 2)] →
      s.ready t code w = .go deq outs →
      let m := s.memPend t code op w outs
      let s0 := s.memFired t m deq outs
      let waiting := fun (l : List MemPend) => l.map fun p => (p.off, p.value, p.outs)
      let gone := fun (t' : State) (v : W32) => gone t' v v (lregAfter t.e w (some v) (t.e.src (s.cycE k) (immOf code w.imm) w.a)) m
      (∀ p l, t.e.mem = p :: l → p.dva = true → ∃ t', exec i s = .next t' ∧ waiting (t'.elem k).mem = waiting (t.e.mem ++ [m])
        ∧ (∀ d ∈ deq, ((t'.elem k).queue d).toks = (t.e.queue d).toks.tail) ∧ (t'.elem k).prev = t.e.prev ∧ t'.exits = s.exits
        ∧ (∀ j, j ≠ k → t'.elem j = s.elem j) ∧ t'.mem = s.mem)
      ∧ (t.e.mem = [] →
      let win := t.im.wins.getD (w.aux.toNat % 8) {}
      let n : Nat := 2 ^ (w.cond.toNat % 4)
      let inside := 0 ≤ m.off ∧ m.off + n ≤ win.extent
      let aligned := (win.base.toInt + m.off) % n = 0
      let loaded := fun (bs : List Byte) =>
        (if w.aux.toNat / 8 ≤ 1 ∧ op ≠ 2 then BitVec.ofInt 32 (intOf (8 * bs.length) true (ofBytes bs)) else BitVec.ofNat 32 (ofBytes bs))
          + if op = 2 then w.imm.signExtend 32 else 0
      let key := pageKey (s.launchOf t.im.ctx) (atomPage win.handle.atom)
      let off := (win.base.toInt + m.off).toNat
      (¬ inside → exec i s = .next ((s0.setElem k (s0.elem k).lost).abandonErr (s.ctx t.im.ctx).gang (if win.isDva then 4 else 5)))
      ∧ (inside → ¬ aligned → exec i s = .next ((s0.setElem k (s0.elem k).lost).abandonErr (s.ctx t.im.ctx).gang 3))
      ∧ (inside → aligned → win.isDva = true → op ≠ 1 → ∀ s1 bs, s0.devRead t.im.ctx (win.base + BitVec.ofInt 64 m.off) n = .ok (s1, bs) →
          ∃ t', exec i s = .next t' ∧ gone t' (loaded bs) ∧ t'.mem = s1.mem)
      ∧ (inside → aligned → win.isDva = true → op = 1 → ∀ s1,
          s0.devWrite t.im.ctx none (win.base + BitVec.ofInt 64 m.off) (toBytes m.value.toNat n) = .ok s1 →
          ∃ t', exec i s = .next t' ∧ gone t' m.value ∧ t'.mem = s1.mem)
      ∧ (inside → aligned → win.isDva = false → ∀ u, s.tile? key = some u →
          (op ≠ 1 → u.st = .ready → ∀ s1, s0.pageAccess (k / 4096) (key + off / 2048) (s.ctx t.im.ctx).gang false = .ok s1 →
            ∃ t', exec i s = .next t' ∧ gone t' (loaded (s.tileGet key off n)) ∧ t'.mem = s.mem)
          ∧ (op = 1 → u.st = .empty → (u.fmt = 10 ∨ off % pitchOf u.fmt u.cols + n ≤ u.cols * fmtSize u.fmt) →
            0 < pitchOf u.fmt u.cols → off + n ≤ tileBytes u.fmt u.rows u.cols → ∀ s1,
            s0.pageAccess (k / 4096) (key + off / 2048) (s.ctx t.im.ctx).gang true = .ok s1 →
            ∃ t', exec i s = .next t' ∧ gone t' m.value
              ∧ (t'.dirE (key + off / 2048)).data = msetN (s.dirE (key + off / 2048)).data (off % 2048) (toBytes m.value.toNat n)
              ∧ t'.mem = s.mem)
          ∧ (op ≠ 1 → (u.st = .filling ∨ u.st = .draining) →
            ∃ t', exec i s = .next t' ∧ waiting (t'.elem k).mem = waiting [m] ∧ (t'.elem k).prev = t.e.prev))))
    ∧ (∀ m s1 v, t.e.mem = [m] → m.dva = false → s.tryAccess (k / 4096) t.im m = .done s1 v →
        gone (s.retryMem k) v (if m.setP then v else t.e.prev) (if m.setL then v else t.e.lreg) m)
    ∧ (∀ core row col m, elemKey core row col = k → t.e.mem = [m] → m.dva = true →
        let gk := (s.ctx t.im.ctx).gang
        let overdue := m.since + 2700 * (s.launch (s.launchOf t.im.ctx)).faultLimit < s.clock
        (overdue → exec (.dvaRetry core row col) s = .next (((s.setElem k t.e.lost).abandonErr gk 4).endDue gk))
        ∧ (¬ overdue → (s.gang gk).ending = none →
            (∀ s1 v, s.tryAccess (k / 4096) t.im m = .done s1 v → ∃ t', exec (.dvaRetry core row col) s = .next t'
              ∧ gone t' v (if m.setP then v else t.e.prev) (if m.setL then v else t.e.lreg) m)
            ∧ (∀ s1 why, s.tryAccess (k / 4096) t.im m = .wait s1 why true →
              exec (.dvaRetry core row col) s = .next (s1.setElem k ((s1.elem k).delayed why true s1.clock)))))
    ∧ (let deq := t.e.needed (s.cycE k) 0x27 w
       t.e.awaits w = false → (∀ d ∈ deq, (t.e.head (s.cycE k) d).isSome = true) → t.e.mismatch (s.cycE k) 0x27 w = true →
        (w.cond = 0 → exec (.eTagchk w) s = .next (s.abandonErr (s.ctx t.im.ctx).gang 1))
        ∧ (w.cond ≠ 0 → ∃ t', exec (.eTagchk w) s = .next t' ∧ (t'.elem k).stallOp = t.e.stallOp + 1 ∧ (t'.elem k).prev = t.e.prev
            ∧ (∀ d ∈ deq, ((t'.elem k).queue d).toks = (t.e.queue d).toks.tail) ∧ (∀ j, j ≠ k → t'.elem j = s.elem j)
            ∧ t'.exits = s.exits))
    ∧ (∀ deq outs, s.ready t 0x28 w = .go deq outs → ∃ t', exec (.eSink w) s = .next t'
        ∧ (∀ d ∈ deq, (∀ o ∈ outs, t.out o.1 ≠ .elem k d) → ((t'.elem k).queue d).toks = (t.e.queue d).toks.tail)
        ∧ (t'.elem k).prev = t.e.prev ∧ (t'.elem k).lreg = t.e.lreg
        ∧ (outs = [] → t'.exits = s.exits ∧ ∀ j, j ≠ k → t'.elem j = s.elem j))

/-- The trigger ops, scale tokens, and an island's k-steps of every class, clears, drains and reads (R127, R133, R145,
R146, R147, R148, R149, R151, R152, R285, R286, R287 and R288). That t.mclr at the head of the queue keeps the class
that the bank has latched is the model's reading (log 37). -/
def Obligations.TriggerOpsAndIslands : Prop :=
  (∀ (s : State) (k : Nat) (x : Site) (w : TrWord), s.acts k x →
    let h := x.e.trigHead (s.cycE k) w
    let ready := fun (op : Nat) => x.e.trigHolds (s.cycE k) w = true ∧ s.trigRoom x op w = true
    let side := x.out (dirOf (w.operand.toNat % 4))
    let imm := (w.operand.extractLsb' 7 9).signExtend 32
    let e := x.e
    let compared := fun y => cmp32 (w.operand.extractLsb' 3 3).toNat e.lreg y
    let apart := ∀ d, side ≠ .elem k d
    let own : List (Instr × Nat × Elem) :=
      [(.tDeq w, 0x06, e), (.tPset w, 0x08, { e with preds := e.preds ||| w.operand.extractLsb' 0 8 }),
       (.tPclr w, 0x09, { e with preds := e.preds &&& ~~~(w.operand.extractLsb' 0 8) }),
       (.tCnt w, 0x0D, { e with lreg := e.lreg + w.operand.signExtend 32 }),
       (.tCmp w, 0x0F, { e with preds := setBit8 e.preds (w.operand.toNat % 8) (compared (if w.operand.getLsbD 6 then imm else h.data)) }),
       (.tHalt w, 0x10, { e with halted := true })]
    let sends : List (Instr × Nat × W32 × BitVec 5) :=
      [(.tEnq w, 0x07, e.lreg, w.operand.extractLsb' 3 5), (.tSeed w, 0x0B, (w.operand.extractLsb' 8 8).zeroExtend 32, w.operand.extractLsb' 3 5),
       (.tTagset w, 0x0C, h.data, w.operand.extractLsb' 3 5)]
    let issues : List (Instr × Nat × Bool × IslOp) :=
      [(.tMma w, 0x01, !hdrBad h.data, .task h.data h.tag), (.tMclr w, 0x02, true, .clear (w.operand.getLsbD 0)),
       (.tMdrain w, 0x03, true, .drain (w.operand.getLsbD 0) (w.operand.extractLsb' 1 5)),
       (.tAccrd w, 0x05, decide (h.data &&& ~~~(0x007F007F : W32) = 0),
         .read (w.operand.getLsbD 2) (h.data.extractLsb' 16 7).toNat (h.data.extractLsb' 0 7).toNat (k % 4096 / 64) (k % 64)
           (dirOf (w.operand.toNat % 4)) (w.operand.extractLsb' 3 5))]
    let keeps := fun (t : State) => (t.elem k).preds = (e.trigAfter (s.cycE k) w).preds ∧ (t.elem k).lreg = e.lreg ∧ t.mem = s.mem
    (∀ y ∈ own, ready y.2.1 → ∃ t, exec y.1 s = .next t ∧ t.elem k = y.2.2.trigAfter (s.cycE k) w ∧ (∀ j, j ≠ k → t.elem j = s.elem j) ∧ t.mem = s.mem)
    ∧ (∀ y ∈ sends, ready y.2.1 → apart → ∃ t, exec y.1 s = .next t ∧ (⟨y.2.2.1, y.2.2.2, s.cycE k + 1, none⟩ : Tok) ∈ t.toksAt side ∧ keeps t)
    ∧ (ready 0x0E → if w.operand.getLsbD 2
        then ∃ t, exec (.tMov w) s = .next t ∧ t.elem k = ({ e with lreg := h.data } : Elem).trigAfter (s.cycE k) w ∧ t.mem = s.mem
        else apart → ∃ t, exec (.tMov w) s = .next t ∧ (⟨h.data, h.tag, s.cycE k + 1, none⟩ : Tok) ∈ t.toksAt side ∧ keeps t)
    ∧ (∀ y ∈ issues, ready y.2.1 → y.2.2.1 = true → ∀ i, islandAt k = some i → ∃ t, exec y.1 s = .next t
        ∧ t.island (k / 4096 * 8 + i) = { s.island (k / 4096 * 8 + i) with queue := (s.island (k / 4096 * 8 + i)).queue ++ [y.2.2.2] } ∧ keeps t)
    ∧ (∀ y ∈ issues, ready y.2.1 → y.2.2.1 = false → tget? (s.taskError x).images x.ik = none → exec y.1 s = .next (s.taskError x))
    ∧ (ready 0x04 → ∀ i, islandAt k = some i → let r := s.island (k / 4096 * 8 + i)
        ∃ t, exec (.tMscale w) s = .next t ∧ t.island (k / 4096 * 8 + i) =
          { r with bufB := r.bufB ++ [.scale (w.operand.toNat % 16) h.data], scaleHeld := true } ∧ keeps t)
    ∧ (ready 0x0A → let gk := (s.ctx x.im.ctx).gang
        let key := k / 4096 * 32 + w.operand.toNat % 32
        let b := s.bar key
        (w.operand.getLsbD 5 = true → ∃ t, exec (.tSig w) s = .next t ∧ t.ctx x.im.ctx = { s.ctx x.im.ctx with event := true } ∧ keeps t)
        ∧ (w.operand.getLsbD 5 = false → b.gang = some gk → ∃ t, exec (.tSig w) s = .next t ∧ keeps t
            ∧ t.bar key = if b.arrivals + 1 = b.expected then { b with arrivals := 0, phase := !b.phase } else { b with arrivals := b.arrivals + 1 }))
    ∧ (∀ y ∈ own.map (fun y => (y.1, y.2.1)) ++ sends.map (fun y => (y.1, y.2.1)) ++ issues.map (fun y => (y.1, y.2.1))
          ++ [(.tMov w, 0x0E), (.tMscale w, 0x04), (.tSig w, 0x0A)],
        (x.e.trigHolds (s.cycE k) w = false → ∃ t, exec y.1 s = .next t ∧ t.elem k = { e with stallOp := e.stallOp + 1, acted := s.cycE k + 1 })
        ∧ (x.e.trigHolds (s.cycE k) w = true → s.trigRoom x y.2 w = false →
            ∃ t, exec y.1 s = .next t ∧ t.elem k = { e with stallSp := e.stallSp + 1, acted := s.cycE k + 1 })))
  ∧ (∀ (s : State) (core isl : Nat), let key := core * 8 + isl
      let r := s.island key
      (∀ reg v rest im, r.bufB = .scale reg v :: rest → s.imageAt core (isl / 2) = some im →
        (r.latchDue im.2 = true → exec (.scaleToken core isl) s = .next s)
        ∧ (r.latchDue im.2 = false → ∃ t, exec (.scaleToken core isl) s = .next t
          ∧ t.island key = { r with bufB := rest, scaleHeld := false }
          ∧ t.scaleReg core (isl / 2) reg = if reg = 0 then 0x3F800000 else v))
      ∧ (s.imageAt core (isl / 2) = none → exec (.islandTask core isl) s = .next s)
      ∧ (∀ im, s.imageAt core (isl / 2) = some im →
        ((im.2.proved = false ∨ im.2.killed = true) → exec (.islandTask core isl) s = .next s)
        ∧ (im.2.proved = true → im.2.killed = false → r.bufA = [] → r.bufB = [] → r.run = none → ∀ b rest, r.queue = .clear b :: rest → rest = [] →
            ∃ t, exec (.islandTask core isl) s = .next t ∧ t.island key = { r.setBank b [] with queue := [] })
        ∧ (∀ u l, im.2.proved = true → im.2.killed = false → r.bufA = [] → r.bufB = [] → r.weights = [] → r.queue = [] → r.run = some u →
            u.started = true → u.stepA.length = 32 → u.stepB.length = 32 →
            im.2.chanFmt u.tagA = some 0 → im.2.chanFmt u.tagB = some 0 → (∀ y ∈ u.stepA ++ u.stepB, im.2.chanFmt y.2 = some 0) →
            r.latch (hdrBank u.header) = some l → l.cls = 2 →
            let byte := fun (ws : List (W32 × BitVec 5)) (n : Nat) => ((ws.getD (n / 4) (0, 0)).1.extractLsb' (8 * (n % 4)) 8).toInt
            ∃ t, exec (.islandTask core isl) s = .next t
              ∧ (∀ i < 128, ∀ j < 128, let v := (tgetD (r.bank (hdrBank u.header)) (i * 128 + j) 0).toInt + byte u.stepA i * byte u.stepB j
                  tgetD ((t.island key).bank (hdrBank u.header)) (i * 128 + j) 0 = BitVec.ofInt 32 (if hdrSat u.header
                    then max (-(2 ^ 31)) (min (2 ^ 31 - 1) v) else v))
              ∧ (t.island key).run = if hdrK u.header ≤ u.k + 1 then none else some { u with k := u.k + 1, stepA := [], stepB := [] })
        ∧ (∀ u l f g cls n, (f, g, cls, n) ∈ [(5, 5, 1, 32), (5, 6, 1, 32), (6, 5, 1, 32), (6, 6, 1, 32), (8, 8, 3, 64), (7, 7, 4, 64)] →
            im.2.proved = true → im.2.killed = false → r.bufA = [] → r.bufB = [] → r.weights = [] → r.queue = [] → r.run = some u →
            u.started = true → u.stepA.length = n → u.stepB.length = n → im.2.chanFmt u.tagA = some f → im.2.chanFmt u.tagB = some g →
            (∀ y ∈ u.stepA, im.2.chanFmt y.2 = some f) → (∀ y ∈ u.stepB, im.2.chanFmt y.2 = some g) →
            r.latch (hdrBank u.header) = some l → l.cls = cls →
            let per := 128 / n
            let value := fun (fmt : Nat) (ws : List (W32 × BitVec 5)) (i : Nat) =>
              tokenVal fmt ((ws.getD (i / per) (0, 0)).1.toNat / 2 ^ (32 / per * (i % per)) % 2 ^ (32 / per))
            ∃ t, exec (.islandTask core isl) s = .next t
              ∧ (∀ i < 128, ∀ j < 128, tgetD ((t.island key).bank (hdrBank u.header)) (i * 128 + j) 0 = BitVec.ofNat 32
                  (fmaVal (value f u.stepA i) (value g u.stepB j) (v32 (tgetD (r.bank (hdrBank u.header)) (i * 128 + j) 0))).1)
              ∧ (t.island key).run = if hdrK u.header ≤ u.k + 1 then none else some { u with k := u.k + 1, stepA := [], stepB := [] })
        ∧ (∀ u l f tile ws, f = 5 ∨ f = 6 → im.2.proved = true → im.2.killed = false → r.bufA = [] → r.bufB = [] → r.queue = [] →
            r.weights = tile :: ws → tile.length = 2113 → r.run = some u → u.started = true → hdrK u.header = 128 → u.k < 128 → u.k % 2 = 0 →
            u.stepA.length = 64 → u.stepB = [] → im.2.chanFmt u.tagA = some f → (∀ y ∈ u.stepA, im.2.chanFmt y.2 = some f) →
            r.latch (hdrBank u.header) = some l → l.cls = 5 →
            let a := fun (step i : Nat) => tokenVal f ((u.stepA.getD (32 * step + i / 4) (0, 0)).1.toNat / 2 ^ (8 * (i % 4)) % 256)
            let data := fun (byte : Nat) => ((tile.map (·.data)).getD (byte / 4) 0).toNat / 2 ^ (8 * (byte % 4)) % 256
            let level := fun (j n : Nat) => levelVal (data (j * 64 + u.k / 2) / 16 ^ n % 16)
            let old := fun (p : Nat) => if u.k % 64 = 0 then 0 else tgetD u.part p 0
            let sum := fun (i j : Nat) => BitVec.ofNat 32 (addVal (v32 (old (i * 128 + j)))
              (addExact (mulExact (a 0 i) (level j 0)) (mulExact (a 1 i) (level j 1))).1).1
            let factor := fun (j : Nat) => (mulVal (v32 ((tile.map (·.data)).getD 2112 0)) (.fin false (data (8192 + 2 * j + u.k / 64) + 1) (-8))).1
            let bank := r.bank (hdrBank u.header)
            ∃ t, exec (.islandTask core isl) s = .next t
              ∧ (if u.k % 64 = 62
                  then ∀ i < 128, ∀ j < 128, tgetD ((t.island key).bank (hdrBank u.header)) (i * 128 + j) 0 = BitVec.ofNat 32 (addVal (v32 (tgetD bank (i * 128 + j) 0))
                    (fp32.value (mulVal (v32 (sum i j)) (fp32.value (factor j))).1)).1
                  else (t.island key).bank (hdrBank u.header) = bank
                    ∧ ∃ v, (t.island key).run = some v ∧ ∀ i < 128, ∀ j < 128, tgetD v.part (i * 128 + j) 0 = sum i j)
              ∧ (u.k = 126 → (t.island key).run = none ∧ (t.island key).weights = ws)
              ∧ (u.k < 126 → (t.island key).weights = r.weights ∧ ∃ v, (t.island key).run = some v ∧ v.k = u.k + 2 ∧ v.stepA = []))
        ∧ (im.2.proved = true → im.2.killed = false → r.bufA = [] → r.bufB = [] → r.weights = [] →
            let word := fun (b : Bool) (p : Nat) =>
              let v := tgetD (r.bank b) p 0
              match r.latch b with
              | none => v
              | some l =>
                let scale := (mulVal (v32 l.sA) (v32 l.sB)).1
                if l.cls = 2 ∨ scale = 0x3F800000 then v else BitVec.ofNat 32 (mulVal (v32 v) (fp32.value scale)).1
            (∀ b tag, r.run = none → r.queue = [.drain b tag] → r.drainPos = [] ∨ (r.drainPos.length = 16 ∧ r.drainBank = b) →
              let pos := fun (m : Nat) => r.drainPos.getD m 0
              let queue := fun (t : State) (m : Nat) => (t.elem (attached core isl m).1).queue (attached core isl m).2
              let moves := fun (m : Nat) => pos m < 1024 ∧ (queue s m).hasRoom (s.cyc core) = true
              isl < 8 → ∃ t, exec (.islandTask core isl) s = .next t
                ∧ (∀ m < 16, (moves m → queue t m = (queue s m).push ⟨word b (m * 1024 + pos m), tag, s.cyc core, none⟩)
                    ∧ (¬ moves m → queue t m = queue s m))
                ∧ (let ends := ∀ m < 16, moves m ∧ pos m = 1023 ∨ pos m = 1024
                  (ends → (t.island key).queue = [] ∧ (t.island key).drainPos = [])
                  ∧ (¬ ends → (t.island key).queue = r.queue ∧ (t.island key).drainBank = b
                    ∧ ∀ m < 16, (moves m → (t.island key).drainPos.getD m 0 = pos m + 1) ∧ (¬ moves m → (t.island key).drainPos.getD m 0 = pos m))))
            ∧ (∀ b i j row col side tag, r.run = none → r.queue = [.read b i j row col side tag] →
              let o := (⟨elemKey core row col, im.1, im.2, s.elem (elemKey core row col)⟩ : Site).out side
              (s.room o = true → ∃ t, exec (.islandTask core isl) s = .next t ∧ t.island key = { r with queue := [] }
                ∧ (⟨word b (i * 128 + j), tag, s.cyc core + 4, none⟩ : Tok) ∈ t.toksAt o)
              ∧ (s.room o = false → ∃ t, exec (.islandTask core isl) s = .next t ∧ t.island key = r ∧ t.elems = s.elems))
            ∧ (∀ u o, r.run = some u → u.stepA = [] → r.queue = [o] → o.bankOf = hdrBank u.header →
              ∃ t, exec (.islandTask core isl) s = .next t ∧ t.island key = r ∧ t.elems = s.elems))))

/-- The events of a launch: LAUNCH, the load, STATUS, discovery, placement, stealing, the operator's load, the start,
the commit step, the end (R177, R178, R179, R182 and R183, R185, R187 and R188, R189 and R190, R191 and R192 and R193,
R195, R306 and R308, R323, R324). -/
def Obligations.LaunchesLoadPlaceAndCommit : Prop :=
  ∀ (s : State) (p slot : Nat), slot < 4 →
    let l := p * 4 + slot
    let y := s.launch l
    (∀ v : Word, (tget? s.parts p).isSome = true →
      let legal := v.extractLsb' 52 12 = 0 ∧ v.extractLsb' 0 3 = 0
      let full := ∀ i < 4, (s.launch (p * 4 + i)).state ≠ 0
      (legal → y.state = 0 → (∀ i < slot, (s.launch (p * 4 + i)).state ≠ 0) → ∃ t, exec (.launch p v) s = .next t
          ∧ t.launch l = { state := 1, record := v } ∧ (∀ j, j ≠ l → t.launch j = s.launch j)
          ∧ (t.part p).launchRefused = false ∧ (t.part p).launchSlot.toNat = slot)
      ∧ (full ∨ ¬ legal → ∃ t, exec (.launch p v) s = .next t ∧ t.launches = s.launches ∧ (t.part p).launchRefused = true))
    ∧ (y.state = 1 → s.readRecord p y = none → ∃ t, exec (.launchLoad p slot) s = .next t ∧ (t.launch l).state = 5 ∧ (t.launch l).fault = 4)
    ∧ (y.state = 1 → ∀ x cells, s.readRecord p y = some x → x.pantry.tiles = [] → x.pantry.expr.all (loadSymOk 0) = true →
        x.pantry.expr.length ≤ (if x.limit = 0 then (s.partCells p).length else x.limit) →
        s.layout p x.gap x.pantry.expr.length = some cells →
        ∃ t, exec (.launchLoad p slot) s = .next t ∧ (t.launch l).state = (if x.preWanted then 3 else 2) ∧ (t.part p).passDue = true
          ∧ (∀ (j c : Nat) (w : Word), cells[j]? = some c → x.pantry.expr[j]? = some w → tget? t.row c = some ⟨w, slot⟩)
          ∧ (∀ c, c ∉ cells → tget? t.row c = tget? s.row c))
    ∧ (∀ v : Word, exec (.statusFree p slot v) s = .next (if v = 0 ∧ (y.state = 4 ∨ y.state = 5) then { s with launches := tdel s.launches l } else s))
    ∧ ((s.part p).passDue = false ∨ s.treeNow p < (s.part p).stepEnd → exec (.discoveryPass p) s = .next s)
    ∧ ((s.part p).passDue = true → (s.part p).stepEnd ≤ s.treeNow p → y.state = 2 → y.checked = true →
        (∀ i < 4, i ≠ slot → (s.launch (p * 4 + i)).state ≠ 2 ∧ (s.launch (p * 4 + i)).state ≠ 3) → (∀ e ∈ s.ras, e.1 < s.nextRa ∧ e.2.part ≠ p) →
        let new := innermost (s.symsOf p slot) none
        (new ≠ [] → ∃ t, exec (.discoveryPass p) s = .next t ∧ (t.part p).passDue = false ∧ (t.part p).passes = (s.part p).passes + 1
          ∧ ∀ c ∈ new, ∃ e ∈ t.ras, e.2.part = p ∧ e.2.slot = slot ∧ e.2.cell = c ∧ e.2.ageCell = c ∧ e.2.agePass = (s.part p).passes + 1)
        ∧ (new = [] → y.ending = none → (s.resultBytes l).length ≤ (y.ends.headD {}).extent →
            s.atcMiss y.pasid (y.ends.headD {}).addr.toNat (s.resultBytes l).length true = none → ∃ t, exec (.discoveryPass p) s = .next t ∧ (t.launch l).state = 4
          ∧ t.host = msetN s.host (y.pasid * 2 ^ 64 + (y.ends.headD {}).addr.toNat) (s.resultBytes l)))
    ∧ (∀ (cell core : Nat) (x : Nat × RA) (c0 : Nat), s.raAt p slot cell = some x → x.2.queue = some c0 → y.state = 2 → x.2.saved = none → s.ra x.1 = x.2 →
        ∀ (i : Instr) (ms : List (Nat × List Nat)),
          (i = .placeGang p slot cell ∧ s.placement p x = some ms)
            ∨ (i = .steal p slot cell core ∧ c0 ≠ core ∧ c0 / 4 = core / 4 ∧ (x.2.fast = true ∨ x.2.since + 10 ≤ s.tick p)
                ∧ s.fitRa (s.busyNow p (s.heldFor p x)) x.1 core = some ms) →
          (ms.map (·.1)).Nodup → (s.ras.map (·.1)).Nodup →
          ∃ t gk g, exec i s = .next t ∧ (t.ra x.1).st = .placed gk ∧ tget? t.gangs gk = some g ∧ g.members = ms.map (·.1) ∧ g.ra = x.1
            ∧ g.started = false
            ∧ (∀ (r : Nat) (m : Nat × List Nat), ms[r]? = some m → (t.ctx m.1).status = .placed ∧ (t.ctx m.1).quads = m.2
                ∧ (t.ctx m.1).gang = gk ∧ (t.ctx m.1).rank = r))
    ∧ (∀ (op core gk : Nat) (g : Gang), (gk, g) ∈ s.gangs → g.part = p → g.slot = slot → g.op = op → (∃ k ∈ g.members, coreOf k = core) →
        ∃ t, exec (.operatorLoad p slot op core) s = .next t ∧ (p, slot, op) ∈ (t.core core).code ∧ t.ctxs = s.ctxs ∧ t.mem = s.mem)
    ∧ (∀ (core ctx : Nat), let k := core * 8 + ctx
        let x := s.ctx k
        let g := s.gang x.gang
        let o := tgetD (s.launch (g.part * 4 + g.slot)).pantry.ops g.op {}
        x.status = .placed → g.started = false → (∀ m ∈ g.members, (g.part, g.slot, g.op) ∈ (s.core (coreOf m)).code) →
        tget? s.saved x.gang = none → g.members.Nodup → ∃ t, exec (.contextStart core ctx) s = .next t ∧ (t.gang x.gang).started = true
          ∧ ∀ m ∈ g.members, t.ctx m = { status := .running, gang := (s.ctx m).gang, rank := (s.ctx m).rank, quads := (s.ctx m).quads,
                                         pc := o.entry, trapVec := o.trapVec })
    ∧ (∀ (i : Nat) (r : RA), s.acceptedRas p = [(i, r)] → tget? s.ras i = some r → r.part = p → s.waitingRas p = [] →
        (s.part p).stepEnd ≤ s.treeNow p → (s.part p).passDue = false → r.result.length ≤ s.raLen i →
        ∃ t, exec (.commitStep p) s = .next t ∧ tget? t.ras i = none ∧ (t.part p).passDue = true ∧ s.treeNow p < (t.part p).stepEnd
          ∧ ∀ (j c : Nat) (w : Word), ((s.cellsBetween p r.slot r.cell (s.raLast i)).take r.result.length)[j]? = some c → r.result[j]? = some w →
              tget? t.row c = some ⟨rowSymbol w, r.slot⟩)
    ∧ (∀ (i : Nat) (r : RA), s.acceptedRas p = [(i, r)] → tget? s.ras i = some r → r.part = p → r.slot = slot → s.waitingRas p = [] →
        (s.part p).stepEnd ≤ s.treeNow p → (s.part p).passDue = false → s.raLen i < r.result.length → (s.ras.map (·.1)).Nodup →
        let g := s.gang r.gang
        let gives := fun (t : State) => exec (.commitStep p) s = .next t
        (∀ k, s.kneadOf i = some k → ∃ t, gives t ∧ tget? t.ras i = none ∧ (t.part p).passDue = true ∧ s.treeNow p < (t.part p).stepEnd
          ∧ (t.part p).stepEnd ≤ s.treeNow p + s.moveBound k
              + writeBound (if r.failed then none else g.members.head?.map coreOf) (k.cells.headD r.cell) r.result.length
          ∧ k.cells.length = r.result.length
          ∧ (∀ (j c : Nat) (w : Word), k.cells[j]? = some c → r.result[j]? = some w → tget? t.row c = some ⟨rowSymbol w, slot⟩)
          ∧ (∀ m ∈ k.moves, m.2 ∉ k.cells ∧ tget? t.row m.2 = tget? s.row m.1)
          ∧ (∀ c, c ∉ k.cells → (∀ m ∈ k.moves, c ≠ m.1 ∧ c ≠ m.2) → tget? t.row c = tget? s.row c)
          ∧ (∀ j z m, tget? s.ras j = some z → j ≠ i → z.part = p → m ∈ k.moves → m.1 ∈ s.cellsBetween p z.slot z.cell (s.raLast j) →
              (tget? s.row m.1).isSome = true → (tget? t.ras j).isSome = true →
              s.treeNow p < (t.ra j).heldUntil ∧ (t.ra j).heldUntil ≤ max z.heldUntil (s.treeNow p + s.moveBound k)
                ∧ (z.heldUntil ≤ s.treeNow p → (t.ra j).heldUntil < (t.part p).stepEnd)))
        ∧ (s.kneadOf i = none → y.state = 2 → ∃ t, gives t
          ∧ ((t.ra i = { r with st := .waiting } ∧ t.row = s.row) ∨ ((t.launch l).state = 5 ∧ (t.launch l).fault = 1)))
        ∧ (s.kneadOf i = none → y.state = 3 → g.effects = false → (tget? s.gangs r.gang).isSome = true → g.ra = i → g.ending = none →
          ∃ t, gives t ∧ tget? t.gangs r.gang = none ∧ (∀ m ∈ g.members, (t.ctx m).status = .free) ∧ ((t.ra i).st = .marked ∨ (t.ra i).queue.isSome = true)
            ∧ (t.ra i).gang = 0 ∧ t.row = s.row))

/-- Page moves, the clock, write-outs, fault limits, pre-emption, checkpoint and resume (R77 and R78, R79, R81, R83,
R85, R86, R220, R312, R313, R314, R315, R316). That the clock's 64 free frames are counted beside those held back (log
53), that it counts a frame without an STT entry as not referenced (log 66), and which free frame a page takes (log
12) are the model's choices; that an effects gang's end waits for a fired store that cannot be performed is the
model's reading (log 20). -/
def Obligations.PagerFaultLimitsAndPreemption : Prop :=
  ∀ (s : State) (core part slot page : Nat), core < 64 → slot < 4 → page < 2 ^ 37 →
    let l := part * 4 + slot
    let key := pageKey l page
    (∀ e, tget? s.dir key = some e → e.lost = false → e.sealed = true → e.loc ≠ .moving →
      (e.copies.getLsbD core = true → ∃ t ent, exec (.sttMiss core part slot page false) s = .next t
        ∧ tget? t.stt (sttKey core key) = some ent ∧ ent.sealed = true ∧ t.dir = s.dir ∧ t.frames = s.frames)
      ∧ (e.copies.getLsbD core = false → ∃ t, exec (.sttMiss core part slot page false) s = .next t
        ∧ (∃ x ∈ t.xfers, x.page = key ∧ x.core = core) ∧ t.dir = s.dir ∧ t.stt = s.stt ∧ t.frames = s.frames))
    ∧ (∀ x f e, s.xfers.find? (fun x => x.page == key && x.core == core) = some x → s.freeFrame core = some f →
        s.usedFrames core + (s.core core).framesHeld < 4096 → tget? s.dir key = some e → e.sealed = true →
        ∃ t, exec (.pageArrival core part slot page) s = .next t ∧ tget? t.frames (core * 4096 + f) = some (.page key [])
          ∧ (t.dirE key).copies.getLsbD core = true ∧ (t.dirE key).data = e.data ∧ x ∉ t.xfers ∧ (tget? t.stt (sttKey core key)).isSome = true)
    ∧ (∀ e h f write, tget? s.dir key = some e → e.lost = false → e.sealed = false → e.loc = .scratch h f → h ≠ s.writerCore e →
        (∀ x ∈ s.xfers, x.page ≠ key) → ∃ t, exec (.sttMiss core part slot page write) s = .next t ∧ (t.dirE key).loc = .moving
          ∧ (t.dirE key).data = e.data ∧ t.frames = s.frames
          ∧ ∃ x ∈ t.xfers, x.page = key ∧ x.core = s.writerCore e ∧ x.from_ = .scratch h f ∧ x.open_ = true)
    ∧ (∀ x e h f0 f, part < 16 → s.xfers.find? (fun x => x.page == key && x.core == core) = some x → tget? s.dir key = some e → e.sealed = false →
        s.writerCore e = core → e.loc = .moving → x.from_ = .scratch h f0 → s.freeFrame core = some f →
        s.usedFrames core + (s.core core).framesHeld < 4096 → h * 4096 + f0 ≠ core * 4096 + f → x.needs.Nodup → (∀ j ∈ x.needs, j < 64) →
        ∃ t, exec (.pageArrival core part slot page) s = .next t ∧ (t.dirE key).loc = .scratch core f ∧ (t.dirE key).wcore = core
          ∧ (t.dirE key).data = e.data ∧ tget? t.frames (core * 4096 + f) = some (.page key []) ∧ tget? t.frames (h * 4096 + f0) = none
          ∧ x ∉ t.xfers ∧ (∀ j ∈ x.needs, ∃ ent, tget? t.stt (sttKey j key) = some ent ∧ ent.core = core ∧ ent.frame = f ∧ ent.remote = decide (j ≠ core))
          ∧ ∀ j < 64, j ∉ x.needs → tget? t.stt (sttKey j key) = none)
    ∧ (∀ x, s.xfers.find? (fun x => x.page == key && x.core == core) = some x → (s.dirE key).sealed = true → (tget? s.dir key).isSome = true →
        4096 ≤ s.usedFrames core + (s.core core).framesHeld → exec (.pageArrival core part slot page) s = .next s)
    ∧ (∀ u, s.tile? key = some u → ∃ t, exec (.writeOutEnd part slot page) s = .next t ∧ t.dir = s.dir
        ∧ t.tile? key = some (if u.st = .draining then { u with st := .ready } else u))
    ∧ (s.usedFrames core + (s.core core).framesHeld ≤ 4032 → exec (.secondChanceClock core) s = .next s)
    ∧ (4032 < s.usedFrames core + (s.core core).framesHeld → ∀ (k : Nat), let i := (s.core core).hand % 4096
        tget? s.frames (core * 4096 + i) = some (.page k []) → s.clockSkips (.page k []) = false →
        (∀ ent, tget? s.stt (sttKey core k) = some ent → ent.referenced = false) → (s.dirE k).sealed = true →
        (s.dirE k).copies &&& ~~~(BitVec.ofNat 64 (2 ^ core)) ≠ 0 →
        ∃ t, exec (.secondChanceClock core) s = .next t ∧ tget? t.frames (core * 4096 + i) = none ∧ (t.core core).hand = (i + 1) % 4096
          ∧ (t.dirE k).copies.getLsbD core = false ∧ (t.dirE k).data = (s.dirE k).data)
    ∧ (∀ gang, let gk := part * 65536 + gang
        let g := s.gang gk
        (s.overLimit gk = none → exec (.faultLimitExpiry part gang) s = .next s)
        ∧ (∀ why, s.overLimit gk = some why → tget? s.saved gk = none → (tget? s.gangs gk).isSome = true → (s.ra g.ra).st ≠ .accepted →
            g.ending = none → (s.ras.map (·.1)).Nodup →
            (s.endWaits gk = true → ∃ t, exec (.faultLimitExpiry part gang) s = .next t ∧ (t.gang gk).ending.isSome = true
              ∧ ∀ m ∈ g.members, (s.ctx m).status = .running → (t.ctx m).status = .halted)
            ∧ (s.endWaits gk = false → ∃ t, exec (.faultLimitExpiry part gang) s = .next t ∧ tget? t.gangs gk = none ∧ (∀ m ∈ g.members, (t.ctx m).status = .free)
              ∧ (if (s.ra g.ra).strikes < 3 then (t.ra g.ra).strikes = (s.ra g.ra).strikes + 1 ∧ ((t.ra g.ra).st = .marked ∨ (t.ra g.ra).queue.isSome = true)
                else (t.ra g.ra).st = .accepted ∧ (t.ra g.ra).result = [errAtom (if why.isLog then 7 else 5)]))))
    ∧ (∀ v : Word, let st := (s.launch l).state
        let p := s.part part
        let named := (List.range 4).filter fun i => v.getLsbD (4 + i)
        v.extractLsb' 8 56 = 0 → v.getLsbD 2 = false → v.getLsbD 3 = false → named = [slot] → (tget? s.parts part).isSome = true →
        (p.preBusy = true ∨ v.extractLsb' 0 2 = 0 ∨ v.extractLsb' 0 2 = 3 →
          exec (.preempt part v) s = .next s ∧ exec (.resume part v) s = .next s)
        ∧ (p.preBusy = false → v.extractLsb' 0 2 = 1 → st = 2 → ∃ t, exec (.preempt part v) s = .next t ∧ (t.launch l).state = 3
            ∧ (t.part part).preBusy = true ∧ (∃ till, (t.part part).preHalt = some till ∧ s.clock ≤ till ∧ till < s.clock + 10800)
            ∧ ∀ k x, tget? t.ctxs k = some x → x.status ≠ .free → t.launchOf k = l → x.preReq = true ∧ x.event = true)
        ∧ (p.preBusy = false → v.extractLsb' 0 2 = 2 → st = 3 → ∃ t, exec (.resume part v) s = .next t ∧ (t.launch l).state = 2
            ∧ t.gangs = s.gangs ∧ t.ctxs = s.ctxs))
    ∧ ((s.part part).preBusy = true → (s.part part).preHalt = none → (∀ e ∈ s.gangs, e.2.part = part → e.2.closing = none) → part < 16 →
        ∃ t, exec (.preemptComplete part) s = .next t ∧ (t.part part).preBusy = false
          ∧ (if s.dev.masked.getLsbD (6 * part + 5) then t.dev.pending.getLsbD (6 * part + 5) = true else t.dev.sent = .msix (6 * part + 5) :: s.dev.sent))
    ∧ (∀ gk g since a, (s.part part).preBusy = true → (s.part part).preHalt = none → tget? s.gangs gk = some g → g.part = part → g.slot = slot →
        g.closing = some since → (s.gangs.map (·.1)).Nodup → (∀ e ∈ s.gangs, e.2.part = part → e.1 = gk) → g.members.Nodup →
        (∀ m ∈ g.members, (s.ctx m).gang = gk) → s.closed gk since = true → s.tokensOver gk = false →
        (s.launch l).nextPage + (g.members.map s.memberPages).sum ≤ 2 ^ 37 → s.saveMembers gk g.members = some a →
        ∃ t sg, exec (.preemptComplete part) s = .next t ∧ (t.part part).preBusy = false ∧ tget? t.gangs gk = none ∧ tget? t.saved gk = some sg
          ∧ (t.ra g.ra).saved = some gk ∧ sg.members.length = g.members.length ∧ (∀ m ∈ g.members, (t.ctx m).status = .free)
          ∧ ∀ (r m : Nat) (sv : Saved), g.members[r]? = some m → sg.members[r]? = some sv →
              sv.ctx = { s.ctx m with status := .placed }
              ∧ (∀ e ∈ s.elems, e.1 / 4096 = coreOf m → elemQuad e.1 ∈ (s.ctx m).quads → e ∈ sv.elems)
              ∧ (∀ e ∈ s.islands, e.1 / 8 = coreOf m → e.1 % 8 / 2 ∈ (s.ctx m).quads → e ∈ sv.islands)
              ∧ ((∀ j < r, ∀ o, g.members[j]? = some o → coreOf o ≠ coreOf m) → ∀ b < 32, let z := s.bar (coreOf m * 32 + b)
                  z.gang = some gk → (b, z.expected, z.arrivals, z.phase) ∈ sv.bars))
    ∧ (∀ (ctx : Nat) (sg : SavedGang) (b s1 : State), let x := s.ctx (core * 8 + ctx)
        let gk := x.gang
        let g := s.gang gk
        let ms := g.members.zip sg.members
        x.status = .placed → g.started = false → (∀ m ∈ g.members, (g.part, g.slot, g.op) ∈ (s.core (coreOf m)).code) → tget? s.saved gk = some sg →
        g.members.Nodup → sg.members.length = g.members.length → sg.pushes = [] → (∀ sv ∈ sg.members, sv.engines = [] ∧ (sv.bars.map (·.1)).Nodup) →
        (∀ m ∈ ms, ∀ m' ∈ ms, m.1 ≠ m'.1 → coreOf m.1 = coreOf m'.1 → m.2.bars = [] ∨ m'.2.bars = []) →
        (∀ m ∈ ms, ∀ z ∈ m.2.bars, z.1 < 32 ∧ ∀ o, (s.bar (coreOf m.1 * 32 + z.1)).gang = some o → o = gk) →
        s.bringAll ms = (b, true) → sg.pageLost b (g.part * 4 + g.slot) = false → b.restoreRegions ms = .ok s1 →
        ∃ t, exec (.contextStart core ctx) s = .next t ∧ tget? t.saved gk = none ∧ (t.gang gk).started = true
          ∧ ∀ (r m : Nat) (sv : Saved), g.members[r]? = some m → sg.members[r]? = some sv → let y := t.ctx m
              let z := sv.ctx
              y.status = .running ∧ y.gang = gk ∧ y.pc = z.pc ∧ y.g = z.g ∧ y.p = z.p ∧ y.h = z.h ∧ y.event = z.event ∧ y.handler = z.handler
              ∧ y.trapCause = z.trapCause ∧ y.trapPc = z.trapPc ∧ y.trapAddr = z.trapAddr ∧ y.trapVec = z.trapVec
              ∧ y.fxFlags = z.fxFlags ∧ y.fxMode = z.fxMode ∧ y.quads = (s1.ctx m).quads
              ∧ ∀ v ∈ sv.bars, t.bar (coreOf m * 32 + v.1) = { gang := some gk, expected := v.2.1, arrivals := v.2.2.1, phase := v.2.2.2 })

/-- Uncorrectable and corrected errors, the fencing of a core and of a slice, the margin planner, ports (R4, R6, R91,
R311, R317, R319, R320, R325, R329, R336). That a region whose proof wave is under way counts as active is the model's
reading of R140 (log 84); that the coming up of a port other than port 0 has no effect before BOOTSTS reads 3 is the
model's choice, which takes the training of those ports and the steps after it as one with the firmware check (log
72). -/
def Obligations.ErrorsFencingAndMargin : Prop :=
  (∀ (s : State) (u : Nat), let c := s.core u
      let now := s.hours
      let t := s.countError u
      (t.core u).uncorrected = now :: c.uncorrected ∧ (t.core u).bin = c.bin
      ∧ (t.core u).fenced = (c.fenced || match c.uncorrected with | h :: _ => decide (now ≤ h + 24) | [] => false)
      ∧ ∀ v, v ≠ u → t.core v = s.core v)
  ∧ (∀ (s : State) (core ctx cell row col isl q part slot page plan line launch entry : Nat) (m : BitVec 4), core < 64 → part < 16 → slot < 4 → page < 2 ^ 37 →
      let n := s.countError core
      let hit := fun (e : ErrAt) (t : State) => exec (.uncorrectableError e) s = .next t
      let key := pageKey (part * 4 + slot) page
      (∀ lvl, exec (.uncorrectableError (.nodeCell lvl cell)) s = .next (if lvl ≤ 4 then s.countError (cell / 4 ^ (4 - lvl)) else s))
      ∧ hit (.icache core) n
      ∧ (∃ t, hit (.configInactive core launch entry) t ∧ t.images = s.images ∧ t.elems = s.elems
          ∧ t.cfg = s.cfg.filter fun y => !(y.core == core && y.launch == launch && y.entry == entry && !n.cfgPinned y))
      ∧ (tget? s.l2 (l2Key q line) = some false → ∃ t, hit (.cleanL2 q line) t ∧ tget? t.l2 (l2Key q line) = none ∧ t.mem = s.mem
          ∧ (t.core (sliceUnit q)).uncorrected = s.hours :: (s.core (sliceUnit q)).uncorrected)
      ∧ (∀ x p, tget? s.row cell = some x → s.partOf (cell / 256) = some p → ∃ t, hit (.leafCell cell) t ∧ (t.launch (p * 4 + x.slot)).state = 5
          ∧ (t.launch (p * 4 + x.slot)).fault = 3 ∧ (t.core (cell / 256)).uncorrected = s.hours :: (s.core (cell / 256)).uncorrected)
      ∧ ((s.ctx (core * 8 + ctx)).status = .running → hit (.contextState core ctx) (n.takeTrap (core * 8 + ctx) ⟨0x0B, 0, 0⟩))
      ∧ (∀ e, let holds := fun (q : Nat) => s.ctxs.find? (fun e => coreOf e.1 == core && e.2.status != .free && e.2.status != .placed && e.2.quads.contains q)
          (holds (quadOf row col) = some e → hit (.elementState core row col) (n.eccFatal e.2.gang))
          ∧ (holds (isl / 2) = some e → hit (.islandBank core isl) (n.eccFatal e.2.gang)))
      ∧ (tget? s.l1d (l1dKey core (64 * line)) = some false → ∃ t, hit (.cleanLine core line) t ∧ tget? t.l1d (l1dKey core (64 * line)) = none ∧ t.mem = s.mem)
      ∧ (∀ k, s.resolve part (64 * line) = some (.mem k) → ∃ t, hit (.dirtyLine part line) t ∧ k / 64 ∈ t.poison ∧ t.mem = s.mem
          ∧ ∀ u, s.lineUnit part line = some u → (t.core u).uncorrected = s.hours :: (s.core u).uncorrected)
      ∧ (s.images.find? (fun i => i.1 / 4 == core && (i.2.active || !i.2.proved) && i.2.quads.any fun j => m.getLsbD j) = none → hit (.configActive core m) n)
      ∧ (∀ i, s.images.find? (fun i => i.1 / 4 == core && (i.2.active || !i.2.proved) && i.2.quads.any fun j => m.getLsbD j) = some i →
          (1 ≤ i.2.errors → hit (.configActive core m) (n.eccFatal (s.ctx i.2.ctx).gang))
          ∧ (i.2.errors = 0 → ∀ s1 d gs, (n.cfgDrop core (s.launchOf i.2.ctx) i.2.img.ccid true).reloadImage i.2.ctx i.2.quads i.2 = .ok (s1, d, gs) → ∃ t im, hit (.configActive core m) t
              ∧ tget? t.images i.1 = some im ∧ im.errors = 1 ∧ im.proved = false ∧ im.img = d
              ∧ ∀ j, (t.elem j).qN = (s.elem j).qN ∧ (t.elem j).lreg = (s.elem j).lreg ∧ (t.elem j).preds = (s.elem j).preds))
      ∧ (∀ f k pins, tget? s.frames (core * 4096 + f) = some (.page k pins) → (s.dirE k).sealed = true → (s.dirE k).loc = .scratch core f →
          (s.dirE k).copies = BitVec.ofNat 64 (2 ^ core) → (s.dirE k).backed = false →
          ∃ t, hit (.frame core f) t ∧ (t.dirE k).lost = true ∧ (t.dirE k).data = [] ∧ tget? t.frames (core * 4096 + f) = none)
      ∧ (∀ f k o, tget? s.spills (q * 6144 + f) = some (.page k o) → (s.dirE k).sealed = true → (s.dirE k).copies = 0 → (s.dirE k).backed = false →
          ∃ t, hit (.spillFrame q f) t ∧ (t.dirE k).lost = true ∧ tget? t.spills (q * 6144 + f) = none)
      ∧ ((tget? s.dir key).isSome = true → ∃ t, hit (.dirEntry part slot page) t ∧ (t.dirE key).lost = true ∧ (t.dirE key).data = [])
      ∧ (∀ pl, tget? s.plans (part * 8192 + plan) = some pl → pl.done < pl.fires → pl.poisoned = none → ∃ t, hit (.staging part plan) t
          ∧ tget? t.plans (part * 8192 + plan) = some { pl with poisoned := some (pl.done + 1) }))
  ∧ (∀ (s : State) (core array : Nat), ∃ t, exec (.correctedError core array) s = .next t
      ∧ (let l := (s.hours, array) :: (s.core core).corrected.filter fun e => decide (s.hours ≤ e.1 + 24)
         (t.core core).corrected = l ∧ (t.core core).fenced = ((s.core core).fenced || decide (1024 ≤ (l.filter fun e => e.2 == array).length)))
      ∧ t.mem = s.mem)
  ∧ (∀ (s : State) (core p : Nat), core < 64 →
      (s.fenceBegun core = false → exec (.fenceCore core) s = .next s)
      ∧ (s.fenceBegun core = true → s.partOf core = some p → s.gangsOn core = [] → (∀ e ∈ s.gangs, e.2.part = p → e.2.closing = none) →
          (∀ x ∈ s.xfers, x.core ≠ core ∧ ∀ f, x.from_ ≠ .scratch core f) → s.pageFrames core = [] →
          ∃ t, exec (.fenceCore core) s = .next t ∧ t.dev.fencedCores.getLsbD core = true ∧ t.corePresent core = false
            ∧ (t.part p).errsts.getLsbD 0 = true ∧ (∀ e ∈ t.tlb, e.core ≠ core)))
  ∧ (∀ (s : State) (slice p : Nat), slice < 64 → (s.core (sliceUnit slice)).fenced = true → s.dev.fusedSlices.getLsbD slice = false →
      s.dev.fencedSlices.getLsbD slice = false → s.partOfSlice slice = some p → (s.part p).slBusy = false → slice ∈ (s.part p).map →
      (∃ j ∈ (s.part p).map, j ≠ slice) → ∃ t, exec (.fenceSlice slice) s = .next t ∧ t.dev.fencedSlices.getLsbD slice = true
        ∧ (t.part p).map = (s.part p).map.filter (· != slice) ∧ (t.part p).oldMap = (s.part p).map ∧ (t.part p).gen = (s.part p).gen + 1
        ∧ (t.part p).slBusy = true ∧ (t.part p).errsts.getLsbD 1 = true)
  ∧ (∀ (s : State) (unit : Nat) (bins : List (Nat × Nat)), (bins.map (·.1)).Nodup →
      (if s.unitPresent unit then ∃ t, exec (.marginAlarm unit bins) s = .next t
        ∧ t.dev.alarms = s.dev.alarms + 1 ∧ t.dev.planHour = s.hours ∧ t.mem = s.mem
        ∧ (∀ b ∈ bins, s.corePresent b.1 = true → b.2 < 4 → (t.core b.1).bin = b.2)
        ∧ (∀ b ∈ bins, s.unitPresent b.1 = true → 4 ≤ b.2 → (t.core b.1).fenced = true)
      else exec (.marginAlarm unit bins) s = .next s)
      ∧ (s.dev.bootsts = 3 → s.dev.planHour + 2000 ≤ s.hours → ∃ t, exec (.marginPlanTimer bins) s = .next t ∧ t.dev.planHour = s.hours
        ∧ ∀ b ∈ bins, s.corePresent b.1 = true → b.2 < 4 → (t.core b.1).bin = b.2)
      ∧ (∃ t, exec (.thermalAlarm bins) s = .next t ∧ t.mem = s.mem ∧ ∀ b ∈ bins, s.corePresent b.1 = true → b.2 < 4 →
          (t.core b.1).bin = max (s.core b.1).bin b.2))
  ∧ (∀ (s : State) (port : Nat) (x16 fast : Bool), port < 32 →
      let told := fun (t : State) => t.mem = s.mem ∧ ∀ e ∈ s.parts, (t.part e.1).errsts.getLsbD 2 = true
      ((tgetD s.dev.ports port {}).up = true → ∃ t, exec (.portDown port) s = .next t ∧ (tgetD t.dev.ports port {}).up = false ∧ told t)
      ∧ (port ≠ 0 → s.dev.bootsts ≠ 3 → exec (.portUp port x16 fast) s = .next s)
      ∧ ((port = 0 ∨ s.dev.bootsts = 3) → tgetD s.dev.ports port {} ≠ ⟨true, x16, fast⟩ → ∃ t, exec (.portUp port x16 fast) s = .next t
          ∧ tgetD t.dev.ports port {} = ⟨true, x16, fast⟩ ∧ told t))

/-- The register windows: routes, split, map, invalidations, ERRSTS, MSI-X, partitions, boot, reset (R25, R33, R34,
R40, R43, R44, R321 and R322, R325 and R326, R327, R334, R337). The zero bits of a route entry, SLGEN on exactly 1 and
PDEF's ignored bits are the model's reading (log 58), that the slices of a cluster count as granted whether they are
live or not is the model's reading (log 76), the completion of a map change the model's choice (log 47), what reset
keeps and clears the model's reading (log 50). -/
def Obligations.RegistersPartitionsAndBoot : Prop :=
  ∀ (s : State) (p : Nat) (v : Word), let x := s.part p
    let defined := (tget? s.parts p).isSome = true
    (∀ g, let ok := defined ∧ g < 2048 ∧ v.extractLsb' 0 32 &&& ~~~(x.ports ||| 1) = 0
        (ok → exec (.routeTableWrite p g v) s = .next (s.updPart p fun y => { y with routes := tset y.routes g (v &&& 0xFFF80000FFFFFFFF) }))
        ∧ (¬ ok → exec (.routeTableWrite p g v) s = .next s))
    ∧ (∀ j, let ok := defined ∧ j < 64 ∧ x.clusters.getLsbD (j / 4) = true ∧ v.extractLsb' 12 52 = 0
          ∧ v.extractLsb' 4 4 = 0 ∧ pinnedMiB v + spillMiB v ≤ 12
        (ok → exec (.slcfgWrite p j v) s = .next (s.updPart p fun y => { y with slcfg := tset y.slcfg j v }))
        ∧ (¬ ok → exec (.slcfgWrite p j v) s = .next s))
    ∧ (defined → (v ≠ 1 → exec (.sliceMapCommit p v) s = .next s)
        ∧ (∀ m, v = 1 → x.staged = some m → x.slBusy = false → m ≠ [] → m.Nodup → (∀ j ∈ m, x.clusters.getLsbD (j / 4) = true ∧ s.sliceLive j = true) →
            ∃ t, exec (.sliceMapCommit p v) s = .next t ∧ (t.part p).map = m ∧ (t.part p).oldMap = x.map ∧ (t.part p).gen = x.gen + 1
              ∧ (t.part p).slBusy = true ∧ (t.part p).slRejected = false ∧ (t.part p).split = x.slcfg)
        ∧ (v = 1 → (x.staged = none ∨ x.slBusy = true) → exec (.sliceMapCommit p v) s = .next (s.updPart p fun y => { y with slRejected := true })))
    ∧ (if x.slBusy then ∃ t, exec (.mapChangeComplete p) s = .next t ∧ (t.part p).map = x.map
          ∧ ((t.part p).slBusy = false → (t.part p).oldMap = [])
          ∧ ((∀ e ∈ s.spills, x.clusters.getLsbD (e.1 / 6144 / 4) = false) → (∀ e ∈ s.dir, keyLaunch e.1 / 4 ≠ p) → (t.part p).slBusy = false)
      else exec (.mapChangeComplete p) s = .next s)
    ∧ (∀ y ∈ [(Instr.dvinvPage p v, 0), (.dvinvLaunch p v, 1), (.dvinvPartition p v, 2)],
        let ok := defined ∧ x.dvinv = none ∧ dvinvOk v = true ∧ dvKind v = y.2
        (ok → ∃ t, exec y.1 s = .next t ∧ (t.part p).dvinv = some v)
        ∧ (ok → (∀ g ∈ s.gangs, s.dvinvHits p v g.2 = true → s.storesPending g.1 = false) →
            (∀ e ∈ s.dvinvEngines p v, ∀ r ∈ (s.engine e).runs, dvinvMeets v (4096 * r.page) (4096 * r.count) = false) →
            ∃ t, exec y.1 s = .next t ∧ t.mem = s.mem
            ∧ t.tlb = s.tlb.filter (fun e => !(e.part == p && dvinvSlot v e.slot && dvinvMeets v (e.vpage * 2 ^ e.bits) (2 ^ e.bits)))
            ∧ ∀ e ∈ t.ptc, e.part = p → dvinvSlot v e.slot = true → dvinvMeets v (e.vpage * 2 ^ lvlShift e.lvl) (2 ^ lvlShift e.lvl) = false)
        ∧ (¬ ok → exec y.1 s = .next s))
    ∧ (x.dvinv = none → exec (.dvinvComplete p) s = .next s)
    ∧ (∀ w, x.dvinv = some w → let ras := x.dvinvRas.filter fun i => (tget? s.ras i).isSome
        ((∀ i ∈ ras, (s.ra i).st ≠ .waiting) → exec (.dvinvComplete p) s = .next (if ras.any s.accepted then s
          else s.updPart p fun y => { y with dvinv := none, dvinvRas := [] }))
        ∧ (ras.any s.accepted = false → ∃ t, exec (.dvinvComplete p) s = .next t ∧ (t.part p).dvinv = none))
    ∧ (defined → exec (.errstsClear p v) s = .next (s.updPart p fun y => { y with errsts := y.errsts &&& ~~~(v.extractLsb' 0 4) }))
    ∧ (∀ lo hi : Word, let clusters := lo.extractLsb' 0 16
        let ports := hi.extractLsb' 0 32
        let ok := s.dev.bootsts = 3 ∧ p < 16 ∧ lo.getLsbD 63 = true ∧ ¬ defined ∧ ports.getLsbD 0 = false ∧ clusters ≠ 0
          ∧ ∀ e ∈ s.parts, e.2.clusters &&& clusters = 0 ∧ e.2.ports &&& ports = 0
        (ok → ∃ t, exec (.partitionCreate p lo hi) s = .next t ∧ (tget? t.parts p).isSome = true ∧ (t.part p).clusters = clusters
            ∧ (t.part p).ports = ports ∧ (t.part p).created = s.clock ∧ (t.part p).routes = [] ∧ t.launches = s.launches
            ∧ (∀ j, j ∈ (t.part p).map ↔ j < 64 ∧ clusters.getLsbD (j / 4) = true ∧ s.sliceLive j = true)
            ∧ (∀ e ∈ t.spills, clusters.getLsbD (e.1 / 6144 / 4) = false)
            ∧ (∀ a, mget t.mem a = if a / 2 ^ 52 = 4096 + p then 0 else mget s.mem a))
        ∧ (¬ ok → exec (.partitionCreate p lo hi) s = .next s)
        ∧ (s.dev.bootsts = 3 → lo.getLsbD 63 = false → defined → (∀ i < 4, (s.launch (p * 4 + i)).state = 0) →
            ∃ t, exec (.partitionDelete p lo) s = .next t ∧ tget? t.parts p = none ∧ (∀ q, q ≠ p → t.part q = s.part q) ∧ ∀ e ∈ t.tlb, e.part ≠ p)
        ∧ ((∃ i < 4, (s.launch (p * 4 + i)).state ≠ 0) → exec (.partitionDelete p lo) s = .next s))
    ∧ (exec (.bootgo v) s = .next (if s.portUp 0 = true ∧ s.dev.bootsts = 0 ∧ 16225 ≤ v.toNat ∧ v.toNat ≤ 524288
        then { s with dev := { s.dev with bootsts := 1, fwLen := v.toNat } } else s))
    ∧ (let image := mgetN s.dev.staging 0 s.dev.fwLen
       s.dev.bootsts = 1 → ∃ t, exec .firmwareCheck s = .next t ∧ t.mem = s.mem
         ∧ t.dev.bootsts = (if Config.slhDsaVerifies image then 3 else 2) ∧ (Config.slhDsaVerifies image = true → t.dev.firmware = image))
    ∧ (∀ n < 96, ∃ t, exec (.msixUnmask n) s = .next t ∧ t.dev.masked.getLsbD n = false ∧ t.dev.pending.getLsbD n = false
        ∧ t.dev.sent = (if s.dev.pending.getLsbD n then [.msix n] else []) ++ s.dev.sent ∧ t.mem = s.mem)
    ∧ (∃ t, exec .reset s = .next t ∧ t.dev.bootsts = 0 ∧ t.parts = [] ∧ t.launches = [] ∧ t.ctxs = [] ∧ t.gangs = [] ∧ t.images = [] ∧ t.row = []
        ∧ t.tiles = [] ∧ t.clock = 0 ∧ t.dev.grade = s.dev.grade ∧ t.dev.fusedCores = s.dev.fusedCores ∧ t.dev.fusedSlices = s.dev.fusedSlices)

/-- Which offset of BAR0 and BAR2 is which register (R25, R33, R40, R43, R312, R321, R322, R323, R324, R325, R327,
R334). That doubleword 1 of a PDEF is taken only while the partition is not defined is the model's reading (logs 58,
68); that the staging aperture takes a write of 1 to 8 bytes at any offset, and a register of the management window
aligned 8-byte writes only, is the model's reading too (log 68). -/
def Obligations.RegisterWindowsReachTheRegisters : Prop :=
  ∀ (s : State) (p off i : Nat) (v : Word), p < 16 → (tget? s.parts p).isSome = true →
    let base := p * 0x10000
    let reaches := fun (off : Nat) (e : Instr) => exec (.registerWrite 0 (base + off) ⟨8, v⟩) s = exec e s
      ∧ (s.dev.bootsts = 3 → exec (.registerWrite 2 (0x100000 + base + off) ⟨8, v⟩) s = exec e s)
    let manages := fun (off : Nat) (e : Instr) => exec (.registerWrite 0 (base + off) ⟨8, v⟩) s = .next s
      ∧ (s.dev.bootsts = 3 → exec (.registerWrite 2 (0x100000 + base + off) ⟨8, v⟩) s = exec e s)
    reaches 0 (.launch p v)
    ∧ reaches 8 (if v.getLsbD 0 then .preempt p v else .resume p v)
    ∧ (i < 4 → reaches (0x10 + 8 * i) (.statusFree p i v))
    ∧ reaches 0x100 (if dvKind v = 0 then .dvinvPage p v else if dvKind v = 1 then .dvinvLaunch p v else .dvinvPartition p v)
    ∧ reaches 0x108 (.errstsClear p v)
    ∧ (i < 2048 → manages (0x1000 + 8 * i) (.routeTableWrite p i v))
    ∧ (i < 64 → manages (0x5000 + 8 * i) (.slcfgWrite p i v))
    ∧ manages 0x5240 (.sliceMapCommit p v)
    ∧ exec (.registerWrite 2 0x8000 ⟨8, v⟩) s = exec (.bootgo v) s
    ∧ (s.dev.bootsts = 3 → exec (.registerWrite 2 (16 * p + 8) ⟨8, v⟩) s = .next s)
    ∧ (s.dev.bootsts = 3 → ∀ q < 16, tget? s.parts q = none → exec (.registerWrite 2 (16 * q + 8) ⟨8, v⟩) s =
        .next { s with dev := { s.dev with pdef := tset s.dev.pdef q (v &&& 0xFFFFFFFF) } })
    ∧ (s.portUp 0 = true → s.dev.bootsts = 0 → ∀ size, 0 < size → size ≤ 8 → off + size ≤ 0x80000 → exec (.registerWrite 2 (0x80000 + off) ⟨size, v⟩) s =
        .next { s with dev := { s.dev with staging := msetN s.dev.staging off (toBytes v.toNat size) } })
    ∧ (s.dev.bootsts = 3 → exec (.registerWrite 2 (16 * p) ⟨8, v⟩) s =
        if v.getLsbD 63 then exec (.partitionCreate p v (tgetD s.dev.pdef p 0)) s else exec (.partitionDelete p v) s)
    ∧ (∀ bar size, (off % 8 ≠ 0 ∨ size ≠ 8) → (bar = 2 → off < 0x80000 ∨ 0x100000 ≤ off) → exec (.registerWrite bar off ⟨size, v⟩) s = .next s)
    ∧ (∀ bar size, bar ≠ 0 → bar ≠ 2 → exec (.registerWrite bar off ⟨size, v⟩) s = .next s)
    ∧ (∀ q size, q < 16 → tget? s.parts q = none → off < 0x10000 → exec (.registerWrite 0 (q * 0x10000 + off) ⟨size, v⟩) s = .next s)

/-- Inbound UIO requests, translations of host pages, SPDM (R23, R36, R37, R252, R318, R335). The abort of an atomic
of a poisoned line is the model's reading (log 59); that the limit counts from the later of the Page Request and the
stream's own wait, and that an answer meets the older of a read and a write request of a page, are the model's (log
71); the contents of the SPDM answers are the model's choice (log 7). -/
def Obligations.PeersHostPagesAndAttestation : Prop :=
  ∀ (s : State),
    (∀ (req : UioReq), let at_ := s.resolve req.part (2 ^ 51 + req.dpa)
      let legal := (tget? s.parts req.part).isSome = true ∧ req.dpa < 2 ^ 40
        ∧ (req.dpa < 0x30000000 → req.dpa + req.size ≤ (s.part req.part).pinnedCap)
      let answers := fun (t : State) (m : Msg) => exec (.uioRequest req) s = .next t ∧ t.dev.sent = m :: s.dev.sent
      (¬ legal ∨ at_ = none → exec (.uioRequest req) s = .next (s.send .uioUnsupported))
      ∧ (legal → ∀ key, at_ = some (.mem key) →
          (req.kind = .read → exec (.uioRequest req) s =
            .next (s.send (if ∃ l ∈ s.poison, 64 * l < key + req.size ∧ key < 64 * l + 64 then .uioAbort else .uioData (mgetN s.mem key req.size))))
          ∧ (∀ bs, req.kind = .write bs → bs.length = req.size → ∃ t, answers t .uioDone ∧ t.mem = msetN s.mem key bs
              ∧ (∀ l, key ≤ 64 * l → 64 * l + 64 ≤ key + req.size → l ∉ t.poison))
          ∧ (∀ op v e, req.kind = .atomic op v e → let n := if op = 7 then 4 else 8
              let old := mgetN s.mem key n
              req.size = n → req.dpa % n = 0 →
              (key / 64 ∈ s.poison → answers (s.send .uioAbort) .uioAbort)
              ∧ (key / 64 ∉ s.poison → ∃ t, answers t (.uioData old)
                ∧ t.mem = msetN s.mem key (toBytes (uioAtomic op (BitVec.ofNat 64 (ofBytes old)) v e).toNat n))))
      ∧ (legal → ∀ m bs, at_ = some (.trig m) → req.kind = .write bs → req.size = 8 → req.dpa % 8 = 0 →
          (∀ pl, tget? s.plans (req.part * 8192 + m) = some pl → pl.dropped = false → ∃ t, exec (.uioRequest req) s = .next t ∧ t.mem = s.mem
            ∧ tget? t.plans (req.part * 8192 + m) = some { pl with fires := pl.fires + 1 })
          ∧ (tget? s.plans (req.part * 8192 + m) = none → exec (.uioRequest req) s = .next (s.send .uioUnsupported))))
    ∧ (∀ (pasid page : Nat),
      (∀ (q : HostReq) (rd wr : Bool), s.dev.transReqs.find? (·.names pasid page) = some q →
        let granted := if q.write then wr else rd
        (granted = true → ∃ t, exec (.translationCompletion pasid page rd wr) s = .next t ∧ (⟨pasid, page, rd, wr⟩ : AtcEnt) ∈ t.dev.atc
          ∧ t.dev.transReqs = s.dev.transReqs.erase q ∧ t.dev.pageReqs = s.dev.pageReqs)
        ∧ (granted = false → s.prgs q.part < 32 → (∀ e ∈ s.dev.pageWait, e.part ≠ q.part) → ∃ t, exec (.translationCompletion pasid page rd wr) s = .next t
          ∧ t.dev.pageReqs = s.dev.pageReqs ++ [{ q with since := s.clock }] ∧ t.dev.sent = .pageRequest pasid page q.write :: s.dev.sent
          ∧ t.dev.transReqs = s.dev.transReqs.erase q)
        ∧ (granted = false → 32 ≤ s.prgs q.part → ∃ t, exec (.translationCompletion pasid page rd wr) s = .next t
          ∧ t.dev.pageWait = s.dev.pageWait ++ [q] ∧ t.dev.pageReqs = s.dev.pageReqs
          ∧ t.dev.transReqs = s.dev.transReqs.erase q))
      ∧ (∀ (q : HostReq), s.dev.pageReqs.find? (·.names pasid page) = some q →
        let next := s.dev.pageWait.find? fun e => e.part == q.part
        (∀ w ok, next = some w → s.prgs q.part ≤ 32 → ∃ t, exec (.pageGroupResponse pasid page ok) s = .next t
          ∧ t.dev.pageReqs = s.dev.pageReqs.erase q ++ [{ w with since := s.clock }] ∧ t.dev.pageWait = s.dev.pageWait.erase w)
        ∧ (next = none → ∃ t, exec (.pageGroupResponse pasid page true) s = .next t ∧ t.dev.transReqs = s.dev.transReqs ++ [{ q with since := s.clock }]
          ∧ t.dev.sent = .transRequest pasid page q.write :: s.dev.sent ∧ t.dev.pageReqs = s.dev.pageReqs.erase q)
        ∧ (next = none → (s.engines.map (·.1)).Nodup → (∀ e ∈ s.engines, (s.hostUse e.2 pasid page q.write).isSome = true → recSrcKind e.2.record ≠ 4) →
          ∃ t, exec (.pageGroupResponse pasid page false) s = .next t ∧ t.dev.pageReqs = s.dev.pageReqs.erase q
            ∧ ∀ e ∈ s.engines, ∀ n, s.hostUse e.2 pasid page q.write = some n → (t.engine e.1).st = .faulted
                ∧ (t.engine e.1).fault = some (4, 6, BitVec.ofNat 64 n) ∧ (t.engine e.1).n = e.2.n))
      ∧ (∃ t, exec (.atsInvalidateRequest pasid page) s = .next t ∧ t.dev.sent = .invalComplete pasid page :: s.dev.sent ∧ t.mem = s.mem
          ∧ t.dev.atc = s.dev.atc.filter fun e => !(e.pasid == pasid && e.page == page)))
    ∧ (∀ (core eng n : Nat) (q : HostReq), let e := core * 16 + eng
        let g := s.engine e
        s.dev.pageReqs = [q] → s.hostUse g q.pasid q.page q.write = some n →
        let limit := 2700 * (s.launch (s.launchOf g.ctx)).faultLimit
        let late := q.since + limit ≤ s.clock ∧ ∃ w, g.wait = some w ∧ w.since + limit ≤ s.clock
        (¬ late → exec (.priTimeout core eng) s = .next s)
        ∧ (late → ∃ t, exec (.priTimeout core eng) s = .next t ∧ (t.engine e).st = .faulted ∧ (t.engine e).fault = some (4, 6, BitVec.ofNat 64 n)
            ∧ (t.engine e).n = g.n ∧ (t.engine e).held = []))
    ∧ (∀ (nonce index : Nat),
      let answered := fun (i : Instr) (code : Nat) (before : List Nat) (data : List Byte) => ∃ t, exec i s = .next t
        ∧ t.dev.sent = .spdm code data :: s.dev.sent ∧ t.dev.spdm = code :: before ∧ t.mem = s.mem
      let past := s.dev.spdm
      let signed := fun (b : List Byte) => b ++ Config.slhDsaSign b
      answered .getVersion 1 [] (Config.spdmAnswer 1 []) ∧ answered .getCapabilities 2 past (Config.spdmAnswer 2 past)
      ∧ answered .negotiateAlgorithms 3 past (Config.spdmAnswer 3 past) ∧ answered .getDigests 4 past (Config.spdmAnswer 4 past)
      ∧ answered .getCertificate 5 past (Config.spdmAnswer 5 past) ∧ answered (.challenge nonce) 6 past (signed (Config.spdmAnswer 6 (nonce :: past)))
      ∧ (1 ≤ index → index ≤ 5 → answered (.getMeasurements index) 7 past (signed (s.dev.measure index)))
      ∧ answered (.getMeasurements 2) 7 past (signed (sha256 s.dev.firmware)) ∧ answered (.getMeasurements 0) 7 past (signed [5])
      ∧ answered (.getMeasurements 255) 7 past (signed ([1, 2, 3, 4, 5].flatMap s.dev.measure)))

/-- Decoding the encoding of any well-formed instruction gives it back, with every operand at every value it admits
(R10, R95, R101, R105, R106, R107, R118, R132). -/
def Obligations.EncodeDecodeRoundTrip : Prop :=
  ∀ (i : Instr), i.wellFormed = true →
    (i.guard?.isSome = true → ∀ rest : List Byte, decode ((encode i).flatMap wordBytes ++ rest) = .ok (i, rest))
    ∧ (i.isElementOp = true → ∃ w, encodeElem i = some w ∧ decodeElem w = some i)
    ∧ (i.isTriggerOp = true → ∃ w, encodeTrig i = some w ∧ decodeTrig w = some i)

/-- Words written out from the encodings of the spec decode to their instructions (R93, R101, R102, R103, R104, R199,
R202, R215, R216, R221, R222). -/
def Obligations.WordsOfTheSpecDecode : Prop :=
  let no : Guard := ⟨false, 0⟩
  decodeTableWord 32 0x04032160 = some (.add no true 3 4 5)
  ∧ decodeTableWord 32 0x400717FE = some (.ld no 7 2 3 (-2))
  ∧ decodeTableWord 32 0x1A048402 = some (.cmpi no 1 1 1 2)
  ∧ decodeTableWord 64 0x1234567814040000 = some (.ldi no 4 0x12345678)
  ∧ decodeTableWord 32 0x0403215A = some (.sel no 3 4 5 2)
  ∧ decodeTableWord 32 0x38003003 = some (.loop no 6 3)
  ∧ decodeTableWord 32 0x4E00000C = some (.fnc no 1 4)
  ∧ decodeTableWord 32 0x5007126E = some (.acas no 7 2 9 5)
  ∧ decodeTableWord 32 0xFE000000 = none

/-- A step of a context runs the instruction that its words decode to (R93, R101, R107, R190, R309). That an LDI word
which fails a check and lacks its extension word takes ILLEGAL with address 0, and the order of that check, the failed
guard and the missing word, are the model's choice (log 62). -/
def Obligations.StepRunsTheDecodedInstruction : Prop :=
  ∀ (s : State) (core ctx : Nat) (r : List Item), s.agenda = .cp core ctx :: r →
    let k := core * 8 + ctx
    let at_ := fun (off : Word) => (s.oper k).word? ((s.ctx k).pc + off)
    let u := ({ s with agenda := r } : State)
    let t := u.turnOf core ctx
    (s.ctx k).status = .running →
    (u.readHeld core ctx = true → ∃ s1, exec (u.fetch k) t = .next s1 ∧ (s1.ctx k).heldWait = true ∧ step s = .next { s1 with cores := s.cores })
    ∧ (u.readHeld core ctx = false →
    (∀ w i, at_ 0 = some w → isTwoWords w = false → decodeWord w 0 = .ok i → step s = exec i t)
    ∧ (∀ w x i, at_ 0 = some w → isTwoWords w = true → at_ 4 = some x → decodeWord w x = .ok i → step s = exec i t)
    ∧ (at_ 0 = none → step s = .next (t.takeTrap k ⟨0x01, 0, 0⟩))
    ∧ (∀ w e, at_ 0 = some w → isTwoWords w = false → decodeWord w 0 = .error e → step s = .next (t.takeTrap k ⟨0x01, 0, 0⟩))
    ∧ (∀ w x e, at_ 0 = some w → isTwoWords w = true → at_ 4 = some x → decodeWord w x = .error e → step s = .next (t.takeTrap k ⟨0x01, 0, 0⟩))
    ∧ (∀ w, at_ 0 = some w → isTwoWords w = true → at_ 4 = none →
        (∀ e, decodeWord w 0 = .error e → step s = .next (t.takeTrap k ⟨0x01, 0, 0⟩))
        ∧ (∀ i, decodeWord w 0 = .ok i → step s =
            if (s.ctx k).guardHolds (guardOf w) then .next (t.takeTrap k ⟨0x01, 0, (s.ctx k).pc + 4⟩) else exec i t)))

/-- From every state whose agenda and inputs list only events and turns, a step answers a next state that is such a
state again (R68, R108, R198, R235, R310, R317). -/
def Obligations.StepsNeverStop : Prop :=
  ∀ s : State, s.agendaOk → ∃ t, step s = .next t ∧ t.agendaOk

/-- Every step keeps device memory, host memory and the bytes of every page in canonical form, and the fuses of a
grade (R1, R71, R77, R216, R217, R222, R327). -/
def Obligations.MemoryStaysCanonical : Prop :=
  ∀ s t : State, step s = .next t → (s.memWf → t.memWf) ∧ (s.dev.gradeOk = true → t.dev.gradeOk = true)

/-- The state after reset has its memories in canonical form, an agenda that lists only what it may, and the fuses of
its grade (R1, R334, R337). The contents at reset that the spec does not state are the model's choice (log 2), the
fuses of a Q64 with nothing fused off are the model's choice (log 10). -/
def Obligations.ResetMeetsTheInvariants : Prop :=
  State.reset.memWf ∧ State.reset.agendaOk ∧ State.reset.dev.gradeOk = true
end

