-- ==== Sys2Proof/Laws/Answers.lean ====
section
/-! SUPPORT. Where an instruction answers a next state: every instruction of an agent for that agent, every event always. -/

namespace Sys2Proof.Machine
open Sys2Proof

/-- An outcome that is a next state. -/
def Answers (o : Host.Outcome State Fault Refusal) : Prop := ∃ t, o = .next t

theorem answers_next {s : State} : Answers (.next s) := ⟨s, rfl⟩
theorem answers_ite {c : Prop} [Decidable c] {a b : Host.Outcome State Fault Refusal} (ha : Answers a) (hb : Answers b) :
    Answers (if c then a else b) := by
  split
  · exact ha
  · exact hb

/-- The frame of an instruction of the CP answers a next state for the context in focus. -/
theorem answers_cpLen {s : State} {k len : Nat} {c : Guard} {body : Nat → Ctx → Res} (h : s.focus = .ctx k) :
    Answers (s.cpLen len c body) := by
  unfold State.cpLen
  rw [h]
  exact answers_ite answers_next answers_next

theorem answers_cp {s : State} {k : Nat} {c : Guard} {body : Nat → Ctx → Res} (h : s.focus = .ctx k) : Answers (s.cp c body) :=
  answers_cpLen h

theorem answers_element {s : State} {k code : Nat} {w : ElWord} {f : Site → List Dir → List (Dir × BitVec 3) → State}
    (h : s.focus = .elem k) : Answers (s.element code w f) := by
  unfold State.element
  rw [h]
  dsimp only
  split
  · exact answers_next
  · refine answers_ite answers_next ?_
    split <;> exact answers_next

theorem answers_memOp {s : State} {k code op : Nat} {w : ElWord} (h : s.focus = .elem k) : Answers (s.memOp code op w) :=
  answers_element h

theorem answers_trigger {s : State} {k op : Nat} {w : TrWord} {f : Site → Tok → State} (h : s.focus = .elem k) :
    Answers (s.trigger op w f) := by
  unfold State.trigger
  rw [h]
  dsimp only
  split
  · exact answers_next
  · refine answers_ite answers_next (answers_ite answers_next (answers_ite answers_next ?_))
    split <;> exact answers_next

/-- An instruction of the CP (R10). -/
theorem answers_exec_cp {s : State} {k : Nat} {i : Instr} {c : Guard} (hi : i.guard? = some c) (h : s.focus = .ctx k) :
    Answers (exec i s) := by
  cases i with
  | add c w d a b => show Answers (execAdd c w d a b s); unfold execAdd; first | exact answers_cp h | exact answers_cpLen h
  | sub c w d a b => show Answers (execSub c w d a b s); unfold execSub; first | exact answers_cp h | exact answers_cpLen h
  | mul c w d a b => show Answers (execMul c w d a b s); unfold execMul; first | exact answers_cp h | exact answers_cpLen h
  | mulh c w d a b => show Answers (execMulh c w d a b s); unfold execMulh; first | exact answers_cp h | exact answers_cpLen h
  | mulhz c w d a b => show Answers (execMulhz c w d a b s); unfold execMulhz; first | exact answers_cp h | exact answers_cpLen h
  | div c w d a b => show Answers (execDiv c w d a b s); unfold execDiv; first | exact answers_cp h | exact answers_cpLen h
  | divz c w d a b => show Answers (execDivz c w d a b s); unfold execDivz; first | exact answers_cp h | exact answers_cpLen h
  | rem c w d a b => show Answers (execRem c w d a b s); unfold execRem; first | exact answers_cp h | exact answers_cpLen h
  | remz c w d a b => show Answers (execRemz c w d a b s); unfold execRemz; first | exact answers_cp h | exact answers_cpLen h
  | and c w d a b => show Answers (execAnd c w d a b s); unfold execAnd; first | exact answers_cp h | exact answers_cpLen h
  | or c w d a b => show Answers (execOr c w d a b s); unfold execOr; first | exact answers_cp h | exact answers_cpLen h
  | xor c w d a b => show Answers (execXor c w d a b s); unfold execXor; first | exact answers_cp h | exact answers_cpLen h
  | shl c w d a b => show Answers (execShl c w d a b s); unfold execShl; first | exact answers_cp h | exact answers_cpLen h
  | shr c w d a b => show Answers (execShr c w d a b s); unfold execShr; first | exact answers_cp h | exact answers_cpLen h
  | sar c w d a b => show Answers (execSar c w d a b s); unfold execSar; first | exact answers_cp h | exact answers_cpLen h
  | min c w d a b => show Answers (execMin c w d a b s); unfold execMin; first | exact answers_cp h | exact answers_cpLen h
  | max c w d a b => show Answers (execMax c w d a b s); unfold execMax; first | exact answers_cp h | exact answers_cpLen h
  | abs c w d a => show Answers (execAbs c w d a s); unfold execAbs; first | exact answers_cp h | exact answers_cpLen h
  | clz c w d a => show Answers (execClz c w d a s); unfold execClz; first | exact answers_cp h | exact answers_cpLen h
  | popc c w d a => show Answers (execPopc c w d a s); unfold execPopc; first | exact answers_cp h | exact answers_cpLen h
  | sext c w d a b => show Answers (execSext c w d a b s); unfold execSext; first | exact answers_cp h | exact answers_cpLen h
  | zext c w d a b => show Answers (execZext c w d a b s); unfold execZext; first | exact answers_cp h | exact answers_cpLen h
  | sel c d a b k => show Answers (execSel c d a b k s); unfold execSel; first | exact answers_cp h | exact answers_cpLen h
  | addi c d a imm => show Answers (execAddi c d a imm s); unfold execAddi; first | exact answers_cp h | exact answers_cpLen h
  | andi c d a imm => show Answers (execAndi c d a imm s); unfold execAndi; first | exact answers_cp h | exact answers_cpLen h
  | ori c d a imm => show Answers (execOri c d a imm s); unfold execOri; first | exact answers_cp h | exact answers_cpLen h
  | xori c d a imm => show Answers (execXori c d a imm s); unfold execXori; first | exact answers_cp h | exact answers_cpLen h
  | shli c d a n => show Answers (execShli c d a n s); unfold execShli; first | exact answers_cp h | exact answers_cpLen h
  | shri c d a n => show Answers (execShri c d a n s); unfold execShri; first | exact answers_cp h | exact answers_cpLen h
  | sari c d a n => show Answers (execSari c d a n s); unfold execSari; first | exact answers_cp h | exact answers_cpLen h
  | ldi c d imm => show Answers (execLdi c d imm s); unfold execLdi; first | exact answers_cp h | exact answers_cpLen h
  | ldiHi c d imm => show Answers (execLdiHi c d imm s); unfold execLdiHi; first | exact answers_cp h | exact answers_cpLen h
  | cmp c w d a b cc => show Answers (execCmp c w d a b cc s); unfold execCmp; first | exact answers_cp h | exact answers_cpLen h
  | cmpi c d cc a imm => show Answers (execCmpi c d cc a imm s); unfold execCmpi; first | exact answers_cp h | exact answers_cpLen h
  | fcmp c d a b cc => show Answers (execFcmp c d a b cc s); unfold execFcmp; first | exact answers_cp h | exact answers_cpLen h
  | pand c d a b => show Answers (execPand c d a b s); unfold execPand; first | exact answers_cp h | exact answers_cpLen h
  | por c d a b => show Answers (execPor c d a b s); unfold execPor; first | exact answers_cp h | exact answers_cpLen h
  | pxor c d a b => show Answers (execPxor c d a b s); unfold execPxor; first | exact answers_cp h | exact answers_cpLen h
  | pnot c d a => show Answers (execPnot c d a s); unfold execPnot; first | exact answers_cp h | exact answers_cpLen h
  | fadd c d a b => show Answers (execFadd c d a b s); unfold execFadd; first | exact answers_cp h | exact answers_cpLen h
  | fsub c d a b => show Answers (execFsub c d a b s); unfold execFsub; first | exact answers_cp h | exact answers_cpLen h
  | fmul c d a b => show Answers (execFmul c d a b s); unfold execFmul; first | exact answers_cp h | exact answers_cpLen h
  | fma c d a b => show Answers (execFma c d a b s); unfold execFma; first | exact answers_cp h | exact answers_cpLen h
  | fmin c d a b => show Answers (execFmin c d a b s); unfold execFmin; first | exact answers_cp h | exact answers_cpLen h
  | fmax c d a b => show Answers (execFmax c d a b s); unfold execFmax; first | exact answers_cp h | exact answers_cpLen h
  | fabs c d a => show Answers (execFabs c d a s); unfold execFabs; first | exact answers_cp h | exact answers_cpLen h
  | fneg c d a => show Answers (execFneg c d a s); unfold execFneg; first | exact answers_cp h | exact answers_cpLen h
  | fdiv c d a b => show Answers (execFdiv c d a b s); unfold execFdiv; first | exact answers_cp h | exact answers_cpLen h
  | fsqrt c d a => show Answers (execFsqrt c d a s); unfold execFsqrt; first | exact answers_cp h | exact answers_cpLen h
  | fexp2 c d a => show Answers (execFexp2 c d a s); unfold execFexp2; first | exact answers_cp h | exact answers_cpLen h
  | flog2 c d a => show Answers (execFlog2 c d a s); unfold execFlog2; first | exact answers_cp h | exact answers_cpLen h
  | frcp c d a => show Answers (execFrcp c d a s); unfold execFrcp; first | exact answers_cp h | exact answers_cpLen h
  | fcvt c d a src sat dst rm => show Answers (execFcvt c d a src sat dst rm s); unfold execFcvt; first | exact answers_cp h | exact answers_cpLen h
  | ftoi c d a z width rm => show Answers (execFtoi c d a z width rm s); unfold execFtoi; first | exact answers_cp h | exact answers_cpLen h
  | itof c d a z width => show Answers (execItof c d a z width s); unfold execItof; first | exact answers_cp h | exact answers_cpLen h
  | nop c => show Answers (execNop c s); unfold execNop; first | exact answers_cp h | exact answers_cpLen h
  | br c off => show Answers (execBr c off s); unfold execBr; first | exact answers_cp h | exact answers_cpLen h
  | brl c off => show Answers (execBrl c off s); unfold execBrl; first | exact answers_cp h | exact answers_cpLen h
  | jmp c a imm => show Answers (execJmp c a imm s); unfold execJmp; first | exact answers_cp h | exact answers_cpLen h
  | jmpl c d a imm => show Answers (execJmpl c d a imm s); unfold execJmpl; first | exact answers_cp h | exact answers_cpLen h
  | loop c a imm => show Answers (execLoop c a imm s); unfold execLoop; first | exact answers_cp h | exact answers_cpLen h
  | ld c d base size off => show Answers (execLd c d base size off s); unfold execLd; first | exact answers_cp h | exact answers_cpLen h
  | ldz c d base size off => show Answers (execLdz c d base size off s); unfold execLdz; first | exact answers_cp h | exact answers_cpLen h
  | st c d base size off => show Answers (execSt c d base size off s); unfold execSt; first | exact answers_cp h | exact answers_cpLen h
  | ldx c d a b sh z size => show Answers (execLdx c d a b sh z size s); unfold execLdx; first | exact answers_cp h | exact answers_cpLen h
  | stx c d a b sh size => show Answers (execStx c d a b sh size s); unfold execStx; first | exact answers_cp h | exact answers_cpLen h
  | prf c wr base off => show Answers (execPrf c wr base off s); unfold execPrf; first | exact answers_cp h | exact answers_cpLen h
  | cln c base off => show Answers (execCln c base off s); unfold execCln; first | exact answers_cp h | exact answers_cpLen h
  | fnc c kind scope => show Answers (execFnc c kind scope s); unfold execFnc; first | exact answers_cp h | exact answers_cpLen h
  | aadd c d a b scope => show Answers (execAadd c d a b scope s); unfold execAadd; first | exact answers_cp h | exact answers_cpLen h
  | amin c d a b scope => show Answers (execAmin c d a b scope s); unfold execAmin; first | exact answers_cp h | exact answers_cpLen h
  | amax c d a b scope => show Answers (execAmax c d a b scope s); unfold execAmax; first | exact answers_cp h | exact answers_cpLen h
  | aand c d a b scope => show Answers (execAand c d a b scope s); unfold execAand; first | exact answers_cp h | exact answers_cpLen h
  | aor c d a b scope => show Answers (execAor c d a b scope s); unfold execAor; first | exact answers_cp h | exact answers_cpLen h
  | axch c d a b scope => show Answers (execAxch c d a b scope s); unfold execAxch; first | exact answers_cp h | exact answers_cpLen h
  | acas c d a b scope => show Answers (execAcas c d a b scope s); unfold execAcas; first | exact answers_cp h | exact answers_cpLen h
  | afadd c d a b scope => show Answers (execAfadd c d a b scope s); unfold execAfadd; first | exact answers_cp h | exact answers_cpLen h
  | bari c bar b => show Answers (execBari c bar b s); unfold execBari; first | exact answers_cp h | exact answers_cpLen h
  | bara c d bar => show Answers (execBara c d bar s); unfold execBara; first | exact answers_cp h | exact answers_cpLen h
  | barw c bar b => show Answers (execBarw c bar b s); unfold execBarw; first | exact answers_cp h | exact answers_cpLen h
  | barq c d bar => show Answers (execBarq c d bar s); unfold execBarq; first | exact answers_cp h | exact answers_cpLen h
  | gets c d sreg => show Answers (execGets c d sreg s); unfold execGets; first | exact answers_cp h | exact answers_cpLen h
  | sets c a sreg => show Answers (execSets c a sreg s); unfold execSets; first | exact answers_cp h | exact answers_cpLen h
  | sysc c n => show Answers (execSysc c n s); unfold execSysc; first | exact answers_cp h | exact answers_cpLen h
  | eret c => show Answers (execEret c s); unfold execEret; first | exact answers_cp h | exact answers_cpLen h
  | eretNext c => show Answers (execEretNext c s); unfold execEretNext; first | exact answers_cp h | exact answers_cpLen h
  | trap c k => show Answers (execTrap c k s); unfold execTrap; first | exact answers_cp h | exact answers_cpLen h
  | wfe c d n => show Answers (execWfe c d n s); unfold execWfe; first | exact answers_cp h | exact answers_cpLen h
  | yield c n => show Answers (execYield c n s); unfold execYield; first | exact answers_cp h | exact answers_cpLen h
  | talloc c d a b fmt pin => show Answers (execTalloc c d a b fmt pin s); unfold execTalloc; first | exact answers_cp h | exact answers_cpLen h
  | tview c d a b => show Answers (execTview c d a b s); unfold execTview; first | exact answers_cp h | exact answers_cpLen h
  | tld c d a b mode z size => show Answers (execTld c d a b mode z size s); unfold execTld; first | exact answers_cp h | exact answers_cpLen h
  | tst c d a b mode size => show Answers (execTst c d a b mode size s); unfold execTst; first | exact answers_cp h | exact answers_cpLen h
  | tshape c d a => show Answers (execTshape c d a s); unfold execTshape; first | exact answers_cp h | exact answers_cpLen h
  | tstate c d a => show Answers (execTstate c d a s); unfold execTstate; first | exact answers_cp h | exact answers_cpLen h
  | twait c a => show Answers (execTwait c a s); unfold execTwait; first | exact answers_cp h | exact answers_cpLen h
  | tseal c a => show Answers (execTseal c a s); unfold execTseal; first | exact answers_cp h | exact answers_cpLen h
  | ttouch c a => show Answers (execTtouch c a s); unfold execTtouch; first | exact answers_cp h | exact answers_cpLen h
  | tadvKeep c a => show Answers (execTadvKeep c a s); unfold execTadvKeep; first | exact answers_cp h | exact answers_cpLen h
  | tadvSpill c a => show Answers (execTadvSpill c a s); unfold execTadvSpill; first | exact answers_cp h | exact answers_cpLen h
  | tpin c a => show Answers (execTpin c a s); unfold execTpin; first | exact answers_cp h | exact answers_cpLen h
  | tpinUn c a => show Answers (execTpinUn c a s); unfold execTpinUn; first | exact answers_cp h | exact answers_cpLen h
  | tdrop c a => show Answers (execTdrop c a s); unfold execTdrop; first | exact answers_cp h | exact answers_cpLen h
  | xspan c d a => show Answers (execXspan c d a s); unfold execXspan; first | exact answers_cp h | exact answers_cpLen h
  | xlen c d a => show Answers (execXlen c d a s); unfold execXlen; first | exact answers_cp h | exact answers_cpLen h
  | xkind c d a => show Answers (execXkind c d a s); unfold execXkind; first | exact answers_cp h | exact answers_cpLen h
  | xarg c d a => show Answers (execXarg c d a s); unfold execXarg; first | exact answers_cp h | exact answers_cpLen h
  | xargH c d a => show Answers (execXargH c d a s); unfold execXargH; first | exact answers_cp h | exact answers_cpLen h
  | xcopy c a b => show Answers (execXcopy c a b s); unfold execXcopy; first | exact answers_cp h | exact answers_cpLen h
  | xemit c a => show Answers (execXemit c a s); unfold execXemit; first | exact answers_cp h | exact answers_cpLen h
  | xemitt c a => show Answers (execXemitt c a s); unfold execXemitt; first | exact answers_cp h | exact answers_cpLen h
  | xopen c => show Answers (execXopen c s); unfold execXopen; first | exact answers_cp h | exact answers_cpLen h
  | xclose c => show Answers (execXclose c s); unfold execXclose; first | exact answers_cp h | exact answers_cpLen h
  | xcloseApp c => show Answers (execXcloseApp c s); unfold execXcloseApp; first | exact answers_cp h | exact answers_cpLen h
  | xapply c a b => show Answers (execXapply c a b s); unfold execXapply; first | exact answers_cp h | exact answers_cpLen h
  | commit c => show Answers (execCommit c s); unfold execCommit; first | exact answers_cp h | exact answers_cpLen h
  | abort c => show Answers (execAbort c s); unfold execAbort; first | exact answers_cp h | exact answers_cpLen h
  | xfail c a => show Answers (execXfail c a s); unfold execXfail; first | exact answers_cp h | exact answers_cpLen h
  | trbc c d a b => show Answers (execTrbc c d a b s); unfold execTrbc; first | exact answers_cp h | exact answers_cpLen h
  | trbcH c d a b => show Answers (execTrbcH c d a b s); unfold execTrbcH; first | exact answers_cp h | exact answers_cpLen h
  | trred c d a fmt op => show Answers (execTrred c d a fmt op s); unfold execTrred; first | exact answers_cp h | exact answers_cpLen h
  | trgath c d a => show Answers (execTrgath c d a s); unfold execTrgath; first | exact answers_cp h | exact answers_cpLen h
  | trbar c => show Answers (execTrbar c s); unfold execTrbar; first | exact answers_cp h | exact answers_cpLen h
  | cplan c d a => show Answers (execCplan c d a s); unfold execCplan; first | exact answers_cp h | exact answers_cpLen h
  | cfire c a => show Answers (execCfire c a s); unfold execCfire; first | exact answers_cp h | exact answers_cpLen h
  | cwait c d a b => show Answers (execCwait c d a b s); unfold execCwait; first | exact answers_cp h | exact answers_cpLen h
  | cdrop c a => show Answers (execCdrop c a s); unfold execCdrop; first | exact answers_cp h | exact answers_cpLen h
  | csendS c a b => show Answers (execCsendS c a b s); unfold execCsendS; first | exact answers_cp h | exact answers_cpLen h
  | csendR c d b => show Answers (execCsendR c d b s); unfold execCsendR; first | exact answers_cp h | exact answers_cpLen h
  | sagen c eng a => show Answers (execSagen c eng a s); unfold execSagen; first | exact answers_cp h | exact answers_cpLen h
  | sagenTile c eng a b => show Answers (execSagenTile c eng a b s); unfold execSagenTile; first | exact answers_cp h | exact answers_cpLen h
  | sagenPantry c eng entry => show Answers (execSagenPantry c eng entry s); unfold execSagenPantry; first | exact answers_cp h | exact answers_cpLen h
  | sgo c eng => show Answers (execSgo c eng s); unfold execSgo; first | exact answers_cp h | exact answers_cpLen h
  | shalt c eng => show Answers (execShalt c eng s); unfold execShalt; first | exact answers_cp h | exact answers_cpLen h
  | shaltPush c a => show Answers (execShaltPush c a s); unfold execShaltPush; first | exact answers_cp h | exact answers_cpLen h
  | swait c eng scope => show Answers (execSwait c eng scope s); unfold execSwait; first | exact answers_cp h | exact answers_cpLen h
  | scnt c d eng => show Answers (execScnt c d eng s); unfold execScnt; first | exact answers_cp h | exact answers_cpLen h
  | smcast c a b => show Answers (execSmcast c a b s); unfold execSmcast; first | exact answers_cp h | exact answers_cpLen h
  | sbind c eng a slot => show Answers (execSbind c eng a slot s); unfold execSbind; first | exact answers_cp h | exact answers_cpLen h
  | sbindHost c eng => show Answers (execSbindHost c eng s); unfold execSbindHost; first | exact answers_cp h | exact answers_cpLen h
  | gload c q a => show Answers (execGload c q a s); unfold execGload; first | exact answers_cp h | exact answers_cpLen h
  | gloadPantry c q entry => show Answers (execGloadPantry c q entry s); unfold execGloadPantry; first | exact answers_cp h | exact answers_cpLen h
  | gpatch c q a => show Answers (execGpatch c q a s); unfold execGpatch; first | exact answers_cp h | exact answers_cpLen h
  | gpatchPantry c q entry => show Answers (execGpatchPantry c q entry s); unfold execGpatchPantry; first | exact answers_cp h | exact answers_cpLen h
  | gproof c q => show Answers (execGproof c q s); unfold execGproof; first | exact answers_cp h | exact answers_cpLen h
  | gseed c q a b => show Answers (execGseed c q a b s); unfold execGseed; first | exact answers_cp h | exact answers_cpLen h
  | gdrain c q => show Answers (execGdrain c q s); unfold execGdrain; first | exact answers_cp h | exact answers_cpLen h
  | gdrainOpen c q => show Answers (execGdrainOpen c q s); unfold execGdrainOpen; first | exact answers_cp h | exact answers_cpLen h
  | gwait c q => show Answers (execGwait c q s); unfold execGwait; first | exact answers_cp h | exact answers_cpLen h
  | gwaitIdle c q => show Answers (execGwaitIdle c q s); unfold execGwaitIdle; first | exact answers_cp h | exact answers_cpLen h
  | gkill c q => show Answers (execGkill c q s); unfold execGkill; first | exact answers_cp h | exact answers_cpLen h
  | gsave c q a => show Answers (execGsave c q a s); unfold execGsave; first | exact answers_cp h | exact answers_cpLen h
  | gstall c d a => show Answers (execGstall c d a s); unfold execGstall; first | exact answers_cp h | exact answers_cpLen h
  | gstallFlags c d q => show Answers (execGstallFlags c d q s); unfold execGstallFlags; first | exact answers_cp h | exact answers_cpLen h
  | eNop => cases hi
  | eAdd _ => cases hi
  | eSub _ => cases hi
  | eMul _ => cases hi
  | eMulh _ => cases hi
  | eAnd _ => cases hi
  | eOr _ => cases hi
  | eXor _ => cases hi
  | eShl _ => cases hi
  | eShr _ => cases hi
  | eSar _ => cases hi
  | eMin _ => cases hi
  | eMax _ => cases hi
  | eCmp _ => cases hi
  | eSel _ => cases hi
  | eMov _ => cases hi
  | eConst _ => cases hi
  | eCnt _ => cases hi
  | eAcc _ => cases hi
  | eFadd _ => cases hi
  | eFsub _ => cases hi
  | eFmul _ => cases hi
  | eFfma _ => cases hi
  | eFmin _ => cases hi
  | eFmax _ => cases hi
  | eFcmp _ => cases hi
  | eFacc _ => cases hi
  | eCvt _ => cases hi
  | eExp2 _ => cases hi
  | eLog2 _ => cases hi
  | eRcp _ => cases hi
  | eRsq _ => cases hi
  | eLd _ => cases hi
  | eSt _ => cases hi
  | eLdl _ => cases hi
  | eOrdf _ => cases hi
  | eOrdj _ => cases hi
  | eSteer _ => cases hi
  | eMerge _ => cases hi
  | eTagchk _ => cases hi
  | eSink _ => cases hi
  | tMma _ => cases hi
  | tMclr _ => cases hi
  | tMdrain _ => cases hi
  | tMscale _ => cases hi
  | tAccrd _ => cases hi
  | tDeq _ => cases hi
  | tEnq _ => cases hi
  | tPset _ => cases hi
  | tPclr _ => cases hi
  | tSig _ => cases hi
  | tSeed _ => cases hi
  | tTagset _ => cases hi
  | tCnt _ => cases hi
  | tMov _ => cases hi
  | tCmp _ => cases hi
  | tHalt _ => cases hi
  | launchLoad _ _ => cases hi
  | preemptComplete _ => cases hi
  | dvinvComplete _ => cases hi
  | mapChangeComplete _ => cases hi
  | firmwareCheck => cases hi
  | priTimeout _ _ => cases hi
  | marginPlanTimer _ => cases hi
  | fenceCore _ => cases hi
  | fenceSlice _ => cases hi
  | discoveryPass _ => cases hi
  | placeGang _ _ _ => cases hi
  | operatorLoad _ _ _ _ => cases hi
  | contextStart _ _ => cases hi
  | steal _ _ _ _ => cases hi
  | commitStep _ => cases hi
  | dvaRetry _ _ _ => cases hi
  | pageArrival _ _ _ _ => cases hi
  | faultLimitExpiry _ _ => cases hi
  | secondChanceClock _ => cases hi
  | streamBurst _ _ => cases hi
  | streamComplete _ _ => cases hi
  | pushUnit _ => cases hi
  | spaceToken _ _ => cases hi
  | proofWave _ _ => cases hi
  | islandTask _ _ => cases hi
  | scaleToken _ _ => cases hi
  | planRunComplete _ _ => cases hi
  | csendCopyDone _ _ _ _ => cases hi
  | yieldExpiry _ _ => cases hi
  | monitorEndCall _ _ _ => cases hi
  | illegalEncoding _ => cases hi
  | writeOutEnd _ _ _ => cases hi
  | planJoin _ _ => cases hi
  | launch _ _ => cases hi
  | preempt _ _ => cases hi
  | resume _ _ => cases hi
  | statusFree _ _ _ => cases hi
  | dvinvPage _ _ => cases hi
  | dvinvLaunch _ _ => cases hi
  | dvinvPartition _ _ => cases hi
  | errstsClear _ _ => cases hi
  | routeTableWrite _ _ _ => cases hi
  | slcfgWrite _ _ _ => cases hi
  | sliceMapCommit _ _ => cases hi
  | partitionCreate _ _ _ => cases hi
  | partitionDelete _ _ => cases hi
  | bootgo _ => cases hi
  | msixUnmask _ => cases hi
  | registerWrite _ _ _ => cases hi
  | reset => cases hi
  | uioRequest _ => cases hi
  | translationCompletion _ _ _ _ => cases hi
  | pageGroupResponse _ _ _ => cases hi
  | atsInvalidateRequest _ _ => cases hi
  | getVersion => cases hi
  | getCapabilities => cases hi
  | negotiateAlgorithms => cases hi
  | getDigests => cases hi
  | getCertificate => cases hi
  | challenge _ => cases hi
  | getMeasurements _ => cases hi
  | portDown _ => cases hi
  | portUp _ _ _ => cases hi
  | thermalAlarm _ => cases hi
  | marginAlarm _ _ => cases hi
  | uncorrectableError _ => cases hi
  | correctedError _ _ => cases hi
  | pageTableWalk _ _ _ _ _ => cases hi
  | sttMiss _ _ _ _ _ => cases hi
  | streamFault _ _ => cases hi
  | wfeTimeout _ _ => cases hi

/-- An op of a context word (R116). -/
theorem answers_exec_elem {s : State} {k : Nat} {i : Instr} (hi : i.isElementOp = true) (h : s.focus = .elem k) :
    Answers (exec i s) := by
  cases i with
  | add _ _ _ _ _ => cases hi
  | sub _ _ _ _ _ => cases hi
  | mul _ _ _ _ _ => cases hi
  | mulh _ _ _ _ _ => cases hi
  | mulhz _ _ _ _ _ => cases hi
  | div _ _ _ _ _ => cases hi
  | divz _ _ _ _ _ => cases hi
  | rem _ _ _ _ _ => cases hi
  | remz _ _ _ _ _ => cases hi
  | and _ _ _ _ _ => cases hi
  | or _ _ _ _ _ => cases hi
  | xor _ _ _ _ _ => cases hi
  | shl _ _ _ _ _ => cases hi
  | shr _ _ _ _ _ => cases hi
  | sar _ _ _ _ _ => cases hi
  | min _ _ _ _ _ => cases hi
  | max _ _ _ _ _ => cases hi
  | abs _ _ _ _ => cases hi
  | clz _ _ _ _ => cases hi
  | popc _ _ _ _ => cases hi
  | sext _ _ _ _ _ => cases hi
  | zext _ _ _ _ _ => cases hi
  | sel _ _ _ _ _ => cases hi
  | addi _ _ _ _ => cases hi
  | andi _ _ _ _ => cases hi
  | ori _ _ _ _ => cases hi
  | xori _ _ _ _ => cases hi
  | shli _ _ _ _ => cases hi
  | shri _ _ _ _ => cases hi
  | sari _ _ _ _ => cases hi
  | ldi _ _ _ => cases hi
  | ldiHi _ _ _ => cases hi
  | cmp _ _ _ _ _ _ => cases hi
  | cmpi _ _ _ _ _ => cases hi
  | fcmp _ _ _ _ _ => cases hi
  | pand _ _ _ _ => cases hi
  | por _ _ _ _ => cases hi
  | pxor _ _ _ _ => cases hi
  | pnot _ _ _ => cases hi
  | fadd _ _ _ _ => cases hi
  | fsub _ _ _ _ => cases hi
  | fmul _ _ _ _ => cases hi
  | fma _ _ _ _ => cases hi
  | fmin _ _ _ _ => cases hi
  | fmax _ _ _ _ => cases hi
  | fabs _ _ _ => cases hi
  | fneg _ _ _ => cases hi
  | fdiv _ _ _ _ => cases hi
  | fsqrt _ _ _ => cases hi
  | fexp2 _ _ _ => cases hi
  | flog2 _ _ _ => cases hi
  | frcp _ _ _ => cases hi
  | fcvt _ _ _ _ _ _ _ => cases hi
  | ftoi _ _ _ _ _ _ => cases hi
  | itof _ _ _ _ _ => cases hi
  | nop _ => cases hi
  | br _ _ => cases hi
  | brl _ _ => cases hi
  | jmp _ _ _ => cases hi
  | jmpl _ _ _ _ => cases hi
  | loop _ _ _ => cases hi
  | ld _ _ _ _ _ => cases hi
  | ldz _ _ _ _ _ => cases hi
  | st _ _ _ _ _ => cases hi
  | ldx _ _ _ _ _ _ _ => cases hi
  | stx _ _ _ _ _ _ => cases hi
  | prf _ _ _ _ => cases hi
  | cln _ _ _ => cases hi
  | fnc _ _ _ => cases hi
  | aadd _ _ _ _ _ => cases hi
  | amin _ _ _ _ _ => cases hi
  | amax _ _ _ _ _ => cases hi
  | aand _ _ _ _ _ => cases hi
  | aor _ _ _ _ _ => cases hi
  | axch _ _ _ _ _ => cases hi
  | acas _ _ _ _ _ => cases hi
  | afadd _ _ _ _ _ => cases hi
  | bari _ _ _ => cases hi
  | bara _ _ _ => cases hi
  | barw _ _ _ => cases hi
  | barq _ _ _ => cases hi
  | gets _ _ _ => cases hi
  | sets _ _ _ => cases hi
  | sysc _ _ => cases hi
  | eret _ => cases hi
  | eretNext _ => cases hi
  | trap _ _ => cases hi
  | wfe _ _ _ => cases hi
  | yield _ _ => cases hi
  | talloc _ _ _ _ _ _ => cases hi
  | tview _ _ _ _ => cases hi
  | tld _ _ _ _ _ _ _ => cases hi
  | tst _ _ _ _ _ _ => cases hi
  | tshape _ _ _ => cases hi
  | tstate _ _ _ => cases hi
  | twait _ _ => cases hi
  | tseal _ _ => cases hi
  | ttouch _ _ => cases hi
  | tadvKeep _ _ => cases hi
  | tadvSpill _ _ => cases hi
  | tpin _ _ => cases hi
  | tpinUn _ _ => cases hi
  | tdrop _ _ => cases hi
  | xspan _ _ _ => cases hi
  | xlen _ _ _ => cases hi
  | xkind _ _ _ => cases hi
  | xarg _ _ _ => cases hi
  | xargH _ _ _ => cases hi
  | xcopy _ _ _ => cases hi
  | xemit _ _ => cases hi
  | xemitt _ _ => cases hi
  | xopen _ => cases hi
  | xclose _ => cases hi
  | xcloseApp _ => cases hi
  | xapply _ _ _ => cases hi
  | commit _ => cases hi
  | abort _ => cases hi
  | xfail _ _ => cases hi
  | trbc _ _ _ _ => cases hi
  | trbcH _ _ _ _ => cases hi
  | trred _ _ _ _ _ => cases hi
  | trgath _ _ _ => cases hi
  | trbar _ => cases hi
  | cplan _ _ _ => cases hi
  | cfire _ _ => cases hi
  | cwait _ _ _ _ => cases hi
  | cdrop _ _ => cases hi
  | csendS _ _ _ => cases hi
  | csendR _ _ _ => cases hi
  | sagen _ _ _ => cases hi
  | sagenTile _ _ _ _ => cases hi
  | sagenPantry _ _ _ => cases hi
  | sgo _ _ => cases hi
  | shalt _ _ => cases hi
  | shaltPush _ _ => cases hi
  | swait _ _ _ => cases hi
  | scnt _ _ _ => cases hi
  | smcast _ _ _ => cases hi
  | sbind _ _ _ _ => cases hi
  | sbindHost _ _ => cases hi
  | gload _ _ _ => cases hi
  | gloadPantry _ _ _ => cases hi
  | gpatch _ _ _ => cases hi
  | gpatchPantry _ _ _ => cases hi
  | gproof _ _ => cases hi
  | gseed _ _ _ _ => cases hi
  | gdrain _ _ => cases hi
  | gdrainOpen _ _ => cases hi
  | gwait _ _ => cases hi
  | gwaitIdle _ _ => cases hi
  | gkill _ _ => cases hi
  | gsave _ _ _ => cases hi
  | gstall _ _ _ => cases hi
  | gstallFlags _ _ _ => cases hi
  | eNop => show Answers (execENop  s); unfold execENop; rw [h]; exact answers_next
  | eAdd w => show Answers (execEAdd w s); unfold execEAdd; first | exact answers_element h | exact answers_memOp h
  | eSub w => show Answers (execESub w s); unfold execESub; first | exact answers_element h | exact answers_memOp h
  | eMul w => show Answers (execEMul w s); unfold execEMul; first | exact answers_element h | exact answers_memOp h
  | eMulh w => show Answers (execEMulh w s); unfold execEMulh; first | exact answers_element h | exact answers_memOp h
  | eAnd w => show Answers (execEAnd w s); unfold execEAnd; first | exact answers_element h | exact answers_memOp h
  | eOr w => show Answers (execEOr w s); unfold execEOr; first | exact answers_element h | exact answers_memOp h
  | eXor w => show Answers (execEXor w s); unfold execEXor; first | exact answers_element h | exact answers_memOp h
  | eShl w => show Answers (execEShl w s); unfold execEShl; first | exact answers_element h | exact answers_memOp h
  | eShr w => show Answers (execEShr w s); unfold execEShr; first | exact answers_element h | exact answers_memOp h
  | eSar w => show Answers (execESar w s); unfold execESar; first | exact answers_element h | exact answers_memOp h
  | eMin w => show Answers (execEMin w s); unfold execEMin; first | exact answers_element h | exact answers_memOp h
  | eMax w => show Answers (execEMax w s); unfold execEMax; first | exact answers_element h | exact answers_memOp h
  | eCmp w => show Answers (execECmp w s); unfold execECmp; first | exact answers_element h | exact answers_memOp h
  | eSel w => show Answers (execESel w s); unfold execESel; first | exact answers_element h | exact answers_memOp h
  | eMov w => show Answers (execEMov w s); unfold execEMov; first | exact answers_element h | exact answers_memOp h
  | eConst w => show Answers (execEConst w s); unfold execEConst; first | exact answers_element h | exact answers_memOp h
  | eCnt w => show Answers (execECnt w s); unfold execECnt; first | exact answers_element h | exact answers_memOp h
  | eAcc w => show Answers (execEAcc w s); unfold execEAcc; first | exact answers_element h | exact answers_memOp h
  | eFadd w => show Answers (execEFadd w s); unfold execEFadd; first | exact answers_element h | exact answers_memOp h
  | eFsub w => show Answers (execEFsub w s); unfold execEFsub; first | exact answers_element h | exact answers_memOp h
  | eFmul w => show Answers (execEFmul w s); unfold execEFmul; first | exact answers_element h | exact answers_memOp h
  | eFfma w => show Answers (execEFfma w s); unfold execEFfma; first | exact answers_element h | exact answers_memOp h
  | eFmin w => show Answers (execEFmin w s); unfold execEFmin; first | exact answers_element h | exact answers_memOp h
  | eFmax w => show Answers (execEFmax w s); unfold execEFmax; first | exact answers_element h | exact answers_memOp h
  | eFcmp w => show Answers (execEFcmp w s); unfold execEFcmp; first | exact answers_element h | exact answers_memOp h
  | eFacc w => show Answers (execEFacc w s); unfold execEFacc; first | exact answers_element h | exact answers_memOp h
  | eCvt w => show Answers (execECvt w s); unfold execECvt; first | exact answers_element h | exact answers_memOp h
  | eExp2 w => show Answers (execEExp2 w s); unfold execEExp2; first | exact answers_element h | exact answers_memOp h
  | eLog2 w => show Answers (execELog2 w s); unfold execELog2; first | exact answers_element h | exact answers_memOp h
  | eRcp w => show Answers (execERcp w s); unfold execERcp; first | exact answers_element h | exact answers_memOp h
  | eRsq w => show Answers (execERsq w s); unfold execERsq; first | exact answers_element h | exact answers_memOp h
  | eLd w => show Answers (execELd w s); unfold execELd; first | exact answers_element h | exact answers_memOp h
  | eSt w => show Answers (execESt w s); unfold execESt; first | exact answers_element h | exact answers_memOp h
  | eLdl w => show Answers (execELdl w s); unfold execELdl; first | exact answers_element h | exact answers_memOp h
  | eOrdf w => show Answers (execEOrdf w s); unfold execEOrdf; first | exact answers_element h | exact answers_memOp h
  | eOrdj w => show Answers (execEOrdj w s); unfold execEOrdj; first | exact answers_element h | exact answers_memOp h
  | eSteer w => show Answers (execESteer w s); unfold execESteer; first | exact answers_element h | exact answers_memOp h
  | eMerge w => show Answers (execEMerge w s); unfold execEMerge; first | exact answers_element h | exact answers_memOp h
  | eTagchk w => show Answers (execETagchk w s); unfold execETagchk; first | exact answers_element h | exact answers_memOp h
  | eSink w => show Answers (execESink w s); unfold execESink; first | exact answers_element h | exact answers_memOp h
  | tMma _ => cases hi
  | tMclr _ => cases hi
  | tMdrain _ => cases hi
  | tMscale _ => cases hi
  | tAccrd _ => cases hi
  | tDeq _ => cases hi
  | tEnq _ => cases hi
  | tPset _ => cases hi
  | tPclr _ => cases hi
  | tSig _ => cases hi
  | tSeed _ => cases hi
  | tTagset _ => cases hi
  | tCnt _ => cases hi
  | tMov _ => cases hi
  | tCmp _ => cases hi
  | tHalt _ => cases hi
  | launchLoad _ _ => cases hi
  | preemptComplete _ => cases hi
  | dvinvComplete _ => cases hi
  | mapChangeComplete _ => cases hi
  | firmwareCheck => cases hi
  | priTimeout _ _ => cases hi
  | marginPlanTimer _ => cases hi
  | fenceCore _ => cases hi
  | fenceSlice _ => cases hi
  | discoveryPass _ => cases hi
  | placeGang _ _ _ => cases hi
  | operatorLoad _ _ _ _ => cases hi
  | contextStart _ _ => cases hi
  | steal _ _ _ _ => cases hi
  | commitStep _ => cases hi
  | dvaRetry _ _ _ => cases hi
  | pageArrival _ _ _ _ => cases hi
  | faultLimitExpiry _ _ => cases hi
  | secondChanceClock _ => cases hi
  | streamBurst _ _ => cases hi
  | streamComplete _ _ => cases hi
  | pushUnit _ => cases hi
  | spaceToken _ _ => cases hi
  | proofWave _ _ => cases hi
  | islandTask _ _ => cases hi
  | scaleToken _ _ => cases hi
  | planRunComplete _ _ => cases hi
  | csendCopyDone _ _ _ _ => cases hi
  | yieldExpiry _ _ => cases hi
  | monitorEndCall _ _ _ => cases hi
  | illegalEncoding _ => cases hi
  | writeOutEnd _ _ _ => cases hi
  | planJoin _ _ => cases hi
  | launch _ _ => cases hi
  | preempt _ _ => cases hi
  | resume _ _ => cases hi
  | statusFree _ _ _ => cases hi
  | dvinvPage _ _ => cases hi
  | dvinvLaunch _ _ => cases hi
  | dvinvPartition _ _ => cases hi
  | errstsClear _ _ => cases hi
  | routeTableWrite _ _ _ => cases hi
  | slcfgWrite _ _ _ => cases hi
  | sliceMapCommit _ _ => cases hi
  | partitionCreate _ _ _ => cases hi
  | partitionDelete _ _ => cases hi
  | bootgo _ => cases hi
  | msixUnmask _ => cases hi
  | registerWrite _ _ _ => cases hi
  | reset => cases hi
  | uioRequest _ => cases hi
  | translationCompletion _ _ _ _ => cases hi
  | pageGroupResponse _ _ _ => cases hi
  | atsInvalidateRequest _ _ => cases hi
  | getVersion => cases hi
  | getCapabilities => cases hi
  | negotiateAlgorithms => cases hi
  | getDigests => cases hi
  | getCertificate => cases hi
  | challenge _ => cases hi
  | getMeasurements _ => cases hi
  | portDown _ => cases hi
  | portUp _ _ _ => cases hi
  | thermalAlarm _ => cases hi
  | marginAlarm _ _ => cases hi
  | uncorrectableError _ => cases hi
  | correctedError _ _ => cases hi
  | pageTableWalk _ _ _ _ _ => cases hi
  | sttMiss _ _ _ _ _ => cases hi
  | streamFault _ _ => cases hi
  | wfeTimeout _ _ => cases hi

/-- A trigger op (R117). -/
theorem answers_exec_trig {s : State} {k : Nat} {i : Instr} (hi : i.isTriggerOp = true) (h : s.focus = .elem k) :
    Answers (exec i s) := by
  cases i with
  | add _ _ _ _ _ => cases hi
  | sub _ _ _ _ _ => cases hi
  | mul _ _ _ _ _ => cases hi
  | mulh _ _ _ _ _ => cases hi
  | mulhz _ _ _ _ _ => cases hi
  | div _ _ _ _ _ => cases hi
  | divz _ _ _ _ _ => cases hi
  | rem _ _ _ _ _ => cases hi
  | remz _ _ _ _ _ => cases hi
  | and _ _ _ _ _ => cases hi
  | or _ _ _ _ _ => cases hi
  | xor _ _ _ _ _ => cases hi
  | shl _ _ _ _ _ => cases hi
  | shr _ _ _ _ _ => cases hi
  | sar _ _ _ _ _ => cases hi
  | min _ _ _ _ _ => cases hi
  | max _ _ _ _ _ => cases hi
  | abs _ _ _ _ => cases hi
  | clz _ _ _ _ => cases hi
  | popc _ _ _ _ => cases hi
  | sext _ _ _ _ _ => cases hi
  | zext _ _ _ _ _ => cases hi
  | sel _ _ _ _ _ => cases hi
  | addi _ _ _ _ => cases hi
  | andi _ _ _ _ => cases hi
  | ori _ _ _ _ => cases hi
  | xori _ _ _ _ => cases hi
  | shli _ _ _ _ => cases hi
  | shri _ _ _ _ => cases hi
  | sari _ _ _ _ => cases hi
  | ldi _ _ _ => cases hi
  | ldiHi _ _ _ => cases hi
  | cmp _ _ _ _ _ _ => cases hi
  | cmpi _ _ _ _ _ => cases hi
  | fcmp _ _ _ _ _ => cases hi
  | pand _ _ _ _ => cases hi
  | por _ _ _ _ => cases hi
  | pxor _ _ _ _ => cases hi
  | pnot _ _ _ => cases hi
  | fadd _ _ _ _ => cases hi
  | fsub _ _ _ _ => cases hi
  | fmul _ _ _ _ => cases hi
  | fma _ _ _ _ => cases hi
  | fmin _ _ _ _ => cases hi
  | fmax _ _ _ _ => cases hi
  | fabs _ _ _ => cases hi
  | fneg _ _ _ => cases hi
  | fdiv _ _ _ _ => cases hi
  | fsqrt _ _ _ => cases hi
  | fexp2 _ _ _ => cases hi
  | flog2 _ _ _ => cases hi
  | frcp _ _ _ => cases hi
  | fcvt _ _ _ _ _ _ _ => cases hi
  | ftoi _ _ _ _ _ _ => cases hi
  | itof _ _ _ _ _ => cases hi
  | nop _ => cases hi
  | br _ _ => cases hi
  | brl _ _ => cases hi
  | jmp _ _ _ => cases hi
  | jmpl _ _ _ _ => cases hi
  | loop _ _ _ => cases hi
  | ld _ _ _ _ _ => cases hi
  | ldz _ _ _ _ _ => cases hi
  | st _ _ _ _ _ => cases hi
  | ldx _ _ _ _ _ _ _ => cases hi
  | stx _ _ _ _ _ _ => cases hi
  | prf _ _ _ _ => cases hi
  | cln _ _ _ => cases hi
  | fnc _ _ _ => cases hi
  | aadd _ _ _ _ _ => cases hi
  | amin _ _ _ _ _ => cases hi
  | amax _ _ _ _ _ => cases hi
  | aand _ _ _ _ _ => cases hi
  | aor _ _ _ _ _ => cases hi
  | axch _ _ _ _ _ => cases hi
  | acas _ _ _ _ _ => cases hi
  | afadd _ _ _ _ _ => cases hi
  | bari _ _ _ => cases hi
  | bara _ _ _ => cases hi
  | barw _ _ _ => cases hi
  | barq _ _ _ => cases hi
  | gets _ _ _ => cases hi
  | sets _ _ _ => cases hi
  | sysc _ _ => cases hi
  | eret _ => cases hi
  | eretNext _ => cases hi
  | trap _ _ => cases hi
  | wfe _ _ _ => cases hi
  | yield _ _ => cases hi
  | talloc _ _ _ _ _ _ => cases hi
  | tview _ _ _ _ => cases hi
  | tld _ _ _ _ _ _ _ => cases hi
  | tst _ _ _ _ _ _ => cases hi
  | tshape _ _ _ => cases hi
  | tstate _ _ _ => cases hi
  | twait _ _ => cases hi
  | tseal _ _ => cases hi
  | ttouch _ _ => cases hi
  | tadvKeep _ _ => cases hi
  | tadvSpill _ _ => cases hi
  | tpin _ _ => cases hi
  | tpinUn _ _ => cases hi
  | tdrop _ _ => cases hi
  | xspan _ _ _ => cases hi
  | xlen _ _ _ => cases hi
  | xkind _ _ _ => cases hi
  | xarg _ _ _ => cases hi
  | xargH _ _ _ => cases hi
  | xcopy _ _ _ => cases hi
  | xemit _ _ => cases hi
  | xemitt _ _ => cases hi
  | xopen _ => cases hi
  | xclose _ => cases hi
  | xcloseApp _ => cases hi
  | xapply _ _ _ => cases hi
  | commit _ => cases hi
  | abort _ => cases hi
  | xfail _ _ => cases hi
  | trbc _ _ _ _ => cases hi
  | trbcH _ _ _ _ => cases hi
  | trred _ _ _ _ _ => cases hi
  | trgath _ _ _ => cases hi
  | trbar _ => cases hi
  | cplan _ _ _ => cases hi
  | cfire _ _ => cases hi
  | cwait _ _ _ _ => cases hi
  | cdrop _ _ => cases hi
  | csendS _ _ _ => cases hi
  | csendR _ _ _ => cases hi
  | sagen _ _ _ => cases hi
  | sagenTile _ _ _ _ => cases hi
  | sagenPantry _ _ _ => cases hi
  | sgo _ _ => cases hi
  | shalt _ _ => cases hi
  | shaltPush _ _ => cases hi
  | swait _ _ _ => cases hi
  | scnt _ _ _ => cases hi
  | smcast _ _ _ => cases hi
  | sbind _ _ _ _ => cases hi
  | sbindHost _ _ => cases hi
  | gload _ _ _ => cases hi
  | gloadPantry _ _ _ => cases hi
  | gpatch _ _ _ => cases hi
  | gpatchPantry _ _ _ => cases hi
  | gproof _ _ => cases hi
  | gseed _ _ _ _ => cases hi
  | gdrain _ _ => cases hi
  | gdrainOpen _ _ => cases hi
  | gwait _ _ => cases hi
  | gwaitIdle _ _ => cases hi
  | gkill _ _ => cases hi
  | gsave _ _ _ => cases hi
  | gstall _ _ _ => cases hi
  | gstallFlags _ _ _ => cases hi
  | eNop => cases hi
  | eAdd _ => cases hi
  | eSub _ => cases hi
  | eMul _ => cases hi
  | eMulh _ => cases hi
  | eAnd _ => cases hi
  | eOr _ => cases hi
  | eXor _ => cases hi
  | eShl _ => cases hi
  | eShr _ => cases hi
  | eSar _ => cases hi
  | eMin _ => cases hi
  | eMax _ => cases hi
  | eCmp _ => cases hi
  | eSel _ => cases hi
  | eMov _ => cases hi
  | eConst _ => cases hi
  | eCnt _ => cases hi
  | eAcc _ => cases hi
  | eFadd _ => cases hi
  | eFsub _ => cases hi
  | eFmul _ => cases hi
  | eFfma _ => cases hi
  | eFmin _ => cases hi
  | eFmax _ => cases hi
  | eFcmp _ => cases hi
  | eFacc _ => cases hi
  | eCvt _ => cases hi
  | eExp2 _ => cases hi
  | eLog2 _ => cases hi
  | eRcp _ => cases hi
  | eRsq _ => cases hi
  | eLd _ => cases hi
  | eSt _ => cases hi
  | eLdl _ => cases hi
  | eOrdf _ => cases hi
  | eOrdj _ => cases hi
  | eSteer _ => cases hi
  | eMerge _ => cases hi
  | eTagchk _ => cases hi
  | eSink _ => cases hi
  | tMma t => show Answers (execTMma t s); unfold execTMma; exact answers_trigger h
  | tMclr t => show Answers (execTMclr t s); unfold execTMclr; exact answers_trigger h
  | tMdrain t => show Answers (execTMdrain t s); unfold execTMdrain; exact answers_trigger h
  | tMscale t => show Answers (execTMscale t s); unfold execTMscale; exact answers_trigger h
  | tAccrd t => show Answers (execTAccrd t s); unfold execTAccrd; exact answers_trigger h
  | tDeq t => show Answers (execTDeq t s); unfold execTDeq; exact answers_trigger h
  | tEnq t => show Answers (execTEnq t s); unfold execTEnq; exact answers_trigger h
  | tPset t => show Answers (execTPset t s); unfold execTPset; exact answers_trigger h
  | tPclr t => show Answers (execTPclr t s); unfold execTPclr; exact answers_trigger h
  | tSig t => show Answers (execTSig t s); unfold execTSig; exact answers_trigger h
  | tSeed t => show Answers (execTSeed t s); unfold execTSeed; exact answers_trigger h
  | tTagset t => show Answers (execTTagset t s); unfold execTTagset; exact answers_trigger h
  | tCnt t => show Answers (execTCnt t s); unfold execTCnt; exact answers_trigger h
  | tMov t => show Answers (execTMov t s); unfold execTMov; exact answers_trigger h
  | tCmp t => show Answers (execTCmp t s); unfold execTCmp; exact answers_trigger h
  | tHalt t => show Answers (execTHalt t s); unfold execTHalt; exact answers_trigger h
  | launchLoad _ _ => cases hi
  | preemptComplete _ => cases hi
  | dvinvComplete _ => cases hi
  | mapChangeComplete _ => cases hi
  | firmwareCheck => cases hi
  | priTimeout _ _ => cases hi
  | marginPlanTimer _ => cases hi
  | fenceCore _ => cases hi
  | fenceSlice _ => cases hi
  | discoveryPass _ => cases hi
  | placeGang _ _ _ => cases hi
  | operatorLoad _ _ _ _ => cases hi
  | contextStart _ _ => cases hi
  | steal _ _ _ _ => cases hi
  | commitStep _ => cases hi
  | dvaRetry _ _ _ => cases hi
  | pageArrival _ _ _ _ => cases hi
  | faultLimitExpiry _ _ => cases hi
  | secondChanceClock _ => cases hi
  | streamBurst _ _ => cases hi
  | streamComplete _ _ => cases hi
  | pushUnit _ => cases hi
  | spaceToken _ _ => cases hi
  | proofWave _ _ => cases hi
  | islandTask _ _ => cases hi
  | scaleToken _ _ => cases hi
  | planRunComplete _ _ => cases hi
  | csendCopyDone _ _ _ _ => cases hi
  | yieldExpiry _ _ => cases hi
  | monitorEndCall _ _ _ => cases hi
  | illegalEncoding _ => cases hi
  | writeOutEnd _ _ _ => cases hi
  | planJoin _ _ => cases hi
  | launch _ _ => cases hi
  | preempt _ _ => cases hi
  | resume _ _ => cases hi
  | statusFree _ _ _ => cases hi
  | dvinvPage _ _ => cases hi
  | dvinvLaunch _ _ => cases hi
  | dvinvPartition _ _ => cases hi
  | errstsClear _ _ => cases hi
  | routeTableWrite _ _ _ => cases hi
  | slcfgWrite _ _ _ => cases hi
  | sliceMapCommit _ _ => cases hi
  | partitionCreate _ _ _ => cases hi
  | partitionDelete _ _ => cases hi
  | bootgo _ => cases hi
  | msixUnmask _ => cases hi
  | registerWrite _ _ _ => cases hi
  | reset => cases hi
  | uioRequest _ => cases hi
  | translationCompletion _ _ _ _ => cases hi
  | pageGroupResponse _ _ _ => cases hi
  | atsInvalidateRequest _ _ => cases hi
  | getVersion => cases hi
  | getCapabilities => cases hi
  | negotiateAlgorithms => cases hi
  | getDigests => cases hi
  | getCertificate => cases hi
  | challenge _ => cases hi
  | getMeasurements _ => cases hi
  | portDown _ => cases hi
  | portUp _ _ _ => cases hi
  | thermalAlarm _ => cases hi
  | marginAlarm _ _ => cases hi
  | uncorrectableError _ => cases hi
  | correctedError _ _ => cases hi
  | pageTableWalk _ _ _ _ _ => cases hi
  | sttMiss _ _ _ _ _ => cases hi
  | streamFault _ _ => cases hi
  | wfeTimeout _ _ => cases hi

/-! Every event. -/

theorem answers_execLaunchLoad {part slot : Nat} {s : State} : Answers (execLaunchLoad part slot s) := by
  unfold execLaunchLoad
  repeat' first | exact answers_next | apply answers_ite | split | dsimp only

theorem answers_execPreemptComplete {part : Nat} {s : State} : Answers (execPreemptComplete part s) := by
  unfold execPreemptComplete
  repeat' first | exact answers_next | apply answers_ite | split | dsimp only

theorem answers_execDvinvComplete {part : Nat} {s : State} : Answers (execDvinvComplete part s) := by
  unfold execDvinvComplete
  repeat' first | exact answers_next | apply answers_ite | split | dsimp only

theorem answers_execMapChangeComplete {part : Nat} {s : State} : Answers (execMapChangeComplete part s) := by
  unfold execMapChangeComplete
  repeat' first | exact answers_next | apply answers_ite | split | dsimp only

theorem answers_execFirmwareCheck {s : State} : Answers (execFirmwareCheck  s) := by
  unfold execFirmwareCheck
  repeat' first | exact answers_next | apply answers_ite | split | dsimp only

theorem answers_execPriTimeout {core eng : Nat} {s : State} : Answers (execPriTimeout core eng s) := by
  unfold execPriTimeout
  repeat' first | exact answers_next | apply answers_ite | split | dsimp only

theorem answers_execMarginPlanTimer {bins : List (Nat × Nat)} {s : State} : Answers (execMarginPlanTimer bins s) := by
  unfold execMarginPlanTimer
  repeat' first | exact answers_next | apply answers_ite | split | dsimp only

theorem answers_execFenceCore {core : Nat} {s : State} : Answers (execFenceCore core s) := by
  unfold execFenceCore
  repeat' first | exact answers_next | apply answers_ite | split | dsimp only

theorem answers_execFenceSlice {slice : Nat} {s : State} : Answers (execFenceSlice slice s) := by
  unfold execFenceSlice
  repeat' first | exact answers_next | apply answers_ite | split | dsimp only

theorem answers_execDiscoveryPass {part : Nat} {s : State} : Answers (execDiscoveryPass part s) := by
  unfold execDiscoveryPass
  repeat' first | exact answers_next | apply answers_ite | split | dsimp only

theorem answers_execPlaceGang {part slot cell : Nat} {s : State} : Answers (execPlaceGang part slot cell s) := by
  unfold execPlaceGang
  repeat' first | exact answers_next | apply answers_ite | split | dsimp only

theorem answers_execOperatorLoad {part slot op core : Nat} {s : State} : Answers (execOperatorLoad part slot op core s) := by
  unfold execOperatorLoad
  repeat' first | exact answers_next | apply answers_ite | split | dsimp only

theorem answers_execContextStart {core ctx : Nat} {s : State} : Answers (execContextStart core ctx s) := by
  unfold execContextStart
  repeat' first | exact answers_next | apply answers_ite | split | dsimp only

theorem answers_execSteal {part slot cell core : Nat} {s : State} : Answers (execSteal part slot cell core s) := by
  unfold execSteal
  repeat' first | exact answers_next | apply answers_ite | split | dsimp only

theorem answers_execCommitStep {part : Nat} {s : State} : Answers (execCommitStep part s) := by
  unfold execCommitStep
  repeat' first | exact answers_next | apply answers_ite | split | dsimp only

theorem answers_execDvaRetry {core row col : Nat} {s : State} : Answers (execDvaRetry core row col s) := by
  unfold execDvaRetry
  repeat' first | exact answers_next | apply answers_ite | split | dsimp only

theorem answers_execPageArrival {core part slot page : Nat} {s : State} : Answers (execPageArrival core part slot page s) := by
  unfold execPageArrival
  repeat' first | exact answers_next | apply answers_ite | split | dsimp only

theorem answers_execFaultLimitExpiry {part gang : Nat} {s : State} : Answers (execFaultLimitExpiry part gang s) := by
  unfold execFaultLimitExpiry
  repeat' first | exact answers_next | apply answers_ite | split | dsimp only

theorem answers_execSecondChanceClock {core : Nat} {s : State} : Answers (execSecondChanceClock core s) := by
  unfold execSecondChanceClock
  repeat' first | exact answers_next | apply answers_ite | split | dsimp only

theorem answers_execStreamBurst {core eng : Nat} {s : State} : Answers (execStreamBurst core eng s) := by
  unfold execStreamBurst
  repeat' first | exact answers_next | apply answers_ite | split | dsimp only

theorem answers_execStreamComplete {core eng : Nat} {s : State} : Answers (execStreamComplete core eng s) := by
  unfold execStreamComplete
  repeat' first | exact answers_next | apply answers_ite | split | dsimp only

theorem answers_execPushUnit {push : Nat} {s : State} : Answers (execPushUnit push s) := by
  unfold execPushUnit
  repeat' first | exact answers_next | apply answers_ite | split | dsimp only

theorem answers_execSpaceToken {core eng : Nat} {s : State} : Answers (execSpaceToken core eng s) := by
  unfold execSpaceToken
  repeat' first | exact answers_next | apply answers_ite | split | dsimp only

theorem answers_execProofWave {core : Nat} {q : BitVec 4} {s : State} : Answers (execProofWave core q s) := by
  unfold execProofWave
  repeat' first | exact answers_next | apply answers_ite | split | dsimp only

theorem answers_execIslandTask {core isl : Nat} {s : State} : Answers (execIslandTask core isl s) := by
  unfold execIslandTask
  repeat' first | exact answers_next | apply answers_ite | split | dsimp only

theorem answers_execScaleToken {core isl : Nat} {s : State} : Answers (execScaleToken core isl s) := by
  unfold execScaleToken
  repeat' first | exact answers_next | apply answers_ite | split | dsimp only

theorem answers_execPlanRunComplete {part plan : Nat} {s : State} : Answers (execPlanRunComplete part plan s) := by
  unfold execPlanRunComplete
  repeat' first | exact answers_next | apply answers_ite | split | dsimp only

theorem answers_execCsendCopyDone {part gang src dst : Nat} {s : State} : Answers (execCsendCopyDone part gang src dst s) := by
  unfold execCsendCopyDone
  repeat' first | exact answers_next | apply answers_ite | split | dsimp only

theorem answers_execYieldExpiry {core ctx : Nat} {s : State} : Answers (execYieldExpiry core ctx s) := by
  unfold execYieldExpiry
  repeat' first | exact answers_next | apply answers_ite | split | dsimp only

theorem answers_execMonitorEndCall {core ctx : Nat} {ans : MonitorAns} {s : State} : Answers (execMonitorEndCall core ctx ans s) := by
  unfold execMonitorEndCall
  repeat' first | exact answers_next | apply answers_ite | split | dsimp only

theorem answers_execWriteOutEnd {part slot page : Nat} {s : State} : Answers (execWriteOutEnd part slot page s) := by
  unfold execWriteOutEnd
  repeat' first | exact answers_next | apply answers_ite | split | dsimp only

theorem answers_execPlanJoin {part plan : Nat} {s : State} : Answers (execPlanJoin part plan s) := by
  unfold execPlanJoin
  repeat' first | exact answers_next | apply answers_ite | split | dsimp only

theorem answers_execLaunch {part : Nat} {v : Word} {s : State} : Answers (execLaunch part v s) := by
  unfold execLaunch
  repeat' first | exact answers_next | apply answers_ite | split | dsimp only

theorem answers_execPreempt {part : Nat} {v : Word} {s : State} : Answers (execPreempt part v s) := by
  unfold execPreempt
  repeat' first | exact answers_next | apply answers_ite | split | dsimp only

theorem answers_execResume {part : Nat} {v : Word} {s : State} : Answers (execResume part v s) := by
  unfold execResume
  repeat' first | exact answers_next | apply answers_ite | split | dsimp only

theorem answers_execStatusFree {part slot : Nat} {v : Word} {s : State} : Answers (execStatusFree part slot v s) := by
  unfold execStatusFree
  repeat' first | exact answers_next | apply answers_ite | split | dsimp only

theorem answers_execDvinvPage {part : Nat} {v : Word} {s : State} : Answers (execDvinvPage part v s) := by
  unfold execDvinvPage
  repeat' first | exact answers_next | apply answers_ite | split | dsimp only

theorem answers_execDvinvLaunch {part : Nat} {v : Word} {s : State} : Answers (execDvinvLaunch part v s) := by
  unfold execDvinvLaunch
  repeat' first | exact answers_next | apply answers_ite | split | dsimp only

theorem answers_execDvinvPartition {part : Nat} {v : Word} {s : State} : Answers (execDvinvPartition part v s) := by
  unfold execDvinvPartition
  repeat' first | exact answers_next | apply answers_ite | split | dsimp only

theorem answers_execErrstsClear {part : Nat} {v : Word} {s : State} : Answers (execErrstsClear part v s) := by
  unfold execErrstsClear
  repeat' first | exact answers_next | apply answers_ite | split | dsimp only

theorem answers_execRouteTableWrite {part granule : Nat} {v : Word} {s : State} : Answers (execRouteTableWrite part granule v s) := by
  unfold execRouteTableWrite
  repeat' first | exact answers_next | apply answers_ite | split | dsimp only

theorem answers_execSlcfgWrite {part slice : Nat} {v : Word} {s : State} : Answers (execSlcfgWrite part slice v s) := by
  unfold execSlcfgWrite
  repeat' first | exact answers_next | apply answers_ite | split | dsimp only

theorem answers_execSliceMapCommit {part : Nat} {v : Word} {s : State} : Answers (execSliceMapCommit part v s) := by
  unfold execSliceMapCommit
  repeat' first | exact answers_next | apply answers_ite | split | dsimp only

theorem answers_execPartitionCreate {part : Nat} {lo hi : Word} {s : State} : Answers (execPartitionCreate part lo hi s) := by
  unfold execPartitionCreate
  repeat' first | exact answers_next | apply answers_ite | split | dsimp only

theorem answers_execPartitionDelete {part : Nat} {lo : Word} {s : State} : Answers (execPartitionDelete part lo s) := by
  unfold execPartitionDelete
  repeat' first | exact answers_next | apply answers_ite | split | dsimp only

theorem answers_execBootgo {v : Word} {s : State} : Answers (execBootgo v s) := by
  unfold execBootgo
  repeat' first | exact answers_next | apply answers_ite | split | dsimp only

theorem answers_execMsixUnmask {vec : Nat} {s : State} : Answers (execMsixUnmask vec s) := by
  unfold execMsixUnmask
  repeat' first | exact answers_next | apply answers_ite | split | dsimp only

theorem answers_execReset {s : State} : Answers (execReset  s) := by
  unfold execReset
  repeat' first | exact answers_next | apply answers_ite | split | dsimp only

theorem answers_execUioRequest {req : UioReq} {s : State} : Answers (execUioRequest req s) := by
  unfold execUioRequest
  repeat' first | exact answers_next | apply answers_ite | split | dsimp only

theorem answers_execTranslationCompletion {pasid page : Nat} {rd wr : Bool} {s : State} : Answers (execTranslationCompletion pasid page rd wr s) := by
  unfold execTranslationCompletion
  repeat' first | exact answers_next | apply answers_ite | split | dsimp only

theorem answers_execPageGroupResponse {pasid page : Nat} {ok : Bool} {s : State} : Answers (execPageGroupResponse pasid page ok s) := by
  unfold execPageGroupResponse
  repeat' first | exact answers_next | apply answers_ite | split | dsimp only

theorem answers_execAtsInvalidateRequest {pasid page : Nat} {s : State} : Answers (execAtsInvalidateRequest pasid page s) := by
  unfold execAtsInvalidateRequest
  repeat' first | exact answers_next | apply answers_ite | split | dsimp only

theorem answers_execGetVersion {s : State} : Answers (execGetVersion  s) := by
  unfold execGetVersion
  repeat' first | exact answers_next | apply answers_ite | split | dsimp only

theorem answers_execGetCapabilities {s : State} : Answers (execGetCapabilities  s) := by
  unfold execGetCapabilities
  repeat' first | exact answers_next | apply answers_ite | split | dsimp only

theorem answers_execNegotiateAlgorithms {s : State} : Answers (execNegotiateAlgorithms  s) := by
  unfold execNegotiateAlgorithms
  repeat' first | exact answers_next | apply answers_ite | split | dsimp only

theorem answers_execGetDigests {s : State} : Answers (execGetDigests  s) := by
  unfold execGetDigests
  repeat' first | exact answers_next | apply answers_ite | split | dsimp only

theorem answers_execGetCertificate {s : State} : Answers (execGetCertificate  s) := by
  unfold execGetCertificate
  repeat' first | exact answers_next | apply answers_ite | split | dsimp only

theorem answers_execChallenge {nonce : Nat} {s : State} : Answers (execChallenge nonce s) := by
  unfold execChallenge
  repeat' first | exact answers_next | apply answers_ite | split | dsimp only

theorem answers_execGetMeasurements {index : Nat} {s : State} : Answers (execGetMeasurements index s) := by
  unfold execGetMeasurements
  repeat' first | exact answers_next | apply answers_ite | split | dsimp only

theorem answers_execPortDown {port : Nat} {s : State} : Answers (execPortDown port s) := by
  unfold execPortDown
  repeat' first | exact answers_next | apply answers_ite | split | dsimp only

theorem answers_execPortUp {port : Nat} {x16 fast : Bool} {s : State} : Answers (execPortUp port x16 fast s) := by
  unfold execPortUp
  repeat' first | exact answers_next | apply answers_ite | split | dsimp only

theorem answers_execThermalAlarm {bins : List (Nat × Nat)} {s : State} : Answers (execThermalAlarm bins s) := by
  unfold execThermalAlarm
  repeat' first | exact answers_next | apply answers_ite | split | dsimp only

theorem answers_execMarginAlarm {unit : Nat} {bins : List (Nat × Nat)} {s : State} : Answers (execMarginAlarm unit bins s) := by
  unfold execMarginAlarm
  repeat' first | exact answers_next | apply answers_ite | split | dsimp only

theorem answers_execUncorrectableError {e : ErrAt} {s : State} : Answers (execUncorrectableError e s) := by
  unfold execUncorrectableError
  repeat' first | exact answers_next | apply answers_ite | split | dsimp only

theorem answers_execCorrectedError {core array : Nat} {s : State} : Answers (execCorrectedError core array s) := by
  unfold execCorrectedError
  repeat' first | exact answers_next | apply answers_ite | split | dsimp only

theorem answers_execPageTableWalk {core part slot : Nat} {dva : Word} {write : Bool} {s : State} : Answers (execPageTableWalk core part slot dva write s) := by
  unfold execPageTableWalk
  repeat' first | exact answers_next | apply answers_ite | split | dsimp only

theorem answers_execSttMiss {core part slot page : Nat} {write : Bool} {s : State} : Answers (execSttMiss core part slot page write s) := by
  unfold execSttMiss
  repeat' first | exact answers_next | apply answers_ite | split | dsimp only

theorem answers_execStreamFault {core eng : Nat} {s : State} : Answers (execStreamFault core eng s) := by
  unfold execStreamFault
  repeat' first | exact answers_next | apply answers_ite | split | dsimp only

theorem answers_execWfeTimeout {core ctx : Nat} {s : State} : Answers (execWfeTimeout core ctx s) := by
  unfold execWfeTimeout
  repeat' first | exact answers_next | apply answers_ite | split | dsimp only

theorem answers_writeWindow {part off : Nat} {manager : Bool} {v : Word} {s : State} : Answers (writeWindow part off manager v s) := by
  unfold writeWindow
  refine answers_ite answers_next (answers_ite answers_execLaunch (answers_ite (answers_ite answers_execPreempt answers_execResume)
    (answers_ite answers_execStatusFree (answers_ite ?_ (answers_ite answers_execErrstsClear (answers_ite answers_next
    (answers_ite answers_execRouteTableWrite (answers_ite answers_execSlcfgWrite (answers_ite answers_next
    (answers_ite answers_execSliceMapCommit answers_next))))))))))
  split
  · exact answers_execDvinvPage
  · exact answers_execDvinvLaunch
  · exact answers_execDvinvPartition

theorem answers_writeManager {off : Nat} {v : Word} {s : State} : Answers (writeManager off v s) := by
  unfold writeManager
  exact answers_ite answers_execBootgo (answers_ite answers_next (answers_ite (answers_ite answers_next answers_next)
    (answers_ite answers_execPartitionCreate answers_execPartitionDelete)))

theorem answers_execRegisterWrite {bar off : Nat} {d : RegData} {s : State} : Answers (execRegisterWrite bar off d s) := by
  unfold execRegisterWrite
  exact answers_ite answers_next (answers_ite answers_next (answers_ite answers_writeWindow (answers_ite answers_writeManager
    (answers_ite (answers_ite answers_writeWindow answers_next) answers_next))))

/-- An event (R68, R235, R317). -/
theorem answers_exec_event {s : State} {i : Instr} (hi : i.isEvent = true) : Answers (exec i s) := by
  cases i with
  | add _ _ _ _ _ => cases hi
  | sub _ _ _ _ _ => cases hi
  | mul _ _ _ _ _ => cases hi
  | mulh _ _ _ _ _ => cases hi
  | mulhz _ _ _ _ _ => cases hi
  | div _ _ _ _ _ => cases hi
  | divz _ _ _ _ _ => cases hi
  | rem _ _ _ _ _ => cases hi
  | remz _ _ _ _ _ => cases hi
  | and _ _ _ _ _ => cases hi
  | or _ _ _ _ _ => cases hi
  | xor _ _ _ _ _ => cases hi
  | shl _ _ _ _ _ => cases hi
  | shr _ _ _ _ _ => cases hi
  | sar _ _ _ _ _ => cases hi
  | min _ _ _ _ _ => cases hi
  | max _ _ _ _ _ => cases hi
  | abs _ _ _ _ => cases hi
  | clz _ _ _ _ => cases hi
  | popc _ _ _ _ => cases hi
  | sext _ _ _ _ _ => cases hi
  | zext _ _ _ _ _ => cases hi
  | sel _ _ _ _ _ => cases hi
  | addi _ _ _ _ => cases hi
  | andi _ _ _ _ => cases hi
  | ori _ _ _ _ => cases hi
  | xori _ _ _ _ => cases hi
  | shli _ _ _ _ => cases hi
  | shri _ _ _ _ => cases hi
  | sari _ _ _ _ => cases hi
  | ldi _ _ _ => cases hi
  | ldiHi _ _ _ => cases hi
  | cmp _ _ _ _ _ _ => cases hi
  | cmpi _ _ _ _ _ => cases hi
  | fcmp _ _ _ _ _ => cases hi
  | pand _ _ _ _ => cases hi
  | por _ _ _ _ => cases hi
  | pxor _ _ _ _ => cases hi
  | pnot _ _ _ => cases hi
  | fadd _ _ _ _ => cases hi
  | fsub _ _ _ _ => cases hi
  | fmul _ _ _ _ => cases hi
  | fma _ _ _ _ => cases hi
  | fmin _ _ _ _ => cases hi
  | fmax _ _ _ _ => cases hi
  | fabs _ _ _ => cases hi
  | fneg _ _ _ => cases hi
  | fdiv _ _ _ _ => cases hi
  | fsqrt _ _ _ => cases hi
  | fexp2 _ _ _ => cases hi
  | flog2 _ _ _ => cases hi
  | frcp _ _ _ => cases hi
  | fcvt _ _ _ _ _ _ _ => cases hi
  | ftoi _ _ _ _ _ _ => cases hi
  | itof _ _ _ _ _ => cases hi
  | nop _ => cases hi
  | br _ _ => cases hi
  | brl _ _ => cases hi
  | jmp _ _ _ => cases hi
  | jmpl _ _ _ _ => cases hi
  | loop _ _ _ => cases hi
  | ld _ _ _ _ _ => cases hi
  | ldz _ _ _ _ _ => cases hi
  | st _ _ _ _ _ => cases hi
  | ldx _ _ _ _ _ _ _ => cases hi
  | stx _ _ _ _ _ _ => cases hi
  | prf _ _ _ _ => cases hi
  | cln _ _ _ => cases hi
  | fnc _ _ _ => cases hi
  | aadd _ _ _ _ _ => cases hi
  | amin _ _ _ _ _ => cases hi
  | amax _ _ _ _ _ => cases hi
  | aand _ _ _ _ _ => cases hi
  | aor _ _ _ _ _ => cases hi
  | axch _ _ _ _ _ => cases hi
  | acas _ _ _ _ _ => cases hi
  | afadd _ _ _ _ _ => cases hi
  | bari _ _ _ => cases hi
  | bara _ _ _ => cases hi
  | barw _ _ _ => cases hi
  | barq _ _ _ => cases hi
  | gets _ _ _ => cases hi
  | sets _ _ _ => cases hi
  | sysc _ _ => cases hi
  | eret _ => cases hi
  | eretNext _ => cases hi
  | trap _ _ => cases hi
  | wfe _ _ _ => cases hi
  | yield _ _ => cases hi
  | talloc _ _ _ _ _ _ => cases hi
  | tview _ _ _ _ => cases hi
  | tld _ _ _ _ _ _ _ => cases hi
  | tst _ _ _ _ _ _ => cases hi
  | tshape _ _ _ => cases hi
  | tstate _ _ _ => cases hi
  | twait _ _ => cases hi
  | tseal _ _ => cases hi
  | ttouch _ _ => cases hi
  | tadvKeep _ _ => cases hi
  | tadvSpill _ _ => cases hi
  | tpin _ _ => cases hi
  | tpinUn _ _ => cases hi
  | tdrop _ _ => cases hi
  | xspan _ _ _ => cases hi
  | xlen _ _ _ => cases hi
  | xkind _ _ _ => cases hi
  | xarg _ _ _ => cases hi
  | xargH _ _ _ => cases hi
  | xcopy _ _ _ => cases hi
  | xemit _ _ => cases hi
  | xemitt _ _ => cases hi
  | xopen _ => cases hi
  | xclose _ => cases hi
  | xcloseApp _ => cases hi
  | xapply _ _ _ => cases hi
  | commit _ => cases hi
  | abort _ => cases hi
  | xfail _ _ => cases hi
  | trbc _ _ _ _ => cases hi
  | trbcH _ _ _ _ => cases hi
  | trred _ _ _ _ _ => cases hi
  | trgath _ _ _ => cases hi
  | trbar _ => cases hi
  | cplan _ _ _ => cases hi
  | cfire _ _ => cases hi
  | cwait _ _ _ _ => cases hi
  | cdrop _ _ => cases hi
  | csendS _ _ _ => cases hi
  | csendR _ _ _ => cases hi
  | sagen _ _ _ => cases hi
  | sagenTile _ _ _ _ => cases hi
  | sagenPantry _ _ _ => cases hi
  | sgo _ _ => cases hi
  | shalt _ _ => cases hi
  | shaltPush _ _ => cases hi
  | swait _ _ _ => cases hi
  | scnt _ _ _ => cases hi
  | smcast _ _ _ => cases hi
  | sbind _ _ _ _ => cases hi
  | sbindHost _ _ => cases hi
  | gload _ _ _ => cases hi
  | gloadPantry _ _ _ => cases hi
  | gpatch _ _ _ => cases hi
  | gpatchPantry _ _ _ => cases hi
  | gproof _ _ => cases hi
  | gseed _ _ _ _ => cases hi
  | gdrain _ _ => cases hi
  | gdrainOpen _ _ => cases hi
  | gwait _ _ => cases hi
  | gwaitIdle _ _ => cases hi
  | gkill _ _ => cases hi
  | gsave _ _ _ => cases hi
  | gstall _ _ _ => cases hi
  | gstallFlags _ _ _ => cases hi
  | eNop => cases hi
  | eAdd _ => cases hi
  | eSub _ => cases hi
  | eMul _ => cases hi
  | eMulh _ => cases hi
  | eAnd _ => cases hi
  | eOr _ => cases hi
  | eXor _ => cases hi
  | eShl _ => cases hi
  | eShr _ => cases hi
  | eSar _ => cases hi
  | eMin _ => cases hi
  | eMax _ => cases hi
  | eCmp _ => cases hi
  | eSel _ => cases hi
  | eMov _ => cases hi
  | eConst _ => cases hi
  | eCnt _ => cases hi
  | eAcc _ => cases hi
  | eFadd _ => cases hi
  | eFsub _ => cases hi
  | eFmul _ => cases hi
  | eFfma _ => cases hi
  | eFmin _ => cases hi
  | eFmax _ => cases hi
  | eFcmp _ => cases hi
  | eFacc _ => cases hi
  | eCvt _ => cases hi
  | eExp2 _ => cases hi
  | eLog2 _ => cases hi
  | eRcp _ => cases hi
  | eRsq _ => cases hi
  | eLd _ => cases hi
  | eSt _ => cases hi
  | eLdl _ => cases hi
  | eOrdf _ => cases hi
  | eOrdj _ => cases hi
  | eSteer _ => cases hi
  | eMerge _ => cases hi
  | eTagchk _ => cases hi
  | eSink _ => cases hi
  | tMma _ => cases hi
  | tMclr _ => cases hi
  | tMdrain _ => cases hi
  | tMscale _ => cases hi
  | tAccrd _ => cases hi
  | tDeq _ => cases hi
  | tEnq _ => cases hi
  | tPset _ => cases hi
  | tPclr _ => cases hi
  | tSig _ => cases hi
  | tSeed _ => cases hi
  | tTagset _ => cases hi
  | tCnt _ => cases hi
  | tMov _ => cases hi
  | tCmp _ => cases hi
  | tHalt _ => cases hi
  | launchLoad _ _ => exact answers_execLaunchLoad
  | preemptComplete _ => exact answers_execPreemptComplete
  | dvinvComplete _ => exact answers_execDvinvComplete
  | mapChangeComplete _ => exact answers_execMapChangeComplete
  | firmwareCheck => exact answers_execFirmwareCheck
  | priTimeout _ _ => exact answers_execPriTimeout
  | marginPlanTimer _ => exact answers_execMarginPlanTimer
  | fenceCore _ => exact answers_execFenceCore
  | fenceSlice _ => exact answers_execFenceSlice
  | discoveryPass _ => exact answers_execDiscoveryPass
  | placeGang _ _ _ => exact answers_execPlaceGang
  | operatorLoad _ _ _ _ => exact answers_execOperatorLoad
  | contextStart _ _ => exact answers_execContextStart
  | steal _ _ _ _ => exact answers_execSteal
  | commitStep _ => exact answers_execCommitStep
  | dvaRetry _ _ _ => exact answers_execDvaRetry
  | pageArrival _ _ _ _ => exact answers_execPageArrival
  | faultLimitExpiry _ _ => exact answers_execFaultLimitExpiry
  | secondChanceClock _ => exact answers_execSecondChanceClock
  | streamBurst _ _ => exact answers_execStreamBurst
  | streamComplete _ _ => exact answers_execStreamComplete
  | pushUnit _ => exact answers_execPushUnit
  | spaceToken _ _ => exact answers_execSpaceToken
  | proofWave _ _ => exact answers_execProofWave
  | islandTask _ _ => exact answers_execIslandTask
  | scaleToken _ _ => exact answers_execScaleToken
  | planRunComplete _ _ => exact answers_execPlanRunComplete
  | csendCopyDone _ _ _ _ => exact answers_execCsendCopyDone
  | yieldExpiry _ _ => exact answers_execYieldExpiry
  | monitorEndCall _ _ _ => exact answers_execMonitorEndCall
  | illegalEncoding _ => cases hi
  | writeOutEnd _ _ _ => exact answers_execWriteOutEnd
  | planJoin _ _ => exact answers_execPlanJoin
  | launch _ _ => exact answers_execLaunch
  | preempt _ _ => exact answers_execPreempt
  | resume _ _ => exact answers_execResume
  | statusFree _ _ _ => exact answers_execStatusFree
  | dvinvPage _ _ => exact answers_execDvinvPage
  | dvinvLaunch _ _ => exact answers_execDvinvLaunch
  | dvinvPartition _ _ => exact answers_execDvinvPartition
  | errstsClear _ _ => exact answers_execErrstsClear
  | routeTableWrite _ _ _ => exact answers_execRouteTableWrite
  | slcfgWrite _ _ _ => exact answers_execSlcfgWrite
  | sliceMapCommit _ _ => exact answers_execSliceMapCommit
  | partitionCreate _ _ _ => exact answers_execPartitionCreate
  | partitionDelete _ _ => exact answers_execPartitionDelete
  | bootgo _ => exact answers_execBootgo
  | msixUnmask _ => exact answers_execMsixUnmask
  | registerWrite _ _ _ => exact answers_execRegisterWrite
  | reset => exact answers_execReset
  | uioRequest _ => exact answers_execUioRequest
  | translationCompletion _ _ _ _ => exact answers_execTranslationCompletion
  | pageGroupResponse _ _ _ => exact answers_execPageGroupResponse
  | atsInvalidateRequest _ _ => exact answers_execAtsInvalidateRequest
  | getVersion => exact answers_execGetVersion
  | getCapabilities => exact answers_execGetCapabilities
  | negotiateAlgorithms => exact answers_execNegotiateAlgorithms
  | getDigests => exact answers_execGetDigests
  | getCertificate => exact answers_execGetCertificate
  | challenge _ => exact answers_execChallenge
  | getMeasurements _ => exact answers_execGetMeasurements
  | portDown _ => exact answers_execPortDown
  | portUp _ _ _ => exact answers_execPortUp
  | thermalAlarm _ => exact answers_execThermalAlarm
  | marginAlarm _ _ => exact answers_execMarginAlarm
  | uncorrectableError e => exact answers_execUncorrectableError (e := e)
  | correctedError _ _ => exact answers_execCorrectedError
  | pageTableWalk _ _ _ _ _ => exact answers_execPageTableWalk
  | sttMiss _ _ _ _ _ => exact answers_execSttMiss
  | streamFault _ _ => exact answers_execStreamFault
  | wfeTimeout _ _ => exact answers_execWfeTimeout

end Sys2Proof.Machine
end

