-- ==== Sys2Proof/Laws/Tab.lean ====
section
/-! SUPPORT. The laws of sparse tables and of the byte memory: reading after writing, and that every memory operation
keeps the canonical form. -/

namespace Sys2Proof.Machine

/-! ### Tables -/

@[simp] theorem tget_nil {α : Type} (k : Nat) : tget? ([] : Tab α) k = none := rfl

theorem tget_cons {α : Type} (e : Nat × α) (t : Tab α) (k : Nat) :
    tget? (e :: t) k = if e.1 = k then some e.2 else tget? t k := rfl

@[simp] theorem tget_tset_same {α : Type} (t : Tab α) (k : Nat) (v : α) : tget? (tset t k v) k = some v := by
  induction t with
  | nil => simp [tset, tget_cons]
  | cons e r ih =>
    simp only [tset]
    split
    · simp [tget_cons]
    · split
      · simp [tget_cons]
      · rw [tget_cons, if_neg (by omega)]; exact ih

theorem tget_tset_ne {α : Type} (t : Tab α) {k j : Nat} (v : α) (h : j ≠ k) : tget? (tset t k v) j = tget? t j := by
  induction t with
  | nil => simp [tset, tget_cons, Ne.symm h]
  | cons e r ih =>
    simp only [tset]
    split
    · simp [tget_cons, Ne.symm h]
    · split
      · rename_i h1 h2; simp [tget_cons, ← h2, Ne.symm h]
      · simp [tget_cons, ih]

theorem tget_tset {α : Type} (t : Tab α) (k j : Nat) (v : α) :
    tget? (tset t k v) j = if j = k then some v else tget? t j := by
  split
  · rename_i h; subst h; simp
  · exact tget_tset_ne t v ‹_›

theorem tget_tdel {α : Type} (t : Tab α) (k j : Nat) : tget? (tdel t k) j = if j = k then none else tget? t j := by
  induction t with
  | nil => simp [tdel]
  | cons e r ih =>
    unfold tdel at *
    by_cases h : e.1 = k
    · simp only [List.filter, h, bne_self_eq_false, ih, tget_cons]
      split
      · rfl
      · rw [if_neg (by omega)]
    · simp only [List.filter, tget_cons]
      rw [show (e.1 != k) = true by simpa using h]
      simp only [tget_cons, ih]
      by_cases h2 : e.1 = j
      · simp [h2]; omega
      · simp [h2]

@[simp] theorem tgetD_tset_same {α : Type} (t : Tab α) (k : Nat) (v d : α) : tgetD (tset t k v) k d = v := by
  simp [tgetD]

theorem tgetD_tset {α : Type} (t : Tab α) (k j : Nat) (v d : α) :
    tgetD (tset t k v) j d = if j = k then v else tgetD t j d := by
  simp only [tgetD, tget_tset]; split <;> rfl

theorem tgetD_tdel {α : Type} (t : Tab α) (k j : Nat) (d : α) : tgetD (tdel t k) j d = if j = k then d else tgetD t j d := by
  simp only [tgetD, tget_tdel]; split <;> rfl

/-- What a table says of a listed key holds of some entry of it. -/
theorem mem_of_tget {α : Type} {t : Tab α} {k : Nat} {v : α} (h : tget? t k = some v) : (k, v) ∈ t := by
  induction t with
  | nil => simp at h
  | cons e r ih =>
    rw [tget_cons] at h
    split at h
    · rename_i h1; cases h; subst h1; exact List.mem_cons_self
    · exact List.mem_cons_of_mem _ (ih h)

theorem all_tset {α : Type} {t : Tab α} {p : Nat × α → Bool} {k : Nat} {v : α} (h : t.all p = true) (hv : p (k, v) = true) :
    (tset t k v).all p = true := by
  induction t with
  | nil => simp [tset, hv]
  | cons e r ih =>
    simp only [List.all_cons, Bool.and_eq_true] at h
    simp only [tset]
    split
    · simp [h.1, h.2, hv]
    · split
      · rename_i h1; simp [h.2, hv]
      · simp [h.1, ih h.2]

theorem all_filter {α : Type} {t : List α} {p q : α → Bool} (h : t.all p = true) : (t.filter q).all p = true := by
  rw [List.all_eq_true] at *
  intro x hx
  exact h x (List.mem_filter.1 hx).1

theorem all_tdel {α : Type} {t : Tab α} {p : Nat × α → Bool} (k : Nat) (h : t.all p = true) : (tdel t k).all p = true :=
  all_filter h

/-! ### The byte memory -/

theorem wfFrom_mono {m : Memory} {lo hi : Nat} (h : Memory.wfFrom hi m = true) (hl : lo ≤ hi) : Memory.wfFrom lo m = true := by
  cases m with
  | nil => rfl
  | cons e r =>
    simp only [Memory.wfFrom, Bool.and_eq_true, decide_eq_true_eq] at *
    exact ⟨⟨by omega, h.1.2⟩, h.2⟩

theorem wfFrom_mset {m : Memory} {lo a : Nat} (b : Byte) (h : Memory.wfFrom lo m = true) (ha : lo ≤ a) :
    Memory.wfFrom lo (mset m a b) = true := by
  induction m generalizing lo with
  | nil =>
    simp only [mset]
    split
    · rfl
    · simp [Memory.wfFrom, ha, ‹¬_›]
  | cons e r ih =>
    simp only [Memory.wfFrom, Bool.and_eq_true, decide_eq_true_eq] at h
    obtain ⟨⟨h1, h2⟩, h3⟩ := h
    simp only [mset]
    split
    · split
      · simp [Memory.wfFrom, h1, h2, h3]
      · rename_i hlt hb
        simp only [Memory.wfFrom, Bool.and_eq_true, decide_eq_true_eq, bne_iff_ne, ne_eq]
        exact ⟨⟨ha, hb⟩, ⟨by omega, by simpa using h2⟩, h3⟩
    · split
      · split
        · exact wfFrom_mono h3 (by omega)
        · rename_i hlt he hb
          simp only [Memory.wfFrom, Bool.and_eq_true, decide_eq_true_eq, bne_iff_ne, ne_eq]
          exact ⟨⟨ha, hb⟩, he ▸ h3⟩
      · simp only [Memory.wfFrom, Bool.and_eq_true, decide_eq_true_eq]
        exact ⟨⟨h1, h2⟩, ih h3 (by omega)⟩

/-- Writing a byte keeps the canonical form. -/
theorem wf_mset {m : Memory} (a : Nat) (b : Byte) (h : m.wf = true) : (mset m a b).wf = true := wfFrom_mset b h (Nat.zero_le _)

/-- Writing bytes keeps the canonical form. -/
theorem wf_msetN {m : Memory} (a : Nat) (bs : List Byte) (h : m.wf = true) : (msetN m a bs).wf = true := by
  induction bs generalizing m a with
  | nil => exact h
  | cons b r ih => exact ih _ (wf_mset a b h)

/-- Writing a number keeps the canonical form. -/
theorem wf_mwrite {m : Memory} (a n x : Nat) (h : m.wf = true) : (mwrite m a n x).wf = true := wf_msetN _ _ h

theorem wfFrom_filter {m : Memory} {lo : Nat} (p : Nat × Byte → Bool) (h : Memory.wfFrom lo m = true) :
    Memory.wfFrom lo (m.filter p) = true := by
  induction m generalizing lo with
  | nil => rfl
  | cons e r ih =>
    simp only [Memory.wfFrom, Bool.and_eq_true, decide_eq_true_eq] at h
    simp only [List.filter]
    split
    · simp only [Memory.wfFrom, Bool.and_eq_true, decide_eq_true_eq]
      exact ⟨h.1, ih h.2⟩
    · exact wfFrom_mono (ih h.2) (by omega)

/-- Dropping bytes keeps the canonical form. -/
theorem wf_filter {m : Memory} (p : Nat × Byte → Bool) (h : m.wf = true) : Memory.wf (m.filter p) = true := wfFrom_filter p h

@[simp] theorem wf_nil : Memory.wf [] = true := rfl

theorem tget_none_of_wfFrom {m : Memory} {lo k : Nat} (h : Memory.wfFrom lo m = true) (hk : k < lo) : tget? m k = none := by
  induction m generalizing lo with
  | nil => rfl
  | cons e r ih =>
    simp only [Memory.wfFrom, Bool.and_eq_true, decide_eq_true_eq] at h
    rw [tget_cons, if_neg (by omega)]
    exact ih h.2 (by omega)

theorem mget_cons (e : Nat × Byte) (m : Memory) (a : Nat) : mget (e :: m) a = if e.1 = a then e.2 else mget m a := by
  simp only [mget, tgetD, tget_cons]; split <;> rfl

theorem mget_mset_from {m : Memory} {lo : Nat} (a c : Nat) (b : Byte) (h : Memory.wfFrom lo m = true) :
    mget (mset m a b) c = if c = a then b else mget m c := by
  induction m generalizing lo with
  | nil =>
    simp only [mset]
    split
    · rename_i hb; subst hb; split <;> rfl
    · simp only [mget_cons, eq_comm]
  | cons e r ih =>
    simp only [Memory.wfFrom, Bool.and_eq_true, decide_eq_true_eq] at h
    simp only [mset]
    split
    · split
      · rename_i hlt hb
        split
        · rename_i hc
          subst hc hb
          rw [mget_cons, if_neg (by omega), mget, tgetD, tget_none_of_wfFrom h.2 (by omega)]; rfl
        · rfl
      · simp only [mget_cons, eq_comm]
    · split
      · rename_i hlt he
        split
        · rename_i hb
          split
          · rename_i hc
            subst hc hb
            rw [mget, tgetD, tget_none_of_wfFrom h.2 (by omega)]; rfl
          · rw [mget_cons, if_neg (by omega)]
        · rw [mget_cons, mget_cons, ← he]
          by_cases hc : a = c
          · simp [hc]
          · simp [hc, Ne.symm hc]
      · rw [mget_cons, mget_cons, ih h.2]
        by_cases hc : e.1 = c
        · rw [if_pos hc, if_pos hc, if_neg (by omega)]
        · rw [if_neg hc, if_neg hc]

/-- Reading a byte after a byte was written, of a memory in its canonical form. -/
theorem mget_mset {m : Memory} (a c : Nat) (b : Byte) (h : m.wf = true) :
    mget (mset m a b) c = if c = a then b else mget m c := mget_mset_from a c b h

/-- Reading a byte after bytes were written: the byte written last at that address, or what stood there. -/
theorem mget_msetN {m : Memory} (a c : Nat) (bs : List Byte) (h : m.wf = true) :
    mget (msetN m a bs) c = if a ≤ c then (bs[c - a]?).getD (mget m c) else mget m c := by
  induction bs generalizing m a with
  | nil => simp [msetN]
  | cons b r ih =>
    rw [msetN, ih _ (wf_mset a b h), mget_mset a c b h]
    by_cases h1 : c = a
    · subst h1
      simp [show ¬ c + 1 ≤ c by omega]
    · by_cases h2 : a + 1 ≤ c
      · have h3 : c - a = (c - (a + 1)) + 1 := by omega
        simp [h1, h2, show a ≤ c by omega, h3]
      · simp [h1, h2, show ¬ a ≤ c by omega]

/-- A write of bytes leaves every other address alone. -/
theorem mget_msetN_other {m : Memory} {a c : Nat} {bs : List Byte} (h : m.wf = true) (hc : c < a ∨ a + bs.length ≤ c) :
    mget (msetN m a bs) c = mget m c := by
  rw [mget_msetN a c bs h]
  split
  · rw [List.getElem?_eq_none (by omega)]; rfl
  · rfl

@[simp] theorem length_toBytes (x n : Nat) : (toBytes x n).length = n := by
  induction n generalizing x with
  | zero => rfl
  | succ n ih => simp [toBytes, ih]

@[simp] theorem length_mgetN (m : Memory) (a n : Nat) : (mgetN m a n).length = n := by
  induction n generalizing a with
  | zero => rfl
  | succ n ih => simp [mgetN, ih]

/-- The number that n bytes of a number hold. -/
theorem ofBytes_toBytes (x n : Nat) : ofBytes (toBytes x n) = x % 256 ^ n := by
  induction n generalizing x with
  | zero => simp [toBytes, ofBytes, Nat.mod_one]
  | succ n ih =>
    have h : x % 256 + 256 * (x / 256 % 256 ^ n) = x % 256 ^ (n + 1) := by
      rw [Nat.pow_succ, Nat.mul_comm (256 ^ n) 256, Nat.mod_mul]
    simpa [toBytes, ofBytes, ih] using h

theorem mgetN_msetN_from {m : Memory} (a : Nat) (pre bs : List Byte) (h : m.wf = true) :
    mgetN (msetN m a (pre ++ bs)) (a + pre.length) bs.length = bs := by
  induction bs generalizing pre with
  | nil => rfl
  | cons b r ih =>
    have h1 := ih (pre ++ [b])
    simp only [List.append_assoc, List.singleton_append, List.length_append, List.length_singleton] at h1
    rw [List.length_cons, mgetN, Nat.add_assoc, h1, mget_msetN _ _ _ h]
    simp

/-- Reading the bytes that were just written gives them. -/
theorem mgetN_msetN {m : Memory} (a : Nat) (bs : List Byte) (h : m.wf = true) : mgetN (msetN m a bs) a bs.length = bs := by
  simpa using mgetN_msetN_from a [] bs h

/-- A read of bytes of which none is written gives what it gave before. -/
theorem mgetN_msetN_other {m : Memory} {a c n : Nat} {bs : List Byte} (h : m.wf = true) (hc : c + n ≤ a ∨ a + bs.length ≤ c) :
    mgetN (msetN m a bs) c n = mgetN m c n := by
  induction n generalizing c with
  | zero => rfl
  | succ n ih => rw [mgetN, mgetN, mget_msetN_other h (by omega), ih (by omega)]

end Sys2Proof.Machine
end

