-- ==== Sys2Proof/Laws/Kept.lean ====
section
/-! SUPPORT. What every operation keeps: the canonical form of the memories, the agenda, the inputs and the fuses; one lemma
per operation, for the invariants of runs. -/

namespace Sys2Proof.Machine
open Sys2Proof

/-- The grade of a part and its fuses, which no step writes (R1). -/
abbrev Device.fuses (d : Device) : Nat × BitVec 64 × BitVec 64 := (d.grade, d.fusedCores, d.fusedSlices)

/-- The state t lists the agenda and the inputs of s, has its fuses, and its memories are canonical where those of s are. -/
structure State.Kept (s t : State) : Prop where
  agenda : t.agenda = s.agenda
  inputs : (t.inputs, t.dev.fuses) = (s.inputs, s.dev.fuses)
  mem : s.memWf → t.memWf

theorem State.Kept.refl (s : State) : s.Kept s := ⟨rfl, rfl, id⟩

theorem State.Kept.trans {s t u : State} (h : s.Kept t) (k : t.Kept u) : s.Kept u :=
  ⟨k.agenda.trans h.agenda, k.inputs.trans h.inputs, fun w => k.mem (h.mem w)⟩

/-- A state written out field by field: what is left to show of it. -/
theorem kept_mk_iff {s : State}
    {dev parts launches mem poison host row ras nextRa gangs saved ctxs cores bars plans dir tiles stt frames spills
    spillNo xfers tlb cfg ptc l1d owners l2 engines exits inPorts pushes images elems scales islands inputs clock agenda
    focus freeCtr} :
    s.Kept ⟨
      dev, parts, launches, mem, poison, host, row, ras, nextRa, gangs, saved, ctxs, cores, bars, plans, dir, tiles,
      stt, frames, spills, spillNo, xfers, tlb, cfg, ptc, l1d, owners, l2, engines, exits, inPorts, pushes, images, elems,
      scales, islands, inputs, clock, agenda, focus, freeCtr⟩ ↔
      agenda = s.agenda ∧ (inputs, dev.fuses) = (s.inputs, s.dev.fuses) ∧ (s.memWf → mem.wf = true ∧ host.wf = true ∧
        List.all (α := Nat × DirEnt) dir (fun e => e.2.data.wf) = true) :=
  ⟨fun h => ⟨h.1, h.2, h.3⟩, fun h => ⟨h.1, h.2.1, h.2.2⟩⟩

/-- An update of fields other than the memories, the agenda and the inputs. -/
theorem kept_same {s T : State} (h : s.Kept T) : T.agenda = s.agenda ∧ (T.inputs, T.dev.fuses) = (s.inputs, s.dev.fuses) ∧
    (s.memWf → T.mem.wf = true ∧ T.host.wf = true ∧ List.all (α := Nat × DirEnt) T.dir (fun e => e.2.data.wf) = true) :=
  ⟨h.agenda, h.inputs, h.mem⟩

/-- An update that also writes the memories. -/
theorem kept_mem {s T : State} (h : s.Kept T) {mem host : Memory} {dir : Tab DirEnt}
    (hm : s.memWf → Memory.wf mem = true) (hh : s.memWf → Memory.wf host = true)
    (hd : s.memWf → List.all (α := Nat × DirEnt) dir (fun e => e.2.data.wf) = true) :
    T.agenda = s.agenda ∧ (T.inputs, T.dev.fuses) = (s.inputs, s.dev.fuses) ∧ (s.memWf → mem.wf = true ∧ host.wf = true ∧
      List.all (α := Nat × DirEnt) dir (fun e => e.2.data.wf) = true) :=
  ⟨h.agenda, h.inputs, fun w => ⟨hm w, hh w, hd w⟩⟩

/-- An update that writes the memory alone. -/
theorem kept_memory {s T : State} (h : s.Kept T) {mem : Memory} (hm : T.mem.wf = true → mem.wf = true) :
    T.agenda = s.agenda ∧ (T.inputs, T.dev.fuses) = (s.inputs, s.dev.fuses) ∧ (s.memWf → mem.wf = true ∧ T.host.wf = true ∧
      List.all (α := Nat × DirEnt) T.dir (fun e => e.2.data.wf) = true) :=
  ⟨h.agenda, h.inputs, fun w => ⟨hm (h.mem w).1, (h.mem w).2⟩⟩

theorem of_kept {s T : State} (w : s.memWf) (h : s.Kept T) : T.memWf := h.mem w
theorem memWf_mem {T : State} (w : T.memWf) : T.mem.wf = true := w.1
theorem memWf_host {T : State} (w : T.memWf) : T.host.wf = true := w.2.1
theorem memWf_dir {T : State} (w : T.memWf) : T.dir.all (fun e => e.2.data.wf) = true := w.2.2

theorem wf_of_tget {T : State} {k : Nat} {e : DirEnt} (g : tget? T.dir k = some e) (w : T.memWf) : e.data.wf = true :=
  List.all_eq_true.1 w.2.2 _ (mem_of_tget g)

theorem wf_dirE {T : State} {k : Nat} (w : T.memWf) : (T.dirE k).data.wf = true := by
  unfold State.dirE tgetD
  cases hg : tget? T.dir k with
  | none => rfl
  | some e => exact wf_of_tget hg w

theorem dir_tset {t : Tab DirEnt} {k : Nat} {e : DirEnt} (h : t.all (fun e => e.2.data.wf) = true) (he : e.data.wf = true) :
    (tset t k e).all (fun e => e.2.data.wf) = true := all_tset h he

/-- A write of an entry of the directory. -/
theorem kept_setDir {s T : State} {k : Nat} {e : DirEnt} (h : s.Kept T) (hd : s.memWf → e.data.wf = true) : s.Kept (T.setDir k e) :=
  ⟨h.agenda, h.inputs, fun w => ⟨(h.mem w).1, (h.mem w).2.1, dir_tset (h.mem w).2.2 (hd w)⟩⟩

theorem kept_foldl {α : Type} {s T : State} {f : State → α → State} {l : List α} (hf : ∀ t x, s.Kept t → s.Kept (f t x)) (h : s.Kept T) :
    s.Kept (l.foldl f T) := by
  induction l generalizing T with
  | nil => exact h
  | cons x r ih => exact ih (hf _ _ h)

theorem kept_ite {s a b : State} {c : Prop} [Decidable c] (ha : s.Kept a) (hb : s.Kept b) : s.Kept (if c then a else b) := by
  split
  · exact ha
  · exact hb

/-! ### Results of each kind -/

/-- Every state that a body's answer names is kept. -/
def Res.KeptBy (s : State) (r : Res) : Prop :=
  match r with
  | .done t => s.Kept t
  | .jump t _ => s.Kept t
  | .wait t _ => s.Kept t
  | .trap _ => True
  | .trapIn t _ => s.Kept t
  | .stop t => s.Kept t

theorem res_ite {s : State} {c : Prop} [Decidable c] {a b : Res} (ha : Res.KeptBy s a) (hb : Res.KeptBy s b) :
    Res.KeptBy s (if c then a else b) := by
  split
  · exact ha
  · exact hb
theorem kept_done {s t : State} (h : s.Kept t) : Res.KeptBy s (.done t) := h
theorem kept_jump {s t : State} {pc : Word} (h : s.Kept t) : Res.KeptBy s (.jump t pc) := h
theorem kept_wait {s t : State} {w : WaitWhy} (h : s.Kept t) : Res.KeptBy s (.wait t w) := h
theorem kept_trap {s : State} {t : Trap} : Res.KeptBy s (.trap t) := trivial
theorem kept_trapIn {s t : State} {x : Trap} (h : s.Kept t) : Res.KeptBy s (.trapIn t x) := h
theorem kept_stop {s t : State} (h : s.Kept t) : Res.KeptBy s (.stop t) := h

/-- Every next state of an outcome is kept. -/
def OutKept (s : State) (o : Host.Outcome State Fault Refusal) : Prop := ∀ t, o = .next t → s.Kept t

theorem out_next {s t : State} (h : s.Kept t) : OutKept s (.next t) := by intro u hu; cases hu; exact h
theorem out_fault {s : State} {f : Fault} : OutKept s (.fault f) := by intro u hu; cases hu
theorem out_refused {s : State} {r : Refusal} : OutKept s (.refused r) := by intro u hu; cases hu

def PageRes.KeptBy (s : State) (r : PageRes) : Prop :=
  match r with
  | .ok t => s.Kept t
  | .wait t => s.Kept t
  | .fault _ _ _ => True

theorem page_ok {s t : State} (h : s.Kept t) : PageRes.KeptBy s (.ok t) := h
theorem page_wait {s t : State} (h : s.Kept t) : PageRes.KeptBy s (.wait t) := h
theorem page_fault {s : State} {a b c : Nat} : PageRes.KeptBy s (.fault a b c) := trivial
theorem of_page_ok {s t : State} {r : PageRes} (e : r = .ok t) (h : r.KeptBy s) : s.Kept t := by subst e; exact h
theorem of_page_wait {s t : State} {r : PageRes} (e : r = .wait t) (h : r.KeptBy s) : s.Kept t := by subst e; exact h

def Access.KeptBy (s : State) (r : Access) : Prop :=
  match r with
  | .done t _ => s.Kept t
  | .wait t _ _ => s.Kept t
  | .fail t _ => s.Kept t

theorem acc_done {s t : State} {v : W32} (h : s.Kept t) : Access.KeptBy s (.done t v) := h
theorem acc_wait {s t : State} {w : WaitWhy} {b : Bool} (h : s.Kept t) : Access.KeptBy s (.wait t w b) := h
theorem acc_fail {s t : State} {c : Nat} (h : s.Kept t) : Access.KeptBy s (.fail t c) := h
theorem of_acc_fail {s t : State} {r : Access} {c : Nat} (e : r = .fail t c) (h : r.KeptBy s) : s.Kept t := by subst e; exact h
theorem of_acc_done {s t : State} {r : Access} {v : W32} (e : r = .done t v) (h : r.KeptBy s) : s.Kept t := by subst e; exact h
theorem of_acc_wait {s t : State} {r : Access} {w : WaitWhy} {b : Bool} (e : r = .wait t w b) (h : r.KeptBy s) : s.Kept t := by
  subst e; exact h

/-- The state that a function answers with is kept. -/
def OptKept (s : State) (r : Option State) : Prop := ∀ t, r = some t → s.Kept t
def OptKept2 {α : Type} (s : State) (r : Option (State × α)) : Prop := ∀ t x, r = some (t, x) → s.Kept t
def ExcKept {ε : Type} (s : State) (r : Except ε State) : Prop := ∀ t, r = .ok t → s.Kept t
def ExcKept2 {ε α : Type} (s : State) (r : Except ε (State × α)) : Prop := ∀ t x, r = .ok (t, x) → s.Kept t

theorem opt_some {s t : State} (h : s.Kept t) : OptKept s (some t) := by intro u hu; cases hu; exact h
theorem opt_none {s : State} : OptKept s none := by intro u hu; cases hu
theorem opt_ite {s : State} {c : Prop} [Decidable c] {a b : Option State} (ha : OptKept s a) (hb : OptKept s b) :
    OptKept s (if c then a else b) := by
  split
  · exact ha
  · exact hb
theorem of_opt {s t : State} {r : Option State} (e : r = some t) (h : OptKept s r) : s.Kept t := h _ e
theorem opt_getD {s d : State} {r : Option State} (h : OptKept s r) (hd : s.Kept d) : s.Kept (r.getD d) := by
  cases r with
  | none => exact hd
  | some t => exact h _ rfl
theorem opt2_some {α : Type} {s : State} {p : State × α} (h : s.Kept p.1) : OptKept2 s (some p) := by intro u x hu; cases hu; exact h
theorem opt2_none {α : Type} {s : State} : OptKept2 (α := α) s none := by intro u x hu; cases hu
theorem of_opt2 {α : Type} {s t : State} {x : α} {r : Option (State × α)} (e : r = some (t, x)) (h : OptKept2 s r) : s.Kept t := h _ _ e
theorem opt2_map {α β : Type} {s : State} {r : Option β} {f : β → State × α} (h : ∀ b, s.Kept (f b).1) : OptKept2 s (r.map f) := by
  cases r with
  | none => exact opt2_none
  | some b => exact opt2_some (h b)
theorem opt_map {β : Type} {s : State} {r : Option β} {f : β → State} (h : ∀ b, s.Kept (f b)) : OptKept s (r.map f) := by
  cases r with
  | none => exact opt_none
  | some b => exact opt_some (h b)
theorem exc_ok {ε : Type} {s t : State} (h : s.Kept t) : ExcKept (ε := ε) s (.ok t) := by intro u hu; cases hu; exact h
theorem exc_err {ε : Type} {s : State} {e : ε} : ExcKept s (.error e) := by intro u hu; cases hu
theorem of_exc {ε : Type} {s t : State} {r : Except ε State} (e : r = .ok t) (h : ExcKept s r) : s.Kept t := h _ e
theorem exc2_ok {ε α : Type} {s : State} {p : State × α} (h : s.Kept p.1) : ExcKept2 (ε := ε) s (.ok p) := by
  intro u x hu; cases hu; exact h
theorem exc2_err {ε α : Type} {s : State} {e : ε} : ExcKept2 (α := α) s (.error e) := by intro u x hu; cases hu
theorem of_exc2 {ε α : Type} {s t : State} {x : α} {r : Except ε (State × α)} (e : r = .ok (t, x)) (h : ExcKept2 s r) : s.Kept t :=
  h _ _ e

/-- The states that both ends of an answer hold are kept. -/
def BothKept {ε α : Type} (s : State) (fe : ε → State) (fo : α → State) (r : Except ε α) : Prop :=
  match r with
  | .ok a => s.Kept (fo a)
  | .error e => s.Kept (fe e)

theorem both_ok {ε α : Type} {s : State} {fe : ε → State} {fo : α → State} {a : α} (h : s.Kept (fo a)) : BothKept s fe fo (.ok a) := h
theorem both_err {ε α : Type} {s : State} {fe : ε → State} {fo : α → State} {e : ε} (h : s.Kept (fe e)) : BothKept s fe fo (.error e) := h
theorem of_both_state {ε : Type} {s t : State} {fe : ε → State} {r : Except ε State} (e : r = .ok t)
    (h : BothKept s fe (fun t => t) r) : s.Kept t := by subst e; exact h
theorem of_both_pair {ε α : Type} {s t : State} {x : α} {fe : ε → State} {r : Except ε (State × α)} (e : r = .ok (t, x))
    (h : BothKept s fe Prod.fst r) : s.Kept t := by subst e; exact h
theorem of_both_fst {ε α : Type} {s : State} {x : State × α} {fe : ε → State} {r : Except ε (State × α)} (e : r = .ok x)
    (h : BothKept s fe Prod.fst r) : s.Kept x.1 := by subst e; exact h
theorem of_both_err0 {α : Type} {s t : State} {fo : α → State} {r : Except State α} (q : r = .error t)
    (h : BothKept s (fun t => t) fo r) : s.Kept t := by subst q; exact h
theorem of_both_err {ε α : Type} {s : State} {e : State × ε} {fo : α → State} {r : Except (State × ε) α} (q : r = .error e)
    (h : BothKept s Prod.fst fo r) : s.Kept e.1 := by subst q; exact h
theorem of_both_err_mk {ε α : Type} {s t : State} {x : ε} {fo : α → State} {r : Except (State × ε) α} (q : r = .error (t, x))
    (h : BothKept s Prod.fst fo r) : s.Kept t := by subst q; exact h
theorem of_both_err2 {ε δ α : Type} {s : State} {e : (State × ε) × δ} {fo : α → State} {r : Except ((State × ε) × δ) α}
    (q : r = .error e) (h : BothKept s (fun e => e.1.1) fo r) : s.Kept e.1.1 := by subst q; exact h
theorem of_both_err2_mk {ε δ α : Type} {s : State} {e : State × ε} {x : δ} {fo : α → State} {r : Except ((State × ε) × δ) α}
    (q : r = .error (e, x)) (h : BothKept s (fun e => e.1.1) fo r) : s.Kept e.1 := by subst q; exact h
theorem of_both_err3 {ε δ α : Type} {s t : State} {y : ε} {x : δ} {fo : α → State} {r : Except ((State × ε) × δ) α}
    (q : r = .error ((t, y), x)) (h : BothKept s (fun e => e.1.1) fo r) : s.Kept t := by subst q; exact h

/-- The state that an element's access answers with, whatever it is paired with. -/
def GotKept {α : Type} (s : State) (f : α → State) (r : Got α) : Prop :=
  match r with
  | .val a => s.Kept (f a)
  | .stall t _ => s.Kept t
  | .fault t _ _ _ => s.Kept t

theorem got_val {α : Type} {s : State} {f : α → State} {a : α} (h : s.Kept (f a)) : GotKept s f (.val a) := h
theorem got_stall {α : Type} {s t : State} {f : α → State} {w : WaitWhy} (h : s.Kept t) : GotKept s f (.stall t w) := h
theorem got_fault {α : Type} {s t : State} {f : α → State} {a b : Nat} {c : Word} (h : s.Kept t) : GotKept s f (.fault t a b c) := h
theorem of_got_fault {α : Type} {s t : State} {f : α → State} {a b : Nat} {c : Word} {r : Got α} (e : r = .fault t a b c)
    (h : GotKept s f r) : s.Kept t := by
  subst e; exact h
theorem of_got_word {s : State} {w : Word1} {r : Got Word1} (e : r = .val w) (h : GotKept s Word1.s r) : s.Kept w.s := by
  subst e; exact h
theorem kept_Got_bind {α β : Type} {s : State} {g : α → State} {g' : β → State} {x : Got α} {f : α → Got β} (hx : GotKept s g x)
    (hf : ∀ v, s.Kept (g v) → GotKept s g' (f v)) : GotKept s g' (x.bind f) := by
  cases x with
  | val v => exact hf v hx
  | stall t w => exact hx
  | fault t a b c => exact hx
theorem of_got_val {α : Type} {s : State} {f : α → State} {a : α} {r : Got α} (e : r = .val a) (h : GotKept s f r) : s.Kept (f a) := by
  subst e; exact h
theorem of_got_fst {α : Type} {s t : State} {x : α} {r : Got (State × α)} (e : r = .val (t, x)) (h : GotKept s Prod.fst r) : s.Kept t := by
  subst e; exact h
theorem of_got_id {s t : State} {r : Got State} (e : r = .val t) (h : GotKept s (fun t => t) r) : s.Kept t := by subst e; exact h
theorem of_got_stall {α : Type} {s t : State} {w : WaitWhy} {f : α → State} {r : Got α} (e : r = .stall t w) (h : GotKept s f r) : s.Kept t := by
  subst e; exact h

theorem opt_bind {β : Type} {s : State} {r : Option β} {f : β → Option State} (h : ∀ b, OptKept s (f b)) : OptKept s (r.bind f) := by
  cases r with
  | none => exact opt_none
  | some b => exact h b
theorem opt_findSome {β : Type} {s : State} {f : β → Option State} {l : List β} (h : ∀ b, OptKept s (f b)) : OptKept s (l.findSome? f) := by
  intro t ht
  obtain ⟨b, -, hb⟩ := List.exists_of_findSome?_eq_some ht
  exact h b t hb
theorem opt_toOption {ε : Type} {s : State} {fe : ε → State} {r : Except ε State} (h : BothKept s fe (fun t => t) r) : OptKept s r.toOption := by
  cases r with
  | ok t => exact opt_some h
  | error e => exact opt_none
theorem opt_map2 {β : Type} {s : State} {r : Option State} {f : State → State × β} (h : OptKept s r) (hf : ∀ t, s.Kept t → s.Kept (f t).1) :
    OptKept2 s (r.map f) := by
  cases r with
  | none => exact opt2_none
  | some t => exact opt2_some (hf t (h t rfl))
theorem opt_map1 {s : State} {r : Option State} {f : State → State} (h : OptKept s r) (hf : ∀ t, s.Kept t → s.Kept (f t)) :
    OptKept s (r.map f) := by
  cases r with
  | none => exact opt_none
  | some t => exact opt_some (hf t (h t rfl))
theorem opt2_map2 {α β : Type} {s : State} {r : Option (State × α)} {f : State × α → State × β} (h : OptKept2 s r)
    (hf : ∀ p, s.Kept p.1 → s.Kept (f p).1) : OptKept2 s (r.map f) := by
  cases r with
  | none => exact opt2_none
  | some p => exact opt2_some (hf p (h p.1 p.2 rfl))

theorem kept_out_ite {s : State} {c : Prop} [Decidable c] {a b : Host.Outcome State Fault Refusal} (ha : OutKept s a) (hb : OutKept s b) :
    OutKept s (if c then a else b) := by
  split
  · exact ha
  · exact hb

theorem kept_State_gloadQuads {s : State} {x : Ctx} {q : BitVec 4} {f : List Nat → Res} (hf : ∀ qs, Res.KeptBy s (f qs)) :
    Res.KeptBy s (State.gloadQuads x q f) := by
  unfold State.gloadQuads
  split
  · exact kept_trap
  · split
    · exact hf _
    · exact kept_trap

theorem kept_AccErr_trap {s : State} {e : (State × AccErr) × Word} (h : s.Kept e.1.1) : s.Kept (AccErr.trap e).1 := by
  unfold AccErr.trap
  split <;> exact h

theorem kept_PageRes_resAt {s : State} {r : PageRes} {addr : Nat → Word} {f : State → Res} (hr : PageRes.KeptBy s r)
    (hf : ∀ t, s.Kept t → Res.KeptBy s (f t)) : Res.KeptBy s (r.resAt addr f) := by
  cases r with
  | ok t => exact hf t hr
  | wait t => exact hr
  | fault => trivial

/-- A copy of tile pages that has come to its end or to a wait (R249). -/
def CopyRes.KeptBy (s : State) (r : CopyRes) : Prop :=
  match r with
  | .done t => s.Kept t
  | .wait t _ _ => s.Kept t
  | .fault _ _ _ => True

theorem CopyRes.KeptBy.of_done {s t : State} {r : CopyRes} (e : r = .done t) (h : r.KeptBy s) : s.Kept t := by subst e; exact h
theorem CopyRes.KeptBy.of_wait {s t : State} {p : Nat} {b : Bool} {r : CopyRes} (e : r = .wait t p b) (h : r.KeptBy s) : s.Kept t := by
  subst e; exact h

/-! ### The operations -/
theorem kept_AccErr_got {α : Type} {s : State} {g : α → State} {e : State × AccErr} {a : Word} (h : s.Kept e.1) :
    GotKept s g (AccErr.got e a) := by
  unfold AccErr.got
  split <;> exact h

theorem kept_setCtx {s T : State} {k : Nat} {x : Ctx} (h : s.Kept T) :
    s.Kept (State.setCtx T k x) := by
  unfold State.setCtx
  repeat' with_reducible first | exact h | (simp only [kept_mk_iff]; apply kept_same)

theorem kept_updCtx {s T : State} {k : Nat} {f : Ctx → Ctx} (h : s.Kept T) :
    s.Kept (State.updCtx T k f) := by
  unfold State.updCtx
  repeat' with_reducible first | exact h | apply kept_setCtx

theorem kept_haltMembers {s T : State} {gk : Nat} (h : s.Kept T) :
    s.Kept (State.haltMembers T gk) := by
  unfold State.haltMembers
  repeat' with_reducible first | exact h | apply kept_updCtx | apply kept_foldl | intro _

theorem kept_setEngine {s T : State} {k : Nat} {e : Engine} (h : s.Kept T) :
    s.Kept (State.setEngine T k e) := by
  unfold State.setEngine
  repeat' with_reducible first | exact h | (simp only [kept_mk_iff]; apply kept_same)

theorem kept_tileEvent {s T : State} {key : Nat} (h : s.Kept T) :
    s.Kept (State.tileEvent T key) := by
  unfold State.tileEvent
  repeat' with_reducible first | exact h | (simp only [kept_mk_iff]; apply kept_same)

theorem kept_setTileSt {s T : State} {key : Nat} {st : TileSt} (h : s.Kept T) :
    s.Kept (State.setTileSt T key st) := by
  unfold State.setTileSt
  repeat'
    first
    | with_reducible first | exact h | (simp only [kept_mk_iff]; apply kept_same) | apply kept_tileEvent
    | split

theorem kept_emptyDst {s T : State} {e : Engine} (h : s.Kept T) :
    s.Kept (State.emptyDst T e) := by
  unfold State.emptyDst
  dsimp only
  repeat'
    first
    | with_reducible first | exact h | apply kept_setTileSt
    | split

theorem kept_leavePush {s T : State} {k : Nat} (h : s.Kept T) :
    s.Kept (State.leavePush T k) := by
  unfold State.leavePush
  repeat' with_reducible first | exact h | (simp only [kept_mk_iff]; apply kept_same)

theorem kept_haltEngine {s T : State} {k : Nat} (h : s.Kept T) :
    s.Kept (State.haltEngine T k) := by
  unfold State.haltEngine
  dsimp only
  repeat'
    first
    | with_reducible first | exact h | apply kept_setEngine | apply kept_emptyDst | apply kept_leavePush
    | split

theorem kept_endPush {s T : State} {p : Nat} (h : s.Kept T) :
    s.Kept (State.endPush T p) := by
  unfold State.endPush
  repeat'
    first
    | with_reducible first | exact h | (simp only [kept_mk_iff]; apply kept_same) | apply kept_haltEngine | apply kept_foldl
                                  | intro _
    | split

theorem kept_killQuads {s T : State} {core : Nat} {qs : List Nat} (h : s.Kept T) :
    s.Kept (State.killQuads T core qs) := by
  unfold State.killQuads
  repeat' with_reducible first | exact h | (simp only [kept_mk_iff]; apply kept_same)

theorem kept_killSettled {s T : State} {ik : Nat} (h : s.Kept T) :
    s.Kept (State.killSettled T ik) := by
  unfold State.killSettled
  repeat'
    first
    | with_reducible first | exact h | (simp only [kept_mk_iff]; apply kept_same) | apply kept_killQuads
    | split

theorem kept_setElem {s T : State} {k : Nat} {e : Elem} (h : s.Kept T) :
    s.Kept (State.setElem T k e) := by
  unfold State.setElem
  repeat' with_reducible first | exact h | (simp only [kept_mk_iff]; apply kept_same)

theorem kept_l2Touch {s T : State} {p : Nat} {dpa : Nat} {dirty : Bool} (h : s.Kept T) :
    s.Kept (State.l2Touch T p dpa dirty) := by
  unfold State.l2Touch
  dsimp only
  repeat'
    first
    | with_reducible first | exact h | (simp only [kept_mk_iff]; apply kept_same)
    | split

theorem kept_ptcFill {s T : State} {core : Nat} {launch : Nat} {dva : Nat} {l : Nat} {table : Nat} (h : s.Kept T) :
    s.Kept (State.ptcFill T core launch dva l table) := by
  unfold State.ptcFill
  dsimp only
  repeat'
    first
    | with_reducible first | exact h | (simp only [kept_mk_iff]; apply kept_same)
    | split

theorem kept_walkFrom {s T : State} {core : Nat} {launch : Nat} {dva : Nat} {write : Bool} {l : Nat} {table : Nat} (h : s.Kept T) :
    ExcKept2 s (State.walkFrom T core launch dva write l table) := by
  induction l generalizing T core launch dva write table with
  | zero =>
    unfold State.walkFrom
    try dsimp only
    repeat'
      first
      | with_reducible first | assumption | apply exc2_err | apply exc2_ok | apply kept_l2Touch | apply kept_ptcFill
                                    | (apply ih) | apply of_kept | apply memWf_mem | apply memWf_host | apply memWf_dir
                                    | apply wf_mwrite | intro _ | (simp only [kept_mk_iff]; refine kept_mem ?_ ?_ ?_ ?_)
      | split
  | succ n_ ih =>
    unfold State.walkFrom
    try dsimp only
    repeat'
      first
      | with_reducible first | assumption | apply exc2_err | apply exc2_ok | apply kept_l2Touch | apply kept_ptcFill
                                    | (apply ih) | apply of_kept | apply memWf_mem | apply memWf_host | apply memWf_dir
                                    | apply wf_mwrite | intro _ | (simp only [kept_mk_iff]; refine kept_mem ?_ ?_ ?_ ?_)
      | split

theorem kept_walk {s T : State} {core : Nat} {launch : Nat} {dva : Word} {write : Bool} (h : s.Kept T) :
    ExcKept2 s (State.walk T core launch dva write) := by
  unfold State.walk
  repeat'
    first
    | with_reducible first | exact h | apply exc2_err | apply kept_walkFrom
    | split

theorem kept_tlbFill {s T : State} {core : Nat} {launch : Nat} {dva : Word} {write : Bool} {f : Leaf} (h : s.Kept T) :
    s.Kept (State.tlbFill T core launch dva write f) := by
  unfold State.tlbFill
  dsimp only
  repeat'
    first
    | with_reducible first | exact h | (simp only [kept_mk_iff]; apply kept_same)
    | split

theorem kept_translate {s T : State} {core : Nat} {launch : Nat} {dva : Word} {write : Bool} (h : s.Kept T) :
    ExcKept2 s (State.translate T core launch dva write) := by
  unfold State.translate
  repeat'
    first
    | with_reducible first | exact h | apply exc2_err | apply exc2_ok | apply kept_walk | apply kept_tlbFill
                                  | (apply of_exc2; assumption)
    | split

theorem kept_firePlan {s T : State} {part : Nat} {m : Nat} (h : s.Kept T) :
    OptKept s (State.firePlan T part m) := by
  unfold State.firePlan
  repeat'
    first
    | with_reducible first | exact h | (simp only [kept_mk_iff]; apply kept_same) | apply opt_none | apply opt_some
    | split

theorem kept_sendPeer {s T : State} {pbr : Nat} {word : Nat} {bs : List Byte} (h : s.Kept T) :
    s.Kept (State.sendPeer T pbr word bs) := by
  unfold State.sendPeer
  repeat' with_reducible first | exact h | (simp only [kept_mk_iff]; apply kept_same)

theorem kept_put {s T : State} {a : Nat} {bs : List Byte} (h : s.Kept T) :
    s.Kept (State.put T a bs) := by
  unfold State.put
  repeat'
    first
    | with_reducible first | assumption | apply wf_msetN | apply of_kept | apply memWf_mem | apply memWf_host
                                  | apply memWf_dir | intro _ | (simp only [kept_mk_iff]; refine kept_mem ?_ ?_ ?_ ?_)

theorem kept_performAt {s T : State} {part : Nat} {x : Xlat} {bs : List Byte} (h : s.Kept T) :
    BothKept s Prod.fst (fun t => t) (State.performAt T part x bs) := by
  unfold State.performAt
  repeat'
    first
    | with_reducible first | exact h | apply both_err | apply both_ok | apply kept_firePlan | apply kept_sendPeer
                                  | apply kept_put | (apply of_opt; assumption)
    | split

theorem kept_logStore {s T : State} {k : Nat} {w : Option Wait} {a : Word} {x : Xlat} {key : Nat} {bs : List Byte} (h : s.Kept T) :
    BothKept s Prod.fst (fun t => t) (State.logStore T k w a x key bs) := by
  unfold State.logStore
  dsimp only
  repeat'
    first
    | with_reducible first | exact h | apply both_err | apply both_ok | apply kept_setCtx
    | split

theorem kept_writeAt {s T : State} {k : Nat} {w : Option Wait} {a : Word} {x : Xlat} {bs : List Byte} (h : s.Kept T) :
    BothKept s Prod.fst (fun t => t) (State.writeAt T k w a x bs) := by
  unfold State.writeAt
  repeat'
    first
    | with_reducible first | exact h | apply both_err | apply kept_performAt | apply kept_logStore
    | split

theorem kept_devWrite {s T : State} {k : Nat} {w : Option Wait} {a : Word} {bs : List Byte} (h : s.Kept T) :
    BothKept s Prod.fst (fun t => t) (State.devWrite T k w a bs) := by
  unfold State.devWrite
  repeat'
    first
    | with_reducible first | exact h | apply both_err | apply kept_writeAt | (apply of_exc2; assumption; apply kept_translate)
    | split

theorem kept_noteWin {s T : State} {ctx : Nat} {a : Word} {dirty : Bool} (h : s.Kept T) :
    s.Kept (State.noteWin T ctx a dirty) := by
  unfold State.noteWin
  repeat'
    first
    | with_reducible first | exact h | apply kept_translate | apply kept_l2Touch | (apply of_exc2; assumption)
    | split

theorem kept_readAt {s T : State} {k : Nat} {x : Xlat} {n : Nat} (h : s.Kept T) :
    BothKept s Prod.fst Prod.fst (State.readAt T k x n) := by
  unfold State.readAt
  repeat'
    first
    | with_reducible first | exact h | apply both_err | apply both_ok
    | split

theorem kept_devRead {s T : State} {k : Nat} {a : Word} {n : Nat} (h : s.Kept T) :
    BothKept s Prod.fst Prod.fst (State.devRead T k a n) := by
  unfold State.devRead
  repeat'
    first
    | with_reducible first | exact h | apply both_err | apply kept_readAt | (apply of_exc2; assumption; apply kept_translate)
    | split

theorem kept_dvaWinAccess {s T : State} {im : Image} {m : MemPend} {w : Win} {n : Nat} (h : s.Kept T) :
    Access.KeptBy s (State.dvaWinAccess T im m w n) := by
  unfold State.dvaWinAccess
  dsimp only
  repeat'
    first
    | with_reducible first | exact h | apply acc_fail | apply acc_done | apply acc_wait | apply kept_devWrite
                                  | apply kept_noteWin | apply kept_devRead | (apply of_both_pair; assumption)
                                  | (apply of_both_err_mk; assumption) | (apply of_both_state; assumption)
    | split

theorem kept_sttFill {s T : State} {core : Nat} {key : Nat} {e0 : SttEnt} (h : s.Kept T) :
    s.Kept (State.sttFill T core key e0) := by
  unfold State.sttFill
  dsimp only
  repeat'
    first
    | with_reducible first | exact h | (simp only [kept_mk_iff]; apply kept_same)
    | split

theorem kept_awaitMove {s T : State} {key : Nat} {c : Nat} (h : s.Kept T) :
    s.Kept (State.awaitMove T key c) := by
  unfold State.awaitMove
  repeat' with_reducible first | exact h | (simp only [kept_mk_iff]; apply kept_same)

theorem kept_startXfer {s T : State} {key : Nat} {from_ : Loc} {core : Nat} {open_ : Bool} {c : Nat} (h : s.Kept T) :
    s.Kept (State.startXfer T key from_ core open_ c) := by
  unfold State.startXfer
  repeat'
    first
    | with_reducible first | exact h | (simp only [kept_mk_iff]; apply kept_same) | apply kept_awaitMove
    | split

theorem kept_sttOpen {s T : State} {key : Nat} {w : Nat} {f : Nat} {c : Nat} (h : s.Kept T) :
    s.Kept (State.sttOpen T key w f c) := by
  unfold State.sttOpen
  repeat' with_reducible first | exact h | apply kept_sttFill

theorem kept_walkDir {s T : State} {c : Nat} {key : Nat} {g : Nat} {write : Bool} (h : s.Kept T) :
    PageRes.KeptBy s (State.walkDir T c key g write) := by
  unfold State.walkDir
  repeat'
    first
    | with_reducible first | assumption | apply page_fault | apply page_ok | apply page_wait | apply kept_sttFill
                                  | apply kept_startXfer | apply kept_awaitMove | apply kept_sttOpen | apply kept_setDir
                                  | (apply wf_of_tget; assumption) | apply of_kept | intro _
    | split
    | dsimp only [id]

theorem kept_sttRef {s T : State} {core : Nat} {key : Nat} (h : s.Kept T) :
    s.Kept (State.sttRef T core key) := by
  unfold State.sttRef
  repeat'
    first
    | with_reducible first | exact h | (simp only [kept_mk_iff]; apply kept_same)
    | split

theorem kept_pageAccess {s T : State} {c : Nat} {key : Nat} {g : Nat} {write : Bool} (h : s.Kept T) :
    PageRes.KeptBy s (State.pageAccess T c key g write) := by
  unfold State.pageAccess
  repeat'
    first
    | with_reducible first | exact h | apply page_fault | apply page_ok | apply kept_walkDir | apply kept_sttRef
    | split

theorem kept_tilePut {s T : State} {key : Nat} {off : Nat} {bs : List Byte} (h : s.Kept T) :
    s.Kept (State.tilePut T key off bs) := by
  unfold State.tilePut
  repeat' with_reducible first | assumption | apply kept_setDir | apply wf_msetN | apply wf_dirE | apply of_kept | intro _

theorem kept_tileWinAccess {s T : State} {core : Nat} {im : Image} {m : MemPend} {w : Win} {n : Nat} (h : s.Kept T) :
    Access.KeptBy s (State.tileWinAccess T core im m w n) := by
  unfold State.tileWinAccess
  dsimp only
  repeat'
    first
    | with_reducible first | exact h | apply acc_fail | apply acc_done | apply acc_wait | apply kept_pageAccess
                                  | apply kept_tilePut | (apply of_page_ok; assumption) | (apply of_page_wait; assumption)
    | split

theorem kept_tryAccess {s T : State} {core : Nat} {im : Image} {m : MemPend} (h : s.Kept T) :
    Access.KeptBy s (State.tryAccess T core im m) := by
  unfold State.tryAccess
  dsimp only
  repeat'
    first
    | with_reducible first | exact h | apply acc_fail | apply kept_dvaWinAccess | apply kept_tileWinAccess
    | split

theorem kept_settleFrom {s T : State} {image : Image} {k : Nat} {z3 : Nat} (h : s.Kept T) :
    s.Kept (State.settleFrom T image k z3).1 := by
  induction z3 generalizing T image k with
  | zero =>
    unfold State.settleFrom
    try dsimp only
    repeat'
      first
      | with_reducible first | exact h | apply kept_setElem | apply kept_tryAccess | (apply of_acc_done; assumption)
                                    | (apply of_acc_wait; assumption) | (apply of_acc_fail; assumption) | (apply ih)
      | split
  | succ n_ ih =>
    unfold State.settleFrom
    try dsimp only
    repeat'
      first
      | with_reducible first | exact h | apply kept_setElem | apply kept_tryAccess | (apply of_acc_done; assumption)
                                    | (apply of_acc_wait; assumption) | (apply of_acc_fail; assumption) | (apply ih)
      | split

theorem kept_settle {s T : State} {image : Image} {keep : Bool} {k : Nat} (h : s.Kept T) : s.Kept (T.settle image keep k).1 := by
  unfold State.settle
  dsimp only
  split
  · exact h
  · exact kept_settleFrom (kept_setElem h)

theorem kept_settleAll_foldl {s : State} {im : Image} {keep : Bool} {l : List (Nat × Elem)} {r : State × Option Nat} (h : s.Kept r.1) :
    s.Kept (l.foldl (fun r e => ((r.1.settle im keep e.1).1, r.2 <|> (r.1.settle im keep e.1).2)) r).1 := by
  induction l generalizing r with
  | nil => exact h
  | cons e l ih => exact ih (kept_settle h)

theorem kept_settleAll {s T : State} {keep : Bool} {l : List (Nat × Image)} (h : s.Kept T) : s.Kept (T.settleAll keep l).1 := by
  have fold (r : State × Option Nat) (hr : s.Kept r.1) :
      s.Kept (l.foldl (fun r i => (r.1.imageElems i.1 i.2).foldl (fun r e =>
        ((r.1.settle i.2 keep e.1).1, r.2 <|> (r.1.settle i.2 keep e.1).2)) r) r).1 := by
    induction l generalizing r with
    | nil => exact hr
    | cons i l ih => exact ih _ (kept_settleAll_foldl hr)
  exact fold _ h

theorem kept_killImage {s T : State} {ik : Nat} (h : s.Kept T) :
    s.Kept (State.killImage T ik) := by
  unfold State.killImage
  repeat'
    first
    | with_reducible first | exact h | apply kept_killSettled | apply kept_settleAll
    | split

theorem kept_stopGang {s T : State} {gk : Nat} (h : s.Kept T) :
    s.Kept (State.stopGang T gk) := by
  unfold State.stopGang
  repeat'
    first
    | with_reducible first | exact h | apply kept_haltEngine | apply kept_endPush | apply kept_killImage | apply kept_foldl
                                  | intro _

theorem kept_setGang {s T : State} {g : Nat} {x : Gang} (h : s.Kept T) :
    s.Kept (State.setGang T g x) := by
  unfold State.setGang
  repeat' with_reducible first | exact h | (simp only [kept_mk_iff]; apply kept_same)

theorem kept_freePlans {s T : State} {gk : Nat} (h : s.Kept T) :
    s.Kept (State.freePlans T gk) := by
  unfold State.freePlans
  repeat' with_reducible first | exact h | (simp only [kept_mk_iff]; apply kept_same)

theorem kept_freeBars {s T : State} {gk : Nat} (h : s.Kept T) :
    s.Kept (State.freeBars T gk) := by
  unfold State.freeBars
  repeat' with_reducible first | exact h | (simp only [kept_mk_iff]; apply kept_same)

theorem kept_sttDrop {s T : State} {key : Nat} (h : s.Kept T) :
    s.Kept (State.sttDrop T key) := by
  unfold State.sttDrop
  repeat' with_reducible first | exact h | (simp only [kept_mk_iff]; apply kept_same)

theorem kept_setLaunch {s T : State} {l : Nat} {x : Launch} (h : s.Kept T) :
    s.Kept (State.setLaunch T l x) := by
  unfold State.setLaunch
  repeat' with_reducible first | exact h | (simp only [kept_mk_iff]; apply kept_same)

theorem kept_freePage {s T : State} {key : Nat} (h : s.Kept T) :
    s.Kept (State.freePage T key) := by
  unfold State.freePage
  dsimp only
  repeat'
    first
    | with_reducible first | assumption | apply kept_sttDrop | apply kept_setLaunch | apply of_kept | apply memWf_mem
                                  | apply memWf_host | apply memWf_dir | apply all_tdel | intro _
                                  | (simp only [kept_mk_iff]; refine kept_mem ?_ ?_ ?_ ?_)
    | split

theorem kept_freeTile {s T : State} {key : Nat} (h : s.Kept T) :
    s.Kept (State.freeTile T key) := by
  unfold State.freeTile
  repeat'
    first
    | with_reducible first | exact h | (simp only [kept_mk_iff]; apply kept_same) | apply kept_freePage | apply kept_foldl
                                  | intro _
    | split

theorem kept_updCore {s T : State} {c : Nat} {f : Core → Core} (h : s.Kept T) :
    s.Kept (State.updCore T c f) := by
  unfold State.updCore
  repeat' with_reducible first | exact h | (simp only [kept_mk_iff]; apply kept_same)

theorem kept_freeLines {s T : State} {core : Nat} {n : Nat} (h : s.Kept T) :
    s.Kept (State.freeLines T core n) := by
  unfold State.freeLines
  repeat'
    first
    | with_reducible first | exact h | apply kept_updCore
    | split

theorem kept_sttPins {s T : State} (h : s.Kept T) :
    s.Kept (State.sttPins T) := by
  unfold State.sttPins
  repeat' with_reducible first | exact h | (simp only [kept_mk_iff]; apply kept_same)

theorem kept_unpin {s T : State} {holder : Nat} {keys : Option (List Nat)} (h : s.Kept T) :
    s.Kept (State.unpin T holder keys) := by
  unfold State.unpin
  repeat' with_reducible first | exact h | (simp only [kept_mk_iff]; apply kept_same) | apply kept_sttPins

theorem kept_releaseCtx {s T : State} {k : Nat} (h : s.Kept T) :
    s.Kept (State.releaseCtx T k) := by
  unfold State.releaseCtx
  repeat' with_reducible first | exact h | (simp only [kept_mk_iff]; apply kept_same) | apply kept_unpin

theorem kept_freeCtx {s T : State} {k : Nat} (h : s.Kept T) :
    s.Kept (State.freeCtx T k) := by
  unfold State.freeCtx
  repeat'
    first
    | with_reducible first | exact h | (simp only [kept_mk_iff]; apply kept_same) | apply kept_freeLines
                                  | apply kept_releaseCtx

theorem kept_endGang {s T : State} {gk : Nat} (h : s.Kept T) :
    s.Kept (State.endGang T gk) := by
  unfold State.endGang
  repeat'
    first
    | with_reducible first | exact h | (simp only [kept_mk_iff]; apply kept_same) | apply kept_freeBars | apply kept_stopGang
                                  | apply kept_freeTile | apply kept_freeCtx | apply kept_foldl

theorem kept_setRa {s T : State} {i : Nat} {r : RA} (h : s.Kept T) :
    s.Kept (State.setRa T i r) := by
  unfold State.setRa
  repeat' with_reducible first | exact h | (simp only [kept_mk_iff]; apply kept_same)

theorem kept_requeue {s T : State} {i : Nat} (h : s.Kept T) :
    s.Kept (State.requeue T i) := by
  unfold State.requeue
  repeat' with_reducible first | exact h | apply kept_setRa

theorem kept_reduceErr {s T : State} {i : Nat} {code : Nat} (h : s.Kept T) :
    s.Kept (State.reduceErr T i code) := by
  unfold State.reduceErr
  repeat' with_reducible first | exact h | apply kept_setRa

theorem kept_endAs {s T : State} {gk : Nat} {e : Ending} (h : s.Kept T) :
    s.Kept (State.endAs T gk e) := by
  unfold State.endAs
  repeat'
    first
    | with_reducible first | exact h | apply kept_freePlans | apply kept_endGang | apply kept_requeue | apply kept_reduceErr
    | split

theorem kept_abandonAs {s T : State} {gk : Nat} {e : Ending} (h : s.Kept T) :
    s.Kept (State.abandonAs T gk e) := by
  unfold State.abandonAs
  repeat'
    first
    | with_reducible first | exact h | apply kept_haltMembers | apply kept_stopGang | apply kept_setGang | apply kept_endAs
    | split

theorem kept_abandonErr {s T : State} {gk : Nat} {code : Nat} (h : s.Kept T) :
    s.Kept (State.abandonErr T gk code) := by
  unfold State.abandonErr
  repeat' with_reducible first | exact h | apply kept_abandonAs

theorem kept_abandon {s T : State} {gk : Nat} (h : s.Kept T) :
    s.Kept (State.abandon T gk) := by
  unfold State.abandon
  repeat' with_reducible first | exact h | apply kept_abandonAs

theorem kept_eccFatal {s T : State} {gk : Nat} (h : s.Kept T) :
    s.Kept (State.eccFatal T gk) := by
  unfold State.eccFatal
  dsimp only
  repeat'
    first
    | with_reducible first | exact h | apply kept_abandonErr | apply kept_abandon | apply kept_setRa
    | split

theorem kept_AccErr_res {s : State} {e : State × AccErr} {a : Word} (h : s.Kept e.1) : Res.KeptBy s (AccErr.res e a) := by
  unfold AccErr.res
  split <;> exact h

theorem kept_PageRes_got {α : Type} {s T : State} {g : α → State} {r : PageRes} {addr : Word} {f : State → Got α} (h : s.Kept T)
    (hr : PageRes.KeptBy s r) (hf : ∀ t, s.Kept t → GotKept s g (f t)) : GotKept s g (r.got T addr f) := by
  cases r with
  | ok t => exact hf t hr
  | wait t => exact hr
  | fault => exact h

theorem kept_PageRes_res {s : State} {r : PageRes} {addr : Word} {f : State → Res} (hr : PageRes.KeptBy s r)
    (hf : ∀ t, s.Kept t → Res.KeptBy s (f t)) : Res.KeptBy s (r.res addr f) := by
  cases r with
  | ok t => exact hf t hr
  | wait t => exact hr
  | fault => trivial

theorem kept_failGang {s T : State} {k : Nat} {code : Nat} (h : s.Kept T) :
    s.Kept (State.failGang T k code) := by
  unfold State.failGang
  dsimp only
  repeat'
    first
    | with_reducible first | exact h | apply kept_updCtx | apply kept_setRa
    | split

theorem kept_takeTrap {s T : State} {k : Nat} {t : Trap} (h : s.Kept T) :
    s.Kept (State.takeTrap T k t) := by
  unfold State.takeTrap
  dsimp only
  repeat'
    first
    | with_reducible first | exact h | apply kept_eccFatal | apply kept_setCtx | apply kept_failGang
    | split

theorem kept_Res_finish {s T : State} {r : Res} {k : Nat} {pc : Word} {len : Nat} (h : s.Kept T) (hr : Res.KeptBy s r) :
    s.Kept (Res.finish r T k pc len) := by
  cases r with
  | done t => unfold Res.finish; exact kept_updCtx hr
  | jump t a => unfold Res.finish; exact kept_updCtx hr
  | wait t w => unfold Res.finish; exact kept_updCtx hr
  | trap t => exact kept_takeTrap h
  | trapIn t x => exact kept_takeTrap hr
  | stop t => exact hr

theorem kept_settleAway {s T : State} {core : Nat} {l : Nat} {im : Image} {m : MemPend} (h : s.Kept T) :
    OptKept s (State.settleAway T core l im m) := by
  unfold State.settleAway
  dsimp only
  repeat'
    first
    | with_reducible first | exact h | apply opt_none | apply opt_some | (apply of_exc2; assumption; apply kept_translate)
                                  | (apply of_both_state; assumption; apply kept_performAt)
                                  | (apply of_both_err_mk; assumption; apply kept_performAt)
    | split

theorem kept_settlePend {s T : State} {core : Nat} {l : Nat} {im : Image} {z4 : List MemPend} (h : s.Kept T) :
    s.Kept (State.settlePend T core l im z4).1 := by
  induction z4 generalizing T core l im with
  | nil =>
    unfold State.settlePend
    repeat'
      first
      | with_reducible first | exact h | apply kept_settleAway | (apply of_opt; assumption) | (apply ih)
      | split
  | cons hd_ tl_ ih =>
    unfold State.settlePend
    repeat'
      first
      | with_reducible first | exact h | apply kept_settleAway | (apply of_opt; assumption) | (apply ih)
      | split

theorem kept_settleElems {s T : State} {l : Nat} {sv : Saved} {z3 : List (Nat × Elem)} (h : s.Kept T) :
    s.Kept (State.settleElems T l sv z3).1 := by
  induction z3 generalizing T l sv with
  | nil =>
    unfold State.settleElems
    repeat'
      first
      | with_reducible first | exact h | apply kept_settlePend | (apply ih)
      | split
  | cons hd_ tl_ ih =>
    unfold State.settleElems
    repeat'
      first
      | with_reducible first | exact h | apply kept_settlePend | (apply ih)
      | split

theorem kept_settleSaved {s T : State} {l : Nat} {z2 : List Saved} (h : s.Kept T) :
    s.Kept (State.settleSaved T l z2).1 := by
  induction z2 generalizing T l with
  | nil =>
    unfold State.settleSaved
    repeat' with_reducible first | exact h | apply kept_settleElems | (apply ih)
  | cons hd_ tl_ ih =>
    unfold State.settleSaved
    repeat' with_reducible first | exact h | apply kept_settleElems | (apply ih)

theorem kept_unplace {s T : State} {gk : Nat} (h : s.Kept T) :
    s.Kept (State.unplace T gk) := by
  unfold State.unplace
  repeat' with_reducible first | exact h | (simp only [kept_mk_iff]; apply kept_same) | apply kept_freeCtx | apply kept_foldl

theorem kept_freeSaves {s T : State} {l : Nat} {sg : SavedGang} (h : s.Kept T) :
    s.Kept (State.freeSaves T l sg) := by
  unfold State.freeSaves
  repeat' with_reducible first | exact h | apply kept_freePage | apply kept_foldl | intro _

theorem kept_endSaved {s T : State} {gk : Nat} {sg : SavedGang} {e : Ending} (h : s.Kept T) :
    s.Kept (State.endSaved T gk sg e) := by
  unfold State.endSaved
  dsimp only
  repeat'
    first
    | with_reducible first | exact h | (simp only [kept_mk_iff]; apply kept_same) | apply kept_freeSaves | apply kept_unplace
                                  | apply kept_freePlans | apply kept_freeTile | apply kept_setRa | apply kept_reduceErr
                                  | apply kept_requeue | apply kept_foldl
    | split

theorem kept_abandonSaved {s T : State} {gk : Nat} {sg : SavedGang} {e : Ending} (h : s.Kept T) :
    s.Kept (State.abandonSaved T gk sg e) := by
  unfold State.abandonSaved
  dsimp only
  repeat'
    first
    | with_reducible first | exact h | (simp only [kept_mk_iff]; apply kept_same) | apply kept_settleSaved
                                  | apply kept_unplace | apply kept_setRa | apply kept_endSaved
    | split

theorem kept_losePage {s T : State} {key : Nat} (h : s.Kept T) : s.Kept (State.losePage T key) := by
  unfold State.losePage
  simp only [kept_mk_iff]
  exact kept_mem (kept_sttDrop h) (fun w => ((kept_sttDrop h).mem w).1) (fun w => ((kept_sttDrop h).mem w).2.1)
    (fun w => dir_tset (h.mem w).2.2 rfl)

theorem kept_abandonWait {s T : State} {gk : Nat} {code : Nat} (h : s.Kept T) :
    s.Kept (State.abandonWait T gk code) := by
  unfold State.abandonWait
  dsimp only
  repeat'
    first
    | with_reducible first | exact h | apply kept_abandonErr | apply kept_abandon | apply kept_setRa
    | split

theorem kept_abandonOwner {s T : State} {gk : Nat} {key : Nat} (h : s.Kept T) :
    s.Kept (State.abandonOwner T gk key) := by
  unfold State.abandonOwner
  repeat'
    first
    | with_reducible first | exact h | apply kept_abandonSaved | apply kept_losePage | apply kept_abandonWait
    | split

theorem kept_send {s T : State} {m : Msg} (h : s.Kept T) :
    s.Kept (State.send T m) := by
  unfold State.send
  repeat' with_reducible first | exact h | (simp only [kept_mk_iff]; apply kept_same)

theorem kept_tellDrop {s T : State} {p : Plan} (h : s.Kept T) :
    s.Kept (State.tellDrop T p) := by
  unfold State.tellDrop
  repeat' with_reducible first | exact h | apply kept_send

theorem kept_dropPlans {s T : State} {gk : Nat} (h : s.Kept T) :
    s.Kept (State.dropPlans T gk) := by
  unfold State.dropPlans
  repeat'
    first
    | with_reducible first | exact h | (simp only [kept_mk_iff]; apply kept_same) | apply kept_tellDrop | apply kept_foldl
                                  | intro _

theorem kept_accept {s T : State} {gk : Nat} (h : s.Kept T) :
    s.Kept (State.accept T gk) := by
  unfold State.accept
  repeat' with_reducible first | exact h | apply kept_freeBars | apply kept_dropPlans | apply kept_stopGang | apply kept_setRa

theorem kept_addRef {s T : State} {key : Nat} {up : Bool} (h : s.Kept T) :
    s.Kept (State.addRef T key up) := by
  unfold State.addRef
  repeat'
    first
    | with_reducible first | assumption | apply kept_setDir | (apply wf_of_tget; assumption) | apply of_kept | intro _
    | split
    | dsimp only [id]

theorem kept_pinPage {s T : State} {core : Nat} {key : Nat} {holder : Nat} (h : s.Kept T) :
    s.Kept (State.pinPage T core key holder) := by
  unfold State.pinPage
  repeat' with_reducible first | exact h | (simp only [kept_mk_iff]; apply kept_same) | apply kept_sttPins

theorem kept_keepPin {s T : State} {key : Nat} (h : s.Kept T) :
    s.Kept (State.keepPin T key) := by
  unfold State.keepPin
  dsimp only
  repeat'
    first
    | with_reducible first | exact h | apply kept_pinPage
    | split

theorem kept_dropXfer {s T : State} {x : Xfer} (h : s.Kept T) :
    s.Kept (State.dropXfer T x) := by
  unfold State.dropXfer
  dsimp only
  repeat'
    first
    | with_reducible first | assumption | apply kept_setDir | apply wf_dirE | apply of_kept | apply memWf_mem
                                  | apply memWf_host | apply memWf_dir | intro _
                                  | (simp only [kept_mk_iff]; refine kept_mem ?_ ?_ ?_ ?_)
    | split

theorem kept_arrive {s T : State} {x : Xfer} (h : s.Kept T) :
    s.Kept (State.arrive T x) := by
  unfold State.arrive
  repeat'
    first
    | with_reducible first | assumption | apply kept_dropXfer | apply kept_sttFill | apply kept_setDir | apply kept_sttDrop
                                  | apply kept_sttOpen | apply kept_foldl | (apply wf_of_tget; assumption) | apply of_kept
                                  | apply memWf_mem | apply memWf_host | apply memWf_dir | intro _
                                  | (simp only [kept_mk_iff]; refine kept_mem ?_ ?_ ?_ ?_)
    | split
    | dsimp only [id]

theorem kept_sealTile {s T : State} {key : Nat} {pinned : Bool} (h : s.Kept T) : s.Kept (State.sealTile T key pinned) := by
  unfold State.sealTile
  split
  · exact h
  · refine kept_setTileSt ?_
    dsimp only
    simp only [kept_mk_iff]
    refine kept_same (kept_foldl (fun t x ht => ?_) (kept_foldl (fun t x ht => kept_dropXfer (kept_arrive ht)) h))
    simp only [kept_mk_iff]
    exact kept_same (kept_setDir ht fun w => wf_dirE (ht.mem w))

theorem kept_closeTiles {s T : State} {gk : Nat} {launch : Nat} {result : List Word} (h : s.Kept T) :
    s.Kept (State.closeTiles T gk launch result) := by
  unfold State.closeTiles
  repeat'
    first
    | with_reducible first | assumption | apply kept_keepPin | apply kept_sealTile | apply kept_freeTile | apply kept_foldl
                                  | intro _
    | split

theorem kept_countAtoms {s T : State} {launch : Nat} {gone : List Word} {result : List Word} (h : s.Kept T) :
    s.Kept (State.countAtoms T launch gone result) := by
  unfold State.countAtoms
  repeat'
    first
    | with_reducible first | assumption | apply kept_addRef | apply kept_freeTile | apply kept_foldl | intro _
    | split

theorem kept_publishLine {s T : State} {l : LogLine} (h : s.Kept T) :
    s.Kept (State.publishLine T l) := by
  unfold State.publishLine
  repeat'
    first
    | with_reducible first | assumption | apply kept_sendPeer | apply kept_firePlan | apply kept_foldl | apply opt_getD
                                  | apply of_kept | apply memWf_mem | apply memWf_host | apply memWf_dir | apply wf_mset
                                  | intro _ | (simp only [kept_mk_iff]; refine kept_mem ?_ ?_ ?_ ?_)
    | split

theorem kept_publish {s T : State} {k : Nat} (h : s.Kept T) :
    s.Kept (State.publish T k) := by
  unfold State.publish
  repeat'
    first
    | with_reducible first | assumption | apply kept_l2Touch | apply kept_publishLine | apply kept_updCtx
                                  | apply kept_freeLines | apply kept_foldl | intro _
    | split

theorem kept_afterKnead {s T : State} {launch : Nat} {i : Nat} {gone : List Word} (h : s.Kept T) :
    s.Kept (State.afterKnead T launch i gone) := by
  unfold State.afterKnead
  repeat'
    first
    | with_reducible first | exact h | (simp only [kept_mk_iff]; apply kept_same) | apply kept_closeTiles
                                  | apply kept_countAtoms | apply kept_publish | apply kept_dropPlans | apply kept_endGang
                                  | apply kept_foldl
    | split

theorem kept_updPart {s T : State} {p : Nat} {f : Part → Part} (h : s.Kept T) :
    s.Kept (State.updPart T p f) := by
  unfold State.updPart
  repeat' with_reducible first | exact h | (simp only [kept_mk_iff]; apply kept_same)

theorem kept_dropLaunch {s T : State} {l : Nat} (h : s.Kept T) :
    s.Kept (State.dropLaunch T l) := by
  unfold State.dropLaunch
  repeat'
    first
    | with_reducible first | assumption | (simp only [kept_mk_iff]; apply kept_same) | apply kept_freePlans
                                  | apply kept_endGang | apply kept_freePage | apply kept_updPart | apply kept_foldl | intro _

theorem kept_raise {s T : State} {v : Nat} (h : s.Kept T) :
    s.Kept (State.raise T v) := by
  unfold State.raise
  repeat'
    first
    | with_reducible first | exact h | (simp only [kept_mk_iff]; apply kept_same) | apply kept_send
    | split

theorem kept_stopLaunch {s T : State} {l : Nat} {fault : Nat} {detail : Nat} (h : s.Kept T) :
    s.Kept (State.stopLaunch T l fault detail) := by
  unfold State.stopLaunch
  repeat' with_reducible first | exact h | apply kept_dropLaunch | apply kept_setLaunch | apply kept_raise | apply kept_updPart

theorem kept_fillSlot {s T : State} {key : Nat} {i : Nat} (h : s.Kept T) :
    s.Kept (State.fillSlot T key i) := by
  unfold State.fillSlot
  dsimp only
  repeat'
    first
    | with_reducible first | assumption | apply kept_setDir | apply wf_msetN | apply wf_dirE | apply of_kept | apply memWf_mem
                                  | apply memWf_host | apply memWf_dir | intro _
                                  | (simp only [kept_mk_iff]; refine kept_mem ?_ ?_ ?_ ?_)
    | split

theorem kept_writeBacking {s T : State} {key : Nat} (h : s.Kept T) :
    OptKept s (State.writeBacking T key) := by
  unfold State.writeBacking
  dsimp only
  repeat'
    first
    | with_reducible first | exact h | apply opt_none | apply opt_some | apply kept_fillSlot | apply kept_setLaunch
    | split

theorem kept_unspill {s T : State} {z : Nat × Nat × Nat} (h : s.Kept T) :
    OptKept s (State.unspill T z) := by
  unfold State.unspill
  repeat'
    first
    | with_reducible first | assumption | apply opt_none | apply opt_some | apply kept_writeBacking | apply kept_setDir
                                  | (apply of_opt; assumption) | apply wf_dirE | apply of_kept | apply memWf_mem
                                  | apply memWf_host | apply memWf_dir | intro _
                                  | (simp only [kept_mk_iff]; refine kept_mem ?_ ?_ ?_ ?_)
    | split

theorem kept_dirRoom {s T : State} {part : Nat} {slice : Nat} (h : s.Kept T) :
    OptKept s (State.dirRoom T part slice) := by
  unfold State.dirRoom
  repeat'
    first
    | with_reducible first | exact h | (simp only [kept_mk_iff]; apply kept_same) | apply opt_none | apply opt_some
                                  | apply opt_map | apply opt_findSome | apply kept_unspill | (apply of_opt; assumption)
                                  | intro _
    | split

theorem kept_newPage {s T : State} {key : Nat} {g : Nat} {k : Nat} {rank : Nat} {pages : Nat} {head : Bool} (h : s.Kept T) :
    OptKept s (State.newPage T key g k rank pages head) := by
  unfold State.newPage
  repeat'
    first
    | with_reducible first | exact h | apply opt_none | apply opt_some | apply kept_dirRoom | apply kept_setDir
                                  | (apply of_opt; assumption) | apply wf_nil | intro _
    | split

theorem kept_newPages {s T : State} {key : Nat} {g : Nat} {k : Nat} {rank : Nat} {pages : Nat} {i : Nat} {z7 : Nat} (h : s.Kept T) :
    OptKept s (State.newPages T key g k rank pages i z7) := by
  induction z7 generalizing T key g k rank pages i with
  | zero =>
    unfold State.newPages
    repeat'
      first
      | with_reducible first | exact h | apply opt_none | apply opt_some | apply kept_newPage | (apply of_opt; assumption)
                                    | (apply ih)
      | split
  | succ n_ ih =>
    unfold State.newPages
    repeat'
      first
      | with_reducible first | exact h | apply opt_none | apply opt_some | apply kept_newPage | (apply of_opt; assumption)
                                    | (apply ih)
      | split

theorem kept_pinNew {s T : State} {core : Nat} {k : Nat} {keys : List Nat} (h : s.Kept T) :
    s.Kept (State.pinNew T core k keys) := by
  unfold State.pinNew
  repeat'
    first
    | with_reducible first | assumption | apply kept_sttFill | apply kept_setDir | apply kept_foldl | apply wf_dirE
                                  | apply of_kept | apply memWf_mem | apply memWf_host | apply memWf_dir | intro _
                                  | (simp only [kept_mk_iff]; refine kept_mem ?_ ?_ ?_ ?_)
    | split

theorem kept_allocTile {s T : State} {k : Nat} {d : BitVec 4} {fmt : Nat} {rows : Nat} {cols : Nat} {pin : Bool} (h : s.Kept T) :
    Res.KeptBy s (State.allocTile T k d fmt rows cols pin) := by
  unfold State.allocTile
  dsimp only
  repeat'
    first
    | with_reducible first | exact h | (simp only [kept_mk_iff]; apply kept_same) | apply kept_trap | apply kept_done
                                  | apply kept_stop | apply kept_stopLaunch | apply kept_newPages | apply kept_setLaunch
                                  | apply kept_pinNew | apply kept_updCtx | (apply of_opt; assumption)
    | split

theorem kept_answer {s T : State} {code : Nat} {data : List Byte} (h : s.Kept T) :
    s.Kept (State.answer T code data) := by
  unfold State.answer
  repeat' with_reducible first | exact h | (simp only [kept_mk_iff]; apply kept_same) | apply kept_send

theorem kept_append {s T : State} {k : Nat} {l : List LogSym} (h : s.Kept T) :
    Res.KeptBy s (State.append T k l) := by
  unfold State.append
  repeat'
    first
    | with_reducible first | exact h | apply kept_trap | apply kept_done | apply kept_updCtx
    | split

theorem kept_gangEvent {s T : State} {gk : Nat} (h : s.Kept T) :
    s.Kept (State.gangEvent T gk) := by
  unfold State.gangEvent
  repeat' with_reducible first | exact h | apply kept_updCtx | apply kept_foldl | intro _

theorem kept_arriveBar {s T : State} {k : Nat} {gk : Nat} (h : s.Kept T) :
    s.Kept (State.arriveBar T k gk) := by
  unfold State.arriveBar
  dsimp only
  repeat'
    first
    | with_reducible first | exact h | (simp only [kept_mk_iff]; apply kept_same) | apply kept_gangEvent
    | split

theorem kept_askHalt {s T : State} {l : Nat} (h : s.Kept T) :
    s.Kept (State.askHalt T l) := by
  unfold State.askHalt
  repeat' with_reducible first | exact h | (simp only [kept_mk_iff]; apply kept_same)

theorem kept_ownLine {s T : State} {core : Nat} {key : Nat} {own : Bool} (h : s.Kept T) :
    s.Kept (State.ownLine T core key own) := by
  unfold State.ownLine
  repeat'
    first
    | with_reducible first | exact h | (simp only [kept_mk_iff]; apply kept_same)
    | split

theorem kept_l1dWriteBack {s T : State} {p : Nat} {core : Nat} {old : Tab Bool} (h : s.Kept T) :
    s.Kept (State.l1dWriteBack T p core old) := by
  unfold State.l1dWriteBack
  repeat'
    first
    | with_reducible first | exact h | apply kept_l2Touch
    | split

theorem kept_l1dTouch {s T : State} {core : Nat} {dpa : Nat} {dirty : Bool} (h : s.Kept T) :
    s.Kept (State.l1dTouch T core dpa dirty) := by
  unfold State.l1dTouch
  repeat' with_reducible first | exact h | (simp only [kept_mk_iff]; apply kept_same)

theorem kept_cacheLine {s T : State} {p : Nat} {core : Nat} {dpa : Nat} {key : Nat} {dirty : Bool} {own : Bool} (h : s.Kept T) :
    s.Kept (State.cacheLine T p core dpa key dirty own) := by
  unfold State.cacheLine
  repeat'
    first
    | with_reducible first | exact h | apply kept_l2Touch | apply kept_ownLine | apply kept_l1dWriteBack | apply kept_l1dTouch
    | split

theorem kept_atPlace {s T : State} {p : Nat} {core : Nat} {dpa : Nat} {key : Nat} {mtype : Nat} {scope : BitVec 3} (h : s.Kept T) :
    s.Kept (State.atPlace T p core dpa key mtype scope) := by
  unfold State.atPlace
  repeat'
    first
    | with_reducible first | exact h | (simp only [kept_mk_iff]; apply kept_same) | apply kept_cacheLine | apply kept_l2Touch
    | split

theorem kept_atcAsk {s T : State} {part : Nat} {pasid : Nat} {page : Nat} {write : Bool} (h : s.Kept T) :
    s.Kept (State.atcAsk T part pasid page write) := by
  unfold State.atcAsk
  dsimp only
  repeat'
    first
    | with_reducible first | exact h | (simp only [kept_mk_iff]; apply kept_same) | apply kept_send
    | split

theorem kept_withTileIf {s T : State} {k : Nat} {z2 : Handle} {bad : Bool} {f : Nat → Tile → Res} (h : s.Kept T) (hf : ∀ y0 y1, Res.KeptBy s (f y0 y1)) :
    Res.KeptBy s (State.withTileIf T k z2 bad f) := by
  unfold State.withTileIf
  repeat'
    first
    | with_reducible first | apply kept_trap | apply hf
    | split

theorem kept_withTile {s T : State} {k : Nat} {z2 : Handle} {f : Nat → Tile → Res} (h : s.Kept T) (hf : ∀ y0 y1, Res.KeptBy s (f y0 y1)) :
    Res.KeptBy s (State.withTile T k z2 f) := by
  unfold State.withTile
  repeat' with_reducible first | exact h | apply hf | apply kept_withTileIf

theorem kept_takeExtents {s T : State} {k : Nat} {x : Ctx} {g : Engine} {f : Engine → Res} (h : s.Kept T) (hf : ∀ y0, Res.KeptBy s (f y0)) :
    Res.KeptBy s (State.takeExtents T k x g f) := by
  unfold State.takeExtents
  repeat'
    first
    | with_reducible first | exact h | apply kept_trap | apply hf | apply kept_withTile | intro _
    | split

theorem kept_startFill {s T : State} {key : Nat} {t : Tile} {bytes : Nat} (h : s.Kept T) :
    s.Kept (State.startFill T key t bytes) := by
  unfold State.startFill
  repeat' with_reducible first | exact h | (simp only [kept_mk_iff]; apply kept_same) | apply kept_setTileSt

theorem kept_walkRun {s T : State} {core : Nat} {launch : Nat} {a : Word} {write : Bool} (h : s.Kept T) :
    ExcKept2 s (State.walkRun T core launch a write) := by
  unfold State.walkRun
  repeat'
    first
    | with_reducible first | exact h | apply exc2_err | apply exc2_ok | apply kept_walk | (apply of_exc2; assumption)
    | split

theorem kept_patchRuns {s T : State} {core : Nat} {launch : Nat} {lo : Word} {write : Bool} {rs : List PRun} {z6 : Nat} (h : s.Kept T) :
    BothKept s Prod.fst Prod.fst (State.patchRuns T core launch lo write rs z6) := by
  induction z6 generalizing T core launch lo write rs with
  | zero =>
    unfold State.patchRuns
    repeat'
      first
      | with_reducible first | exact h | apply both_err | apply both_ok | (apply of_exc2; assumption; apply kept_walkRun)
                                    | (apply ih)
      | split
  | succ n_ ih =>
    unfold State.patchRuns
    repeat'
      first
      | with_reducible first | exact h | apply both_err | apply both_ok | (apply of_exc2; assumption; apply kept_walkRun)
                                    | (apply ih)
      | split

theorem kept_footRuns {s T : State} {e : Nat} {g : Engine} (h : s.Kept T) :
    BothKept s Prod.fst Prod.fst (State.footRuns T e g) := by
  unfold State.footRuns
  dsimp only
  repeat'
    first
    | with_reducible first | exact h | apply both_err | apply both_ok | apply kept_patchRuns
                                  | (apply of_both_pair; assumption) | (apply of_both_err_mk; assumption)
    | split

theorem kept_faultEngine {s T : State} {k : Nat} {code : Nat} {kind : Nat} {addr : Word} (h : s.Kept T) :
    s.Kept (State.faultEngine T k code kind addr) := by
  unfold State.faultEngine
  repeat'
    first
    | with_reducible first | exact h | apply kept_endPush | apply kept_setEngine | apply kept_emptyDst
    | split

theorem kept_updEngine {s T : State} {k : Nat} {f : Engine → Engine} (h : s.Kept T) :
    s.Kept (State.updEngine T k f) := by
  unfold State.updEngine
  repeat' with_reducible first | exact h | apply kept_setEngine

theorem kept_checkFoot {s T : State} {e : Nat} (h : s.Kept T) :
    s.Kept (State.checkFoot T e) := by
  unfold State.checkFoot
  dsimp only
  repeat'
    first
    | with_reducible first | exact h | apply kept_footRuns | apply kept_faultEngine | apply kept_updEngine
                                  | (apply of_both_pair; assumption) | (apply of_both_err_mk; assumption)
    | split

theorem kept_bindSlot {s T : State} {k : Nat} {x : Ctx} {e : Nat} {g0 g : Engine} {a : BitVec 4} {n : Nat} {resume : Bool} (h : s.Kept T) :
    Res.KeptBy s (State.bindSlot T k x e g0 g a n resume) := by
  unfold State.bindSlot
  refine kept_withTile h fun key t => ?_
  have bound (b : Bool) : s.Kept (if b then (T.setEngine e (g.bind n (x.rh a) a.toNat)).startFill key t (g.count * recSize g.record)
      else T.setEngine e (g.bind n (x.rh a) a.toNat)) := kept_ite (kept_startFill (kept_setEngine h)) (kept_setEngine h)
  exact res_ite (kept_wait h) (res_ite kept_trap (kept_done (kept_ite (bound _) (kept_checkFoot (bound _)))))

theorem kept_bindHandle {s T : State} {k : Nat} {x : Ctx} {e : Nat} {g0 : Engine} {a : BitVec 4} {n : Nat} {resume : Bool} (h : s.Kept T) :
    Res.KeptBy s (State.bindHandle T k x e g0 a n resume) := by
  unfold State.bindHandle
  dsimp only
  repeat'
    first
    | with_reducible first | exact h | apply kept_trap | apply kept_takeExtents | apply kept_bindSlot | intro _
    | split

theorem kept_bindHost {s T : State} {k : Nat} {x : Ctx} {e : Nat} {g0 : Engine} (h : s.Kept T) :
    Res.KeptBy s (State.bindHost T k x e g0) := by
  unfold State.bindHost
  dsimp only
  repeat'
    first
    | with_reducible first | exact h | apply kept_trap | apply kept_done | apply kept_takeExtents | apply kept_setEngine
                                  | apply kept_checkFoot | intro _
    | split

theorem kept_pagesAccess {s T : State} {c : Nat} {keys : List Nat} {g : Nat} {write : Bool} (h : s.Kept T) :
    PageRes.KeptBy s (State.pagesAccess T c keys g write) := by
  induction keys generalizing T c g write with
  | nil =>
    unfold State.pagesAccess
    repeat'
      first
      | with_reducible first | exact h | apply page_fault | apply page_ok | apply page_wait | apply kept_pageAccess
                                    | (apply of_page_ok; assumption) | (apply of_page_wait; assumption) | (apply ih)
      | split
  | cons hd_ tl_ ih =>
    unfold State.pagesAccess
    repeat'
      first
      | with_reducible first | exact h | apply page_fault | apply page_ok | apply page_wait | apply kept_pageAccess
                                    | (apply of_page_ok; assumption) | (apply of_page_wait; assumption) | (apply ih)
      | split

theorem kept_bringPins {s T : State} {k : Nat} {sv : Saved} (h : s.Kept T) :
    PageRes.KeptBy s (State.bringPins T k sv) := by
  unfold State.bringPins
  repeat' with_reducible first | exact h | apply kept_pagesAccess

theorem kept_bringAll {s T : State} {z1 : List (Nat × Saved)} (h : s.Kept T) :
    s.Kept (State.bringAll T z1).1 := by
  induction z1 generalizing T with
  | nil =>
    unfold State.bringAll
    repeat'
      first
      | with_reducible first | exact h | apply kept_updCtx | apply kept_bringPins | (apply of_page_ok; assumption)
                                    | (apply of_page_wait; assumption) | (apply ih)
      | split
  | cons hd_ tl_ ih =>
    unfold State.bringAll
    repeat'
      first
      | with_reducible first | exact h | apply kept_updCtx | apply kept_bringPins | (apply of_page_ok; assumption)
                                    | (apply of_page_wait; assumption) | (apply ih)
      | split

theorem kept_engXlat {s T : State} {ctx : Nat} {via : Option Nat} {a : Word} {write : Bool} (h : s.Kept T) :
    BothKept s Prod.fst Prod.fst (State.engXlat T ctx via a write) := by
  unfold State.engXlat
  dsimp only
  repeat'
    first
    | with_reducible first | exact h | apply both_err | apply both_ok | apply kept_translate | apply kept_walkRun
                                  | apply kept_updEngine | (apply of_exc2; assumption)
    | split

theorem kept_burstWalk {s T : State} {e : Nat} {g : Engine} {rel : Int} (h : s.Kept T) :
    s.Kept (State.burstWalk T e g rel) := by
  unfold State.burstWalk
  repeat'
    first
    | with_reducible first | exact h | apply kept_engXlat | (apply of_both_fst; assumption)
                                  | (apply of_both_err_mk; assumption)
    | split

theorem kept_carryWord {s T : State} {key : Nat} {cyc : Nat} (h : s.Kept T) :
    s.Kept (State.carryWord T key cyc) := by
  unfold State.carryWord
  repeat' with_reducible first | exact h | (simp only [kept_mk_iff]; apply kept_same)

theorem kept_cfgDrop {s T : State} {core : Nat} {launch : Nat} {entry : Nat} {pinned : Bool} (h : s.Kept T) :
    s.Kept (State.cfgDrop T core launch entry pinned) := by
  unfold State.cfgDrop
  repeat' with_reducible first | exact h | (simp only [kept_mk_iff]; apply kept_same)

theorem kept_cfgPut {s T : State} {core : Nat} {launch : Nat} {src : ImgSrc} {entry : Nat} {qs : List Nat} {d : ImgData} (h : s.Kept T) :
    s.Kept (State.cfgPut T core launch src entry qs d) := by
  unfold State.cfgPut
  repeat' with_reducible first | exact h | (simp only [kept_mk_iff]; apply kept_same)

theorem kept_cfgSend {s T : State} {core : Nat} {launch : Nat} {qs : List Nat} (h : s.Kept T) :
    s.Kept (State.cfgSend T core launch qs) := by
  unfold State.cfgSend
  repeat'
    first
    | with_reducible first | assumption | apply kept_cfgPut | apply kept_foldl | intro _
    | split

theorem kept_savePages {s T : State} {gk : Nat} {k : Nat} {bs : List Byte} {key : Nat} {z5 : Nat} (h : s.Kept T) :
    OptKept s (State.savePages T gk k bs key z5) := by
  induction z5 generalizing T gk k bs key with
  | zero =>
    unfold State.savePages
    repeat'
      first
      | with_reducible first | exact h | (simp only [kept_mk_iff]; apply kept_same) | apply opt_none | apply opt_some
                                    | apply kept_setDir | apply kept_newPage | (apply of_opt; assumption) | (apply ih)
                                    | apply wf_msetN | apply wf_nil | intro _
      | split
  | succ n_ ih =>
    unfold State.savePages
    repeat'
      first
      | with_reducible first | exact h | (simp only [kept_mk_iff]; apply kept_same) | apply opt_none | apply opt_some
                                    | apply kept_setDir | apply kept_newPage | (apply of_opt; assumption) | (apply ih)
                                    | apply wf_msetN | apply wf_nil | intro _
      | split

theorem kept_saveMember {s T : State} {gk k : Nat} (h : s.Kept T) : OptKept2 s (T.saveMember gk k) := by
  unfold State.saveMember
  exact opt_map2 (kept_savePages (kept_setLaunch h)) fun t ht => ht

theorem kept_saveMembers {s T : State} {gk : Nat} {l : List Nat} (h : s.Kept T) : OptKept2 s (T.saveMembers gk l) := by
  induction l generalizing T with
  | nil => exact opt2_some h
  | cons k r ih =>
    unfold State.saveMembers
    split
    · exact opt2_none
    · rename_i a heq
      exact opt2_map2 (ih (of_opt2 (x := a.2) heq (kept_saveMember h))) fun p hp => hp

theorem kept_checkpoint {s T : State} {gk : Nat} (h : s.Kept T) :
    s.Kept (State.checkpoint T gk) := by
  unfold State.checkpoint
  dsimp only
  repeat'
    first
    | with_reducible first | exact h | (simp only [kept_mk_iff]; apply kept_same) | apply kept_abandonErr
                                  | apply kept_stopLaunch | apply kept_saveMembers | apply kept_freeBars | apply kept_freeCtx
                                  | apply kept_setRa | apply kept_foldl | (apply of_opt2; assumption)
    | split

theorem kept_checkpointDue {s T : State} {part : Nat} (h : s.Kept T) :
    s.Kept (State.checkpointDue T part) := by
  unfold State.checkpointDue
  repeat'
    first
    | with_reducible first | assumption | apply kept_checkpoint | apply kept_foldl | intro _
    | split

theorem kept_cleanLine {s T : State} {e : Nat} {g : Engine} {ws : List (Int × Nat)} (h : s.Kept T) :
    s.Kept (State.cleanLine T e g ws) := by
  unfold State.cleanLine
  dsimp only
  repeat'
    first
    | with_reducible first | exact h | (simp only [kept_mk_iff]; apply kept_same)
    | split

theorem kept_clearCore {s T : State} {core : Nat} (h : s.Kept T) : s.Kept (T.clearCore core) := by
  unfold State.clearCore
  simp only [kept_mk_iff]
  exact ⟨(kept_updCore h).agenda, h.inputs, (kept_updCore h).mem⟩

theorem kept_clearL2 {s T : State} {p : Nat} (h : s.Kept T) :
    s.Kept (State.clearL2 T p) := by
  unfold State.clearL2
  repeat' with_reducible first | exact h | (simp only [kept_mk_iff]; apply kept_same)

theorem kept_clearQuads {s T : State} {core : Nat} {qs : List Nat} (h : s.Kept T) :
    s.Kept (State.clearQuads T core qs) := by
  unfold State.clearQuads
  repeat' with_reducible first | exact h | (simp only [kept_mk_iff]; apply kept_same)

theorem kept_spillToBacking {s T : State} {slices : List Nat} (h : s.Kept T) :
    OptKept s (State.spillToBacking T slices) := by
  unfold State.spillToBacking
  repeat' with_reducible first | exact h | apply opt_bind | apply kept_unspill | intro _

theorem kept_roomInCluster {s T : State} {part : Nat} {cluster : Nat} (h : s.Kept T) :
    OptKept2 s (State.roomInCluster T part cluster) := by
  unfold State.roomInCluster
  repeat'
    first
    | with_reducible first | exact h | apply opt2_none | apply opt2_some | apply opt2_map | apply kept_spillToBacking
                                  | (apply of_opt; assumption) | intro _
    | split

theorem kept_evict {s T : State} {core : Nat} {frame : Nat} {key : Nat} (h : s.Kept T) :
    s.Kept (State.evict T core frame key) := by
  unfold State.evict
  dsimp only
  repeat'
    first
    | with_reducible first | assumption | apply kept_setDir | apply kept_roomInCluster | (apply of_opt2; assumption)
                                  | apply wf_dirE | apply of_kept | apply memWf_mem | apply memWf_host | apply memWf_dir
                                  | intro _ | (simp only [kept_mk_iff]; refine kept_mem ?_ ?_ ?_ ?_)
    | split

theorem kept_clockFrom {s T : State} {core : Nat} {z2 : Nat} (h : s.Kept T) :
    s.Kept (State.clockFrom T core z2) := by
  induction z2 generalizing T core with
  | zero =>
    unfold State.clockFrom
    try dsimp only
    repeat'
      first
      | with_reducible first | exact h | (simp only [kept_mk_iff]; apply kept_same) | apply kept_updCore | apply kept_evict
                                    | (apply ih)
      | split
  | succ n_ ih =>
    unfold State.clockFrom
    try dsimp only
    repeat'
      first
      | with_reducible first | exact h | (simp only [kept_mk_iff]; apply kept_same) | apply kept_updCore | apply kept_evict
                                    | (apply ih)
      | split

theorem kept_closeGang {s T : State} {gk : Nat} (h : s.Kept T) :
    s.Kept (State.closeGang T gk) := by
  unfold State.closeGang
  repeat'
    first
    | with_reducible first | assumption | (simp only [kept_mk_iff]; apply kept_same) | apply kept_updCtx
                                  | apply kept_setTileSt | apply kept_setGang | apply kept_foldl | intro _
    | split

theorem kept_collDone {s T : State} {gk : Nat} (h : s.Kept T) :
    s.Kept (State.collDone T gk) := by
  unfold State.collDone
  dsimp only
  repeat'
    first
    | with_reducible first | exact h | apply kept_updCtx | apply kept_setGang | apply kept_abandonErr | apply kept_takeTrap
                                  | apply kept_foldl | intro _
    | split

theorem kept_collRes {s T : State} {_k : Nat} {x : Ctx} {c : Coll} (h : s.Kept T) :
    Res.KeptBy s (State.collRes T _k x c) := by
  unfold State.collRes
  dsimp only
  repeat'
    first
    | with_reducible first | exact h | apply kept_wait | apply kept_stop | apply kept_abandonErr | apply kept_setGang
                                  | apply kept_collDone
    | split

theorem kept_markCommit {s T : State} {gk : Nat} {rank : Nat} {on : Bool} (h : s.Kept T) :
    s.Kept (State.markCommit T gk rank on) := by
  unfold State.markCommit
  repeat' with_reducible first | exact h | apply kept_setGang

theorem kept_commitRes {s T : State} {k : Nat} {x : Ctx} (h : s.Kept T) :
    Res.KeptBy s (State.commitRes T k x) := by
  unfold State.commitRes
  dsimp only
  repeat'
    first
    | with_reducible first | exact h | apply kept_wait | apply kept_stop | apply kept_abandonErr | apply kept_markCommit
                                  | apply kept_updCtx | apply kept_accept | apply kept_takeTrap
    | split

theorem kept_copyLost {s T : State} {gk : Nat} {src : Nat} {dst : Nat} {code : Nat} {kind : Nat} {page : Nat} (h : s.Kept T) :
    s.Kept (State.copyLost T gk src dst code kind page) := by
  unfold State.copyLost
  dsimp only
  repeat'
    first
    | with_reducible first | exact h | apply kept_setTileSt | apply kept_setGang | apply kept_takeTrap
    | split

theorem kept_countError {s T : State} {u : Nat} (h : s.Kept T) :
    s.Kept (State.countError T u) := by
  unfold State.countError
  repeat' with_reducible first | exact h | apply kept_updCore

theorem kept_cpLen {s T : State} {len : Nat} {c : Guard} {body : Nat → Ctx → Res} (h : s.Kept T) (hbody : ∀ y0 y1, Res.KeptBy s (body y0 y1)) :
    OutKept s (State.cpLen T len c body) := by
  unfold State.cpLen
  dsimp only
  repeat'
    first
    | with_reducible first | exact h | apply out_next | apply out_fault | apply hbody | apply kept_Res_finish
                                  | apply kept_updCtx
    | split

theorem kept_cp {s T : State} {c : Guard} {body : Nat → Ctx → Res} (h : s.Kept T) (hbody : ∀ y0 y1, Res.KeptBy s (body y0 y1)) :
    OutKept s (State.cp T c body) := by
  unfold State.cp
  repeat' with_reducible first | exact h | apply hbody | apply kept_cpLen

theorem kept_csendMeet {s T : State} {_k : Nat} {x : Ctx} {partner : Nat} {sends : Bool} {key : Nat} {t : Tile} (h : s.Kept T) :
    Res.KeptBy s (State.csendMeet T _k x partner sends key t) := by
  unfold State.csendMeet
  dsimp only
  repeat'
    first
    | with_reducible first | exact h | apply kept_wait | apply kept_stop | apply kept_setGang | apply kept_takeTrap
                                  | apply kept_setTileSt
    | split

theorem kept_devReadLong {s T : State} {k : Nat} {a : Word} {z3 : Nat} (h : s.Kept T) :
    BothKept s (fun e => e.1.1) Prod.fst (State.devReadLong T k a z3) := by
  induction z3 generalizing T k a with
  | zero =>
    unfold State.devReadLong
    repeat'
      first
      | with_reducible first | exact h | apply both_err | apply both_ok | apply kept_devRead | (apply of_both_pair; assumption)
                                    | (apply of_both_err_mk; assumption) | (apply of_both_err3; assumption) | (apply ih)
      | split
  | succ n_ ih =>
    unfold State.devReadLong
    repeat'
      first
      | with_reducible first | exact h | apply both_err | apply both_ok | apply kept_devRead | (apply of_both_pair; assumption)
                                    | (apply of_both_err_mk; assumption) | (apply of_both_err3; assumption) | (apply ih)
      | split

theorem kept_devWriteLong {s T : State} {k : Nat} {a : Word} {ds : List (List Byte)} (h : s.Kept T) :
    BothKept s (fun e => e.1.1) (fun t => t) (State.devWriteLong T k a ds) := by
  induction ds generalizing T k a with
  | nil =>
    unfold State.devWriteLong
    repeat'
      first
      | with_reducible first | exact h | apply both_err | apply both_ok | apply kept_devWrite
                                    | (apply of_both_state; assumption) | (apply of_both_err_mk; assumption) | (apply ih)
      | split
  | cons hd_ tl_ ih =>
    unfold State.devWriteLong
    repeat'
      first
      | with_reducible first | exact h | apply both_err | apply both_ok | apply kept_devWrite
                                    | (apply of_both_state; assumption) | (apply of_both_err_mk; assumption) | (apply ih)
      | split

theorem kept_enter {s T : State} {e : Nat × Dir} {t : Tok} (h : s.Kept T) :
    OptKept s (State.enter T e t) := by
  unfold State.enter
  repeat'
    first
    | with_reducible first | exact h | apply opt_none | apply opt_some | apply kept_setElem
    | split

theorem kept_raiseFlags {s T : State} {ik : Nat} {fl : FFlags} (h : s.Kept T) :
    s.Kept (State.raiseFlags T ik fl) := by
  unfold State.raiseFlags
  repeat'
    first
    | with_reducible first | exact h | (simp only [kept_mk_iff]; apply kept_same)
    | split

theorem kept_setIsland {s T : State} {k : Nat} {i : Island} (h : s.Kept T) :
    s.Kept (State.setIsland T k i) := by
  unfold State.setIsland
  repeat' with_reducible first | exact h | (simp only [kept_mk_iff]; apply kept_same)

theorem kept_drainOne {s T : State} {ik : Nat} {core : Nat} {isl : Nat} {m : Nat} {b : Bool} {tag : BitVec 5} (h : s.Kept T) :
    s.Kept (State.drainOne T ik core isl m b tag) := by
  unfold State.drainOne
  dsimp only
  repeat'
    first
    | with_reducible first | exact h | apply kept_enter | apply kept_raiseFlags | apply kept_setIsland
                                  | (apply of_opt; assumption)
    | split

theorem kept_dropLeft {s T : State} {quads : List Nat} {qs : List Nat} {e : Nat} (h : s.Kept T) :
    s.Kept (State.dropLeft T quads qs e) := by
  unfold State.dropLeft
  dsimp only
  repeat'
    first
    | with_reducible first | exact h | apply kept_setEngine
    | split

theorem kept_sendPageReq {s T : State} {part : Nat} (h : s.Kept T) :
    s.Kept (State.sendPageReq T part) := by
  unfold State.sendPageReq
  repeat'
    first
    | with_reducible first | exact h | (simp only [kept_mk_iff]; apply kept_same) | apply kept_send
    | split

theorem kept_dropPageReq {s T : State} {q : HostReq} (h : s.Kept T) :
    s.Kept (State.dropPageReq T q) := by
  unfold State.dropPageReq
  repeat'
    first
    | with_reducible first | exact h | (simp only [kept_mk_iff]; apply kept_same) | apply kept_sendPageReq
    | split

theorem kept_retranslate {s T : State} {core : Nat} {launch : Nat} {overlaps : PRun → Bool} {z4 : List PRun} (h : s.Kept T) :
    BothKept s Prod.fst Prod.fst (State.retranslate T core launch overlaps z4) := by
  induction z4 generalizing T core launch overlaps with
  | nil =>
    unfold State.retranslate
    repeat'
      first
      | with_reducible first | exact h | apply both_err | apply both_ok | apply kept_patchRuns
                                    | (apply of_both_pair; assumption) | (apply of_both_err_mk; assumption) | (apply ih)
      | split
  | cons hd_ tl_ ih =>
    unfold State.retranslate
    repeat'
      first
      | with_reducible first | exact h | apply both_err | apply both_ok | apply kept_patchRuns
                                    | (apply of_both_pair; assumption) | (apply of_both_err_mk; assumption) | (apply ih)
      | split

theorem kept_renewRuns {s T : State} {e : Nat} {overlaps : PRun → Bool} (h : s.Kept T) :
    s.Kept (State.renewRuns T e overlaps) := by
  unfold State.renewRuns
  dsimp only
  repeat'
    first
    | with_reducible first | exact h | apply kept_retranslate | apply kept_faultEngine | apply kept_updEngine
                                  | (apply of_both_pair; assumption) | (apply of_both_err_mk; assumption)
    | split

theorem kept_fillQueues {s T : State} (h : s.Kept T) :
    s.Kept (State.fillQueues T) := by
  unfold State.fillQueues
  dsimp only
  repeat'
    first
    | with_reducible first | assumption | apply kept_setRa | apply kept_foldl | intro _
    | split

theorem kept_dvinv {s T : State} {part : Nat} {kind : Nat} {v : Word} (h : s.Kept T) :
    s.Kept (State.dvinv T part kind v) := by
  unfold State.dvinv
  repeat'
    first
    | with_reducible first | exact h | (simp only [kept_mk_iff]; apply kept_same) | apply kept_updPart | apply kept_renewRuns
                                  | apply kept_fillQueues | apply kept_abandon | apply kept_foldl | intro _
    | split

theorem kept_eccQuad {s T : State} {core : Nat} {q : Nat} (h : s.Kept T) :
    s.Kept (State.eccQuad T core q) := by
  unfold State.eccQuad
  repeat'
    first
    | with_reducible first | exact h | apply kept_eccFatal
    | split

theorem kept_stallAt {s T : State} {k : Nat} {space : Bool} (h : s.Kept T) :
    s.Kept (State.stallAt T k space) := by
  unfold State.stallAt
  repeat' with_reducible first | exact h | apply kept_setElem

theorem kept_element {s T : State} {code : Nat} {w : ElWord} {f : Site → List Dir → List (Dir × BitVec 3) → State} (h : s.Kept T) (hf : ∀ y0 y1 y2, s.Kept (f y0 y1 y2)) :
    OutKept s (State.element T code w f) := by
  unfold State.element
  repeat'
    first
    | with_reducible first | exact h | apply out_next | apply out_fault | apply hf | apply kept_stallAt
    | split

theorem kept_setSiteImage {s T : State} {t : Site} {gates : List Gate} {fl : FFlags} (h : s.Kept T) :
    s.Kept (State.setSiteImage T t gates fl) := by
  unfold State.setSiteImage
  repeat' with_reducible first | exact h | (simp only [kept_mk_iff]; apply kept_same)

theorem kept_sendTok {s T : State} {o : Out} {t : Tok} (h : s.Kept T) :
    s.Kept (State.sendTok T o t) := by
  unfold State.sendTok
  repeat'
    first
    | with_reducible first | exact h | (simp only [kept_mk_iff]; apply kept_same) | apply kept_setElem
    | split

theorem kept_fired {s T : State} {t : Site} {w : ElWord} {deq : List Dir} {outs : List (Dir × BitVec 3)} {lat : Nat} {res : Option W32} {fl : FFlags} {aval : W32} (h : s.Kept T) :
    s.Kept (State.fired T t w deq outs lat res fl aval) := by
  unfold State.fired
  repeat'
    first
    | with_reducible first | assumption | (simp only [kept_mk_iff]; apply kept_same) | apply kept_setSiteImage
                                  | apply kept_setElem | apply kept_sendTok | apply kept_foldl | intro _
    | split

theorem kept_elOp {s T : State} {code : Nat} {w : ElWord} {f : Site → ElIn → W32 × FFlags} (h : s.Kept T) :
    OutKept s (State.elOp T code w f) := by
  unfold State.elOp
  repeat' with_reducible first | exact h | apply kept_element | apply kept_fired | intro _

theorem kept_readSlot {s T : State} {g : Engine} {slot : Nat} {off : Int} {n : Nat} (h : s.Kept T) :
    GotKept s Prod.fst (State.readSlot T g slot off n) := by
  unfold State.readSlot
  dsimp only
  repeat'
    first
    | with_reducible first | assumption | apply got_fault | apply got_val | apply kept_PageRes_got | apply kept_pageAccess
                                  | intro _
    | split

theorem kept_homeTouch {s T : State} {ctx : Nat} {x : Xlat} {dirty : Bool} (h : s.Kept T) :
    s.Kept (State.homeTouch T ctx x dirty) := by
  unfold State.homeTouch
  repeat'
    first
    | with_reducible first | exact h | apply kept_l2Touch
    | split

theorem kept_readDva {s T : State} {g : Engine} {via : Option Nat} {pin : Bool} {a : Word} {n : Nat} (h : s.Kept T) :
    GotKept s Prod.fst (State.readDva T g via pin a n) := by
  unfold State.readDva
  repeat'
    first
    | with_reducible first | exact h | apply got_fault | apply got_val | apply kept_engXlat | apply kept_AccErr_got
                                  | apply kept_readAt | apply kept_homeTouch | (apply of_both_pair; assumption)
                                  | (apply of_both_err_mk; assumption)
    | split

theorem kept_readIndex {s T : State} {g : Engine} {m : Nat} (h : s.Kept T) :
    GotKept s Prod.fst (State.readIndex T g m) := by
  unfold State.readIndex
  repeat'
    first
    | with_reducible first | assumption | apply kept_Got_bind | apply got_val | apply kept_readSlot | apply kept_readDva
                                  | intro _
    | split

theorem kept_elemRel {s T : State} {g : Engine} {m : Nat} (h : s.Kept T) :
    GotKept s Prod.fst (State.elemRel T g m) := by
  unfold State.elemRel
  repeat'
    first
    | with_reducible first | assumption | apply kept_Got_bind | apply got_val | apply kept_readIndex | intro _
    | split

theorem kept_emptyFrames {s T : State} {core : Nat} (h : s.Kept T) :
    s.Kept (State.emptyFrames T core) := by
  unfold State.emptyFrames
  repeat'
    first
    | with_reducible first | assumption | apply kept_dropXfer | apply kept_arrive | apply kept_evict | apply kept_foldl
                                  | intro _

theorem kept_endDue {s T : State} {gk : Nat} (h : s.Kept T) :
    s.Kept (State.endDue T gk) := by
  unfold State.endDue
  repeat'
    first
    | with_reducible first | exact h | apply kept_endAs
    | split

theorem kept_engineWaits {s T : State} {e : Nat} {why : WaitWhy} (h : s.Kept T) :
    s.Kept (State.engineWaits T e why) := by
  unfold State.engineWaits
  repeat' with_reducible first | exact h | apply kept_updEngine

theorem kept_eretRes {s T : State} {k : Nat} {x : Ctx} {next : Bool} (h : s.Kept T) :
    Res.KeptBy s (State.eretRes T k x next) := by
  unfold State.eretRes
  repeat'
    first
    | with_reducible first | exact h | apply kept_trap | apply kept_jump | apply kept_updCtx
    | split

theorem kept_evictPages {s T : State} {core : Nat} {keys : List Nat} (h : s.Kept T) :
    s.Kept (State.evictPages T core keys) := by
  unfold State.evictPages
  repeat'
    first
    | with_reducible first | assumption | apply kept_evict | apply kept_foldl | intro _
    | split

theorem kept_failHost {s T : State} {pasid : Nat} {page : Nat} {write : Bool} (h : s.Kept T) :
    s.Kept (State.failHost T pasid page write) := by
  unfold State.failHost
  repeat'
    first
    | with_reducible first | assumption | apply kept_faultEngine | apply kept_foldl | intro _
    | split

theorem kept_followCell {s T : State} {i : Nat} {dst : Nat} (h : s.Kept T) :
    s.Kept (State.followCell T i dst) := by
  unfold State.followCell
  dsimp only
  repeat'
    first
    | with_reducible first | exact h | apply kept_setRa | apply kept_unplace
    | split

theorem kept_followMoves {s T : State} {p : Nat} {slot : Nat} {ms : List (Nat × Nat)} (h : s.Kept T) :
    s.Kept (State.followMoves T p slot ms) := by
  unfold State.followMoves
  repeat'
    first
    | with_reducible first | assumption | apply kept_followCell | apply kept_foldl | intro _
    | split

theorem kept_rebalance {s T : State} {p : Nat} {old : List Nat} (h : s.Kept T) :
    s.Kept (State.rebalance T p old) := by
  unfold State.rebalance
  repeat'
    first
    | with_reducible first | exact h | (simp only [kept_mk_iff]; apply kept_same) | apply kept_followMoves
                                  | apply kept_updPart | apply kept_foldl | intro _

theorem kept_setErr {s T : State} {p : Nat} {bits : BitVec 4} (h : s.Kept T) :
    s.Kept (State.setErr T p bits) := by
  unfold State.setErr
  repeat' with_reducible first | exact h | apply kept_raise | apply kept_updPart

theorem kept_updateCaps {s T : State} {p : Nat} (h : s.Kept T) :
    s.Kept (State.updateCaps T p) := by
  unfold State.updateCaps
  repeat' with_reducible first | exact h | apply kept_setErr | apply kept_updPart

theorem kept_fencedIn {s T : State} {p : Nat} {old : List Nat} (h : s.Kept T) :
    s.Kept (State.fencedIn T p old) := by
  unfold State.fencedIn
  dsimp only
  repeat'
    first
    | with_reducible first | assumption | apply kept_stopLaunch | apply kept_rebalance | apply kept_fillQueues
                                  | apply kept_setErr | apply kept_updateCaps | apply kept_foldl | intro _
    | split

theorem kept_readWords {s T : State} {k : Nat} {a : Word} {n : Nat} (h : s.Kept T) :
    BothKept s Prod.fst Prod.fst (State.readWords T k a n) := by
  unfold State.readWords
  repeat'
    first
    | with_reducible first | exact h | apply both_err | apply both_ok | apply kept_devReadLong | apply kept_AccErr_trap
                                  | (apply of_both_pair; assumption) | (apply of_both_err3; assumption)
    | split

theorem kept_readRecs {s T : State} {k : Nat} {a : Word} {c : Nat} {z4 : Nat} (h : s.Kept T) :
    BothKept s Prod.fst Prod.fst (State.readRecs T k a c z4) := by
  induction z4 generalizing T k a c with
  | zero =>
    unfold State.readRecs
    try dsimp only
    repeat'
      first
      | with_reducible first | exact h | apply both_err | apply both_ok | apply kept_readWords
                                    | (apply of_both_pair; assumption) | (apply of_both_err_mk; assumption) | (apply ih)
      | split
  | succ n_ ih =>
    unfold State.readRecs
    try dsimp only
    repeat'
      first
      | with_reducible first | exact h | apply both_err | apply both_ok | apply kept_readWords
                                    | (apply of_both_pair; assumption) | (apply of_both_err_mk; assumption) | (apply ih)
      | split

theorem kept_readImage {s T : State} {k : Nat} {a : Word} (h : s.Kept T) :
    BothKept s Prod.fst Prod.fst (State.readImage T k a) := by
  unfold State.readImage
  dsimp only
  repeat'
    first
    | with_reducible first | exact h | apply both_err | apply both_ok | apply kept_readWords | apply kept_readRecs
                                  | (apply of_both_pair; assumption) | (apply of_both_err_mk; assumption)
    | split

theorem kept_fetchImage {s T : State} {k : Nat} {src : ImgSrc} {entry : Nat} {qs : List Nat} (h : s.Kept T) :
    BothKept s Prod.fst Prod.fst (State.fetchImage T k src entry qs) := by
  unfold State.fetchImage
  dsimp only
  repeat'
    first
    | with_reducible first | exact h | apply both_err | apply both_ok | apply kept_readImage
                                  | (apply of_both_pair; assumption) | (apply of_both_err_mk; assumption)
    | split

theorem kept_fetchPatches {s T : State} {k : Nat} {d : ImgData} {qs : List Nat} {z4 : List (Nat × ImgSrc)} (h : s.Kept T) :
    BothKept s (fun t => t) Prod.fst (State.fetchPatches T k d qs z4) := by
  induction z4 generalizing T k d qs with
  | nil =>
    unfold State.fetchPatches
    repeat'
      first
      | with_reducible first | exact h | apply both_err | apply both_ok | apply kept_cfgPut | apply kept_fetchImage
                                    | (apply of_both_pair; assumption) | (apply of_both_err_mk; assumption) | (apply ih)
      | split
  | cons hd_ tl_ ih =>
    unfold State.fetchPatches
    repeat'
      first
      | with_reducible first | exact h | apply both_err | apply both_ok | apply kept_cfgPut | apply kept_fetchImage
                                    | (apply of_both_pair; assumption) | (apply of_both_err_mk; assumption) | (apply ih)
      | split

theorem kept_finish {s T : State} {l : Nat} (h : s.Kept T) :
    s.Kept (State.finish T l) := by
  unfold State.finish
  dsimp only
  repeat'
    first
    | with_reducible first | assumption | apply kept_stopLaunch | apply kept_atcAsk | apply kept_setLaunch
                                  | apply kept_dropLaunch | apply kept_raise | apply kept_updPart | apply wf_msetN
                                  | apply of_kept | apply memWf_mem | apply memWf_host | apply memWf_dir | intro _
                                  | (simp only [kept_mk_iff]; refine kept_mem ?_ ?_ ?_ ?_)
    | split

theorem kept_followLinks {s T : State} {k : Nat} {off : Int} {node : Word} {z4 : Nat} (h : s.Kept T) :
    BothKept s (fun e => e.1.1) Prod.fst (State.followLinks T k off node z4) := by
  induction z4 generalizing T k off node with
  | zero =>
    unfold State.followLinks
    repeat'
      first
      | with_reducible first | exact h | apply both_err | apply both_ok | apply kept_devRead | (apply of_both_pair; assumption)
                                    | (apply of_both_err_mk; assumption) | (apply ih)
      | split
  | succ n_ ih =>
    unfold State.followLinks
    repeat'
      first
      | with_reducible first | exact h | apply both_err | apply both_ok | apply kept_devRead | (apply of_both_pair; assumption)
                                    | (apply of_both_err_mk; assumption) | (apply ih)
      | split

theorem kept_frameError {s T : State} {core : Nat} {frame : Nat} (h : s.Kept T) :
    s.Kept (State.frameError T core frame) := by
  unfold State.frameError
  dsimp only
  repeat'
    first
    | with_reducible first | assumption | apply kept_abandonOwner | apply kept_setDir | apply kept_losePage | apply wf_dirE
                                  | apply of_kept | apply memWf_mem | apply memWf_host | apply memWf_dir | intro _
                                  | (simp only [kept_mk_iff]; refine kept_mem ?_ ?_ ?_ ?_)
    | split

theorem kept_linkNode {s T : State} {g : Engine} {m : Nat} (h : s.Kept T) :
    GotKept s Prod.fst (State.linkNode T g m) := by
  unfold State.linkNode
  dsimp only
  repeat'
    first
    | with_reducible first | assumption | apply kept_Got_bind | apply got_val | apply kept_readDva | intro _
    | split

theorem kept_waitHost {α : Type} {s T : State} {g : α → State} {e : Nat} {sel : BitVec 10} {page : Nat} {write : Bool} (h : s.Kept T) :
    GotKept s g (T.waitHost e sel page write) := by
  unfold State.waitHost
  exact got_stall (kept_updEngine h)

theorem kept_readHost {s T : State} {e : Nat} {g : Engine} {sel : BitVec 10} {off : Int} {n : Nat} (h : s.Kept T) :
    GotKept s Prod.fst (State.readHost T e g sel off n) := by
  unfold State.readHost
  dsimp only
  repeat'
    first
    | with_reducible first | exact h | apply got_fault | apply got_val | apply kept_waitHost | apply kept_atcAsk
    | split

theorem kept_readSrc {s T : State} {e : Nat} {g : Engine} {m : Nat} {rel : Int} (h : s.Kept T) :
    GotKept s Word1.s (State.readSrc T e g m rel) := by
  unfold State.readSrc
  dsimp only
  repeat'
    first
    | with_reducible first | assumption | apply kept_Got_bind | apply got_val | apply got_stall | apply kept_readSlot
                                  | apply kept_linkNode | apply kept_readDva | apply kept_readHost | intro _
    | split

theorem kept_getWord {s T : State} {e : Nat} (h : s.Kept T) :
    GotKept s Prod.fst (State.getWord T e) := by
  unfold State.getWord
  repeat'
    first
    | with_reducible first | assumption | apply kept_Got_bind | apply got_val | apply kept_elemRel | apply kept_readSrc
                                  | apply kept_updEngine | intro _

theorem kept_sameLine {s T : State} {e : Nat} {line : Int} (h : s.Kept T) :
    GotKept s Prod.fst (State.sameLine T e line) := by
  unfold State.sameLine
  dsimp only
  repeat'
    first
    | with_reducible first | assumption | apply kept_Got_bind | apply got_val | apply kept_elemRel | intro _
    | split

theorem kept_getMore {s T : State} {e : Nat} {line : Int} {z3 : Nat} (h : s.Kept T) :
    GotKept s (fun t => t) (State.getMore T e line z3) := by
  induction z3 generalizing T e line with
  | zero =>
    unfold State.getMore
    repeat'
      first
      | with_reducible first | exact h | apply got_val | apply got_stall | apply kept_sameLine | apply kept_getWord
                                    | (apply of_got_stall; assumption) | (apply of_got_fst; assumption) | (apply ih)
      | split
  | succ n_ ih =>
    unfold State.getMore
    repeat'
      first
      | with_reducible first | exact h | apply got_val | apply got_stall | apply kept_sameLine | apply kept_getWord
                                    | (apply of_got_stall; assumption) | (apply of_got_fst; assumption) | (apply ih)
      | split

theorem kept_getBurst {s T : State} {e : Nat} (h : s.Kept T) :
    GotKept s (fun t => t) (State.getBurst T e) := by
  unfold State.getBurst
  repeat'
    first
    | with_reducible first | assumption | apply kept_Got_bind | apply got_stall | apply kept_getWord | apply kept_getMore
                                  | apply kept_updEngine | (apply of_got_stall; assumption) | intro _
    | split

theorem kept_rangeOk {s T : State} {core : Nat} {launch : Nat} {lo : Word} {write : Bool} {z5 : Nat} (h : s.Kept T) :
    BothKept s Prod.fst (fun t => t) (State.rangeOk T core launch lo write z5) := by
  induction z5 generalizing T core launch lo write with
  | zero =>
    unfold State.rangeOk
    repeat'
      first
      | with_reducible first | exact h | apply both_err | apply both_ok | (apply of_exc2; assumption; apply kept_translate)
                                    | (apply ih)
      | split
  | succ n_ ih =>
    unfold State.rangeOk
    repeat'
      first
      | with_reducible first | exact h | apply both_err | apply both_ok | (apply of_exc2; assumption; apply kept_translate)
                                    | (apply ih)
      | split

theorem kept_resolveWin {s T : State} {k : Nat} {x : Ctx} {stored : Bool} {w : Word × Word} (h : s.Kept T) :
    BothKept s Prod.fst Prod.fst (State.resolveWin T k x stored w) := by
  unfold State.resolveWin
  dsimp only
  repeat'
    first
    | with_reducible first | exact h | apply both_err | apply both_ok | apply kept_rangeOk | (apply of_both_state; assumption)
                                  | (apply of_both_err_mk; assumption)
    | split

theorem kept_resolveFrom {s T : State} {k : Nat} {x : Ctx} {st : List Nat} {d : ImgData} {i : Nat} {z6 : Nat} (h : s.Kept T) :
    s.Kept (State.resolveFrom T k x st d i z6).1 := by
  induction z6 generalizing T k x st d i with
  | zero =>
    unfold State.resolveFrom
    repeat'
      first
      | with_reducible first | exact h | apply kept_resolveWin | (apply of_both_pair; assumption)
                                    | (apply of_both_err_mk; assumption) | (apply ih)
      | split
  | succ n_ ih =>
    unfold State.resolveFrom
    repeat'
      first
      | with_reducible first | exact h | apply kept_resolveWin | (apply of_both_pair; assumption)
                                    | (apply of_both_err_mk; assumption) | (apply ih)
      | split

theorem kept_resolveWins {s T : State} {k : Nat} {x : Ctx} {d : ImgData} (h : s.Kept T) :
    BothKept s Prod.fst Prod.fst (State.resolveWins T k x d) := by
  unfold State.resolveWins
  dsimp only
  repeat'
    first
    | with_reducible first | exact h | apply both_err | apply both_ok | apply kept_resolveFrom
    | split

theorem kept_writeImage {s T : State} {core : Nat} {k : Nat} {qs : List Nat} {d : ImgData} {src : ImgSrc} {wins : List Win} {gates : List Gate} (h : s.Kept T) :
    s.Kept (State.writeImage T core k qs d src wins gates) := by
  unfold State.writeImage
  repeat' with_reducible first | exact h | (simp only [kept_mk_iff]; apply kept_same)

theorem kept_releaseImages {s T : State} {l : List (Nat × Image)} (h : s.Kept T) :
    s.Kept (State.releaseImages T l) := by
  unfold State.releaseImages
  repeat' with_reducible first | exact h | (simp only [kept_mk_iff]; apply kept_same)

theorem kept_gloadRes {s T : State} {k : Nat} {x : Ctx} {qs : List Nat} {src : ImgSrc} {entry : Nat} (h : s.Kept T) :
    Res.KeptBy s (State.gloadRes T k x qs src entry) := by
  unfold State.gloadRes
  dsimp only
  repeat'
    first
    | with_reducible first | exact h | apply kept_trapIn | apply kept_done | apply kept_wait | apply kept_fetchImage
                                  | apply kept_resolveWins | apply kept_writeImage | apply kept_releaseImages
                                  | apply kept_updCtx | apply kept_cfgPut | (apply of_both_pair; assumption)
                                  | (apply of_both_err_mk; assumption)
    | split

theorem kept_writePatch {s T : State} {ik : Nat} {im : Image} {d : ImgData} {p : ImgData} {gates : List Gate} {patches : List (Nat × ImgSrc)} (h : s.Kept T) :
    s.Kept (State.writePatch T ik im d p gates patches) := by
  unfold State.writePatch
  repeat' with_reducible first | exact h | (simp only [kept_mk_iff]; apply kept_same)

theorem kept_patchImage {s T : State} {k : Nat} {ik : Nat} {im : Image} {src : ImgSrc} {entry : Nat} (h : s.Kept T) :
    Res.KeptBy s (State.patchImage T k ik im src entry) := by
  unfold State.patchImage
  dsimp only
  repeat'
    first
    | with_reducible first | exact h | apply kept_trapIn | apply kept_done | apply kept_wait | apply kept_fetchImage
                                  | apply kept_cfgPut | apply kept_writePatch | (apply of_both_pair; assumption)
                                  | (apply of_both_err_mk; assumption)
    | split

theorem kept_gpatchRes {s T : State} {k : Nat} {qs : List Nat} {l : List (Nat × Image)} {src : ImgSrc} {entry : Nat} (h : s.Kept T) :
    Res.KeptBy s (State.gpatchRes T k qs l src entry) := by
  unfold State.gpatchRes
  repeat'
    first
    | with_reducible first | exact h | apply kept_trap | apply kept_patchImage
    | split

theorem kept_gridEntry {s T : State} {k : Nat} {entry : BitVec 10} {f : GridEnt → Res} (h : s.Kept T) (hf : ∀ y0, Res.KeptBy s (f y0)) :
    Res.KeptBy s (State.gridEntry T k entry f) := by
  unfold State.gridEntry
  repeat'
    first
    | with_reducible first | apply kept_trap | apply hf
    | split

theorem kept_gwaitRes {s T : State} {l : List (Nat × Image)} (h : s.Kept T) :
    Res.KeptBy s (State.gwaitRes T l) := by
  unfold State.gwaitRes
  repeat'
    first
    | with_reducible first | exact h | apply kept_done | apply kept_wait
    | split

theorem kept_unplaceRa {s T : State} {gk : Nat} (h : s.Kept T) :
    s.Kept (State.unplaceRa T gk) := by
  unfold State.unplaceRa
  repeat' with_reducible first | exact h | apply kept_setRa | apply kept_unplace

theorem kept_haltGang {s T : State} {gk : Nat} (h : s.Kept T) :
    s.Kept (State.haltGang T gk) := by
  unfold State.haltGang
  dsimp only
  repeat'
    first
    | with_reducible first | exact h | apply kept_haltMembers | apply kept_unplaceRa | apply kept_abandon
                                  | apply kept_closeGang
    | split

theorem kept_haltAll {s T : State} {part : Nat} (h : s.Kept T) :
    s.Kept (State.haltAll T part) := by
  unfold State.haltAll
  repeat'
    first
    | with_reducible first | assumption | apply kept_haltGang | apply kept_fillQueues | apply kept_updPart | apply kept_foldl
                                  | intro _
    | split

theorem kept_reloadImage {s T : State} {k : Nat} {qs : List Nat} {im : Image} (h : s.Kept T) :
    BothKept s (fun t => t) Prod.fst (State.reloadImage T k qs im) := by
  unfold State.reloadImage
  repeat'
    first
    | with_reducible first | exact h | apply both_err | apply both_ok | apply kept_fetchImage | apply kept_fetchPatches
                                  | apply kept_cfgPut | (apply of_both_pair; assumption) | (apply of_both_err0; assumption)
                                  | (apply of_both_err_mk; assumption)
    | split

theorem kept_refetch {s T : State} {ik : Nat} {im : Image} (h : s.Kept T) :
    s.Kept (State.refetch T ik im) := by
  unfold State.refetch
  repeat'
    first
    | with_reducible first | exact h | apply kept_eccFatal | apply kept_reloadImage | apply kept_cfgDrop
                                  | apply kept_writePatch | (apply of_both_pair; assumption)
                                  | (apply of_both_err0; assumption)
    | split

theorem kept_spillError {s T : State} {slice : Nat} {frame : Nat} (h : s.Kept T) :
    s.Kept (State.spillError T slice frame) := by
  unfold State.spillError
  dsimp only
  repeat'
    first
    | with_reducible first | assumption | apply kept_abandonOwner | apply kept_setDir | apply kept_losePage | apply wf_dirE
                                  | apply of_kept | apply memWf_mem | apply memWf_host | apply memWf_dir | intro _
                                  | (simp only [kept_mk_iff]; refine kept_mem ?_ ?_ ?_ ?_)
    | split

theorem kept_handleError {s T : State} {e : ErrAt} (h : s.Kept T) :
    s.Kept (State.handleError T e) := by
  unfold State.handleError
  dsimp only
  repeat'
    first
    | with_reducible first | exact h | (simp only [kept_mk_iff]; apply kept_same) | apply kept_stopLaunch | apply kept_refetch
                                  | apply kept_cfgDrop | apply kept_takeTrap | apply kept_eccFatal | apply kept_eccQuad
                                  | apply kept_frameError | apply kept_spillError | apply kept_losePage
    | split

theorem kept_holdAtPort {s T : State} {core : Nat} {q : Nat} {edge : Nat} {k : Nat} {t : Tok} (h : s.Kept T) :
    s.Kept (State.holdAtPort T core q edge k t) := by
  unfold State.holdAtPort
  repeat'
    first
    | with_reducible first | exact h | (simp only [kept_mk_iff]; apply kept_same)
    | split

theorem kept_holdFrames {s T : State} (h : s.Kept T) :
    s.Kept (State.holdFrames T) := by
  unfold State.holdFrames
  repeat'
    first
    | with_reducible first | assumption | apply kept_updCore | apply kept_foldl | intro _
    | split

theorem kept_holdMoved {s T : State} {p : Nat} {skip : Nat} {until_ : Nat} {k : Knead} (h : s.Kept T) :
    s.Kept (State.holdMoved T p skip until_ k) := by
  unfold State.holdMoved
  repeat' with_reducible first | exact h | (simp only [kept_mk_iff]; apply kept_same)

theorem kept_homeBlocks {s T : State} {p : Nat} {slice : Nat} {z3 : Nat} (h : s.Kept T) :
    s.Kept (State.homeBlocks T p slice z3) := by
  induction z3 generalizing T p slice with
  | zero =>
    unfold State.homeBlocks
    repeat' with_reducible first | exact h | apply kept_dirRoom | apply opt_getD | (apply ih)
  | succ n_ ih =>
    unfold State.homeBlocks
    repeat' with_reducible first | exact h | apply kept_dirRoom | apply opt_getD | (apply ih)

theorem kept_islEntry {s T : State} {ik : Nat} {im : Image} {core : Nat} {isl : Nat} {at_ : Nat} {o : IslOp} (h : s.Kept T) :
    s.Kept (State.islEntry T ik im core isl at_ o) := by
  unfold State.islEntry
  dsimp only
  repeat'
    first
    | with_reducible first | exact h | apply kept_setIsland | apply kept_drainOne | apply kept_raiseFlags | apply kept_sendTok
                                  | apply kept_foldl | intro _
    | split

theorem kept_islHeader {s T : State} {im : Image} {core : Nat} {isl : Nat} (h : s.Kept T) :
    s.Kept (State.islHeader T im core isl) := by
  unfold State.islHeader
  dsimp only
  repeat'
    first
    | with_reducible first | exact h | apply kept_enter | apply kept_setIsland | (apply of_opt; assumption)
    | split

theorem kept_islRun {s T : State} {ik core isl : Nat} {im : Image} {u : Run} (h : s.Kept T) : s.Kept (T.islRun ik im core isl u) := by
  unfold State.islRun
  extract_lets
  split
  · exact kept_setIsland h
  · split
    · exact kept_abandonErr h
    · exact kept_raiseFlags (kept_setIsland h)

theorem kept_setsG {s T : State} {k : Nat} {d : BitVec 5} {v : Word} (h : s.Kept T) :
    Res.KeptBy s (State.setsG T k d v) := by
  unfold State.setsG
  repeat' with_reducible first | exact h | apply kept_done | apply kept_updCtx

theorem kept_intOp {s T : State} {f : Bool → Nat → Nat → Nat} {c : Guard} {w : Bool} {d : BitVec 5} {a : BitVec 5} {b : BitVec 5} (h : s.Kept T) :
    OutKept s (intOp f c w d a b T) := by
  unfold intOp
  repeat' with_reducible first | exact h | apply kept_cp | apply kept_setsG | intro _

theorem kept_execAdd {s T : State} {c : Guard} {w : Bool} {d : BitVec 5} {a : BitVec 5} {b : BitVec 5} (h : s.Kept T) :
    OutKept s (execAdd c w d a b T) := by
  unfold execAdd
  repeat' with_reducible first | exact h | apply kept_intOp

theorem kept_execSub {s T : State} {c : Guard} {w : Bool} {d : BitVec 5} {a : BitVec 5} {b : BitVec 5} (h : s.Kept T) :
    OutKept s (execSub c w d a b T) := by
  unfold execSub
  repeat' with_reducible first | exact h | apply kept_intOp

theorem kept_execMul {s T : State} {c : Guard} {w : Bool} {d : BitVec 5} {a : BitVec 5} {b : BitVec 5} (h : s.Kept T) :
    OutKept s (execMul c w d a b T) := by
  unfold execMul
  repeat' with_reducible first | exact h | apply kept_intOp

theorem kept_execMulh {s T : State} {c : Guard} {w : Bool} {d : BitVec 5} {a : BitVec 5} {b : BitVec 5} (h : s.Kept T) :
    OutKept s (execMulh c w d a b T) := by
  unfold execMulh
  repeat' with_reducible first | exact h | apply kept_intOp

theorem kept_execMulhz {s T : State} {c : Guard} {w : Bool} {d : BitVec 5} {a : BitVec 5} {b : BitVec 5} (h : s.Kept T) :
    OutKept s (execMulhz c w d a b T) := by
  unfold execMulhz
  repeat' with_reducible first | exact h | apply kept_intOp

theorem kept_execDiv {s T : State} {c : Guard} {w : Bool} {d : BitVec 5} {a : BitVec 5} {b : BitVec 5} (h : s.Kept T) :
    OutKept s (execDiv c w d a b T) := by
  unfold execDiv
  repeat' with_reducible first | exact h | apply kept_intOp

theorem kept_execDivz {s T : State} {c : Guard} {w : Bool} {d : BitVec 5} {a : BitVec 5} {b : BitVec 5} (h : s.Kept T) :
    OutKept s (execDivz c w d a b T) := by
  unfold execDivz
  repeat' with_reducible first | exact h | apply kept_intOp

theorem kept_execRem {s T : State} {c : Guard} {w : Bool} {d : BitVec 5} {a : BitVec 5} {b : BitVec 5} (h : s.Kept T) :
    OutKept s (execRem c w d a b T) := by
  unfold execRem
  repeat' with_reducible first | exact h | apply kept_intOp

theorem kept_execRemz {s T : State} {c : Guard} {w : Bool} {d : BitVec 5} {a : BitVec 5} {b : BitVec 5} (h : s.Kept T) :
    OutKept s (execRemz c w d a b T) := by
  unfold execRemz
  repeat' with_reducible first | exact h | apply kept_intOp

theorem kept_execAnd {s T : State} {c : Guard} {w : Bool} {d : BitVec 5} {a : BitVec 5} {b : BitVec 5} (h : s.Kept T) :
    OutKept s (execAnd c w d a b T) := by
  unfold execAnd
  repeat' with_reducible first | exact h | apply kept_intOp

theorem kept_execOr {s T : State} {c : Guard} {w : Bool} {d : BitVec 5} {a : BitVec 5} {b : BitVec 5} (h : s.Kept T) :
    OutKept s (execOr c w d a b T) := by
  unfold execOr
  repeat' with_reducible first | exact h | apply kept_intOp

theorem kept_execXor {s T : State} {c : Guard} {w : Bool} {d : BitVec 5} {a : BitVec 5} {b : BitVec 5} (h : s.Kept T) :
    OutKept s (execXor c w d a b T) := by
  unfold execXor
  repeat' with_reducible first | exact h | apply kept_intOp

theorem kept_execShl {s T : State} {c : Guard} {w : Bool} {d : BitVec 5} {a : BitVec 5} {b : BitVec 5} (h : s.Kept T) :
    OutKept s (execShl c w d a b T) := by
  unfold execShl
  repeat' with_reducible first | exact h | apply kept_intOp

theorem kept_execShr {s T : State} {c : Guard} {w : Bool} {d : BitVec 5} {a : BitVec 5} {b : BitVec 5} (h : s.Kept T) :
    OutKept s (execShr c w d a b T) := by
  unfold execShr
  repeat' with_reducible first | exact h | apply kept_intOp

theorem kept_execSar {s T : State} {c : Guard} {w : Bool} {d : BitVec 5} {a : BitVec 5} {b : BitVec 5} (h : s.Kept T) :
    OutKept s (execSar c w d a b T) := by
  unfold execSar
  repeat' with_reducible first | exact h | apply kept_intOp

theorem kept_execMin {s T : State} {c : Guard} {w : Bool} {d : BitVec 5} {a : BitVec 5} {b : BitVec 5} (h : s.Kept T) :
    OutKept s (execMin c w d a b T) := by
  unfold execMin
  repeat' with_reducible first | exact h | apply kept_intOp

theorem kept_execMax {s T : State} {c : Guard} {w : Bool} {d : BitVec 5} {a : BitVec 5} {b : BitVec 5} (h : s.Kept T) :
    OutKept s (execMax c w d a b T) := by
  unfold execMax
  repeat' with_reducible first | exact h | apply kept_intOp

theorem kept_intOp1 {s T : State} {f : Bool → Nat → Nat} {c : Guard} {w : Bool} {d : BitVec 5} {a : BitVec 5} (h : s.Kept T) :
    OutKept s (intOp1 f c w d a T) := by
  unfold intOp1
  repeat' with_reducible first | exact h | apply kept_cp | apply kept_setsG | intro _

theorem kept_execAbs {s T : State} {c : Guard} {w : Bool} {d : BitVec 5} {a : BitVec 5} (h : s.Kept T) :
    OutKept s (execAbs c w d a T) := by
  unfold execAbs
  repeat' with_reducible first | exact h | apply kept_intOp1

theorem kept_execClz {s T : State} {c : Guard} {w : Bool} {d : BitVec 5} {a : BitVec 5} (h : s.Kept T) :
    OutKept s (execClz c w d a T) := by
  unfold execClz
  repeat' with_reducible first | exact h | apply kept_intOp1

theorem kept_execPopc {s T : State} {c : Guard} {w : Bool} {d : BitVec 5} {a : BitVec 5} (h : s.Kept T) :
    OutKept s (execPopc c w d a T) := by
  unfold execPopc
  repeat' with_reducible first | exact h | apply kept_intOp1

theorem kept_execSext {s T : State} {c : Guard} {w : Bool} {d : BitVec 5} {a : BitVec 5} {b : BitVec 5} (h : s.Kept T) :
    OutKept s (execSext c w d a b T) := by
  unfold execSext
  repeat' with_reducible first | exact h | apply kept_intOp1

theorem kept_execZext {s T : State} {c : Guard} {w : Bool} {d : BitVec 5} {a : BitVec 5} {b : BitVec 5} (h : s.Kept T) :
    OutKept s (execZext c w d a b T) := by
  unfold execZext
  repeat' with_reducible first | exact h | apply kept_intOp1

theorem kept_execSel {s T : State} {c : Guard} {d : BitVec 5} {a : BitVec 5} {b : BitVec 5} {k : BitVec 3} (h : s.Kept T) :
    OutKept s (execSel c d a b k T) := by
  unfold execSel
  repeat' with_reducible first | exact h | apply kept_cp | apply kept_setsG | intro _

theorem kept_immOp {s T : State} {f : Word → Word} {c : Guard} {d : BitVec 5} {a : BitVec 5} (h : s.Kept T) :
    OutKept s (immOp f c d a T) := by
  unfold immOp
  repeat' with_reducible first | exact h | apply kept_cp | apply kept_setsG | intro _

theorem kept_execAddi {s T : State} {c : Guard} {d : BitVec 5} {a : BitVec 5} {imm : BitVec 11} (h : s.Kept T) :
    OutKept s (execAddi c d a imm T) := by
  unfold execAddi
  repeat' with_reducible first | exact h | apply kept_immOp

theorem kept_execAndi {s T : State} {c : Guard} {d : BitVec 5} {a : BitVec 5} {imm : BitVec 11} (h : s.Kept T) :
    OutKept s (execAndi c d a imm T) := by
  unfold execAndi
  repeat' with_reducible first | exact h | apply kept_immOp

theorem kept_execOri {s T : State} {c : Guard} {d : BitVec 5} {a : BitVec 5} {imm : BitVec 11} (h : s.Kept T) :
    OutKept s (execOri c d a imm T) := by
  unfold execOri
  repeat' with_reducible first | exact h | apply kept_immOp

theorem kept_execXori {s T : State} {c : Guard} {d : BitVec 5} {a : BitVec 5} {imm : BitVec 11} (h : s.Kept T) :
    OutKept s (execXori c d a imm T) := by
  unfold execXori
  repeat' with_reducible first | exact h | apply kept_immOp

theorem kept_execShli {s T : State} {c : Guard} {d : BitVec 5} {a : BitVec 5} {n : BitVec 6} (h : s.Kept T) :
    OutKept s (execShli c d a n T) := by
  unfold execShli
  repeat' with_reducible first | exact h | apply kept_immOp

theorem kept_execShri {s T : State} {c : Guard} {d : BitVec 5} {a : BitVec 5} {n : BitVec 6} (h : s.Kept T) :
    OutKept s (execShri c d a n T) := by
  unfold execShri
  repeat' with_reducible first | exact h | apply kept_immOp

theorem kept_execSari {s T : State} {c : Guard} {d : BitVec 5} {a : BitVec 5} {n : BitVec 6} (h : s.Kept T) :
    OutKept s (execSari c d a n T) := by
  unfold execSari
  repeat' with_reducible first | exact h | apply kept_immOp

theorem kept_execLdi {s T : State} {c : Guard} {d : BitVec 5} {imm : BitVec 32} (h : s.Kept T) :
    OutKept s (execLdi c d imm T) := by
  unfold execLdi
  repeat' with_reducible first | exact h | apply kept_cpLen | apply kept_setsG | intro _

theorem kept_execLdiHi {s T : State} {c : Guard} {d : BitVec 5} {imm : BitVec 32} (h : s.Kept T) :
    OutKept s (execLdiHi c d imm T) := by
  unfold execLdiHi
  repeat' with_reducible first | exact h | apply kept_cpLen | apply kept_setsG | intro _

theorem kept_setsP {s T : State} {k : Nat} {d : BitVec 3} {v : Bool} (h : s.Kept T) :
    Res.KeptBy s (State.setsP T k d v) := by
  unfold State.setsP
  repeat' with_reducible first | exact h | apply kept_done | apply kept_updCtx

theorem kept_execCmp {s T : State} {c : Guard} {w : Bool} {d : BitVec 3} {a : BitVec 5} {b : BitVec 5} {cc : BitVec 3} (h : s.Kept T) :
    OutKept s (execCmp c w d a b cc T) := by
  unfold execCmp
  repeat' with_reducible first | exact h | apply kept_cp | apply kept_setsP | intro _

theorem kept_execCmpi {s T : State} {c : Guard} {d : BitVec 3} {cc : BitVec 3} {a : BitVec 5} {imm : BitVec 10} (h : s.Kept T) :
    OutKept s (execCmpi c d cc a imm T) := by
  unfold execCmpi
  repeat' with_reducible first | exact h | apply kept_cp | apply kept_setsP | intro _

theorem kept_execFcmp {s T : State} {c : Guard} {d : BitVec 3} {a : BitVec 5} {b : BitVec 5} {cc : BitVec 3} (h : s.Kept T) :
    OutKept s (execFcmp c d a b cc T) := by
  unfold execFcmp
  repeat' with_reducible first | exact h | apply kept_done | apply kept_cp | apply kept_updCtx | intro _

theorem kept_predOp {s T : State} {f : Bool → Bool → Bool} {c : Guard} {d : BitVec 3} {a : BitVec 3} {b : BitVec 3} (h : s.Kept T) :
    OutKept s (predOp f c d a b T) := by
  unfold predOp
  repeat' with_reducible first | exact h | apply kept_cp | apply kept_setsP | intro _

theorem kept_execPand {s T : State} {c : Guard} {d : BitVec 3} {a : BitVec 3} {b : BitVec 3} (h : s.Kept T) :
    OutKept s (execPand c d a b T) := by
  unfold execPand
  repeat' with_reducible first | exact h | apply kept_predOp

theorem kept_execPor {s T : State} {c : Guard} {d : BitVec 3} {a : BitVec 3} {b : BitVec 3} (h : s.Kept T) :
    OutKept s (execPor c d a b T) := by
  unfold execPor
  repeat' with_reducible first | exact h | apply kept_predOp

theorem kept_execPxor {s T : State} {c : Guard} {d : BitVec 3} {a : BitVec 3} {b : BitVec 3} (h : s.Kept T) :
    OutKept s (execPxor c d a b T) := by
  unfold execPxor
  repeat' with_reducible first | exact h | apply kept_predOp

theorem kept_execPnot {s T : State} {c : Guard} {d : BitVec 3} {a : BitVec 3} (h : s.Kept T) :
    OutKept s (execPnot c d a T) := by
  unfold execPnot
  repeat' with_reducible first | exact h | apply kept_predOp

theorem kept_setsF {s T : State} {k : Nat} {d : BitVec 5} {r : Nat × FFlags} (h : s.Kept T) :
    Res.KeptBy s (State.setsF T k d r) := by
  unfold State.setsF
  repeat' with_reducible first | exact h | apply kept_done | apply kept_updCtx

theorem kept_floatOp {s T : State} {f : W32 → W32 → W32 → Nat × FFlags} {c : Guard} {d : BitVec 5} {a : BitVec 5} {b : BitVec 5} (h : s.Kept T) :
    OutKept s (floatOp f c d a b T) := by
  unfold floatOp
  repeat' with_reducible first | exact h | apply kept_cp | apply kept_setsF | intro _

theorem kept_execFadd {s T : State} {c : Guard} {d : BitVec 5} {a : BitVec 5} {b : BitVec 5} (h : s.Kept T) :
    OutKept s (execFadd c d a b T) := by
  unfold execFadd
  repeat' with_reducible first | exact h | apply kept_floatOp

theorem kept_execFsub {s T : State} {c : Guard} {d : BitVec 5} {a : BitVec 5} {b : BitVec 5} (h : s.Kept T) :
    OutKept s (execFsub c d a b T) := by
  unfold execFsub
  repeat' with_reducible first | exact h | apply kept_floatOp

theorem kept_execFmul {s T : State} {c : Guard} {d : BitVec 5} {a : BitVec 5} {b : BitVec 5} (h : s.Kept T) :
    OutKept s (execFmul c d a b T) := by
  unfold execFmul
  repeat' with_reducible first | exact h | apply kept_floatOp

theorem kept_execFma {s T : State} {c : Guard} {d : BitVec 5} {a : BitVec 5} {b : BitVec 5} (h : s.Kept T) :
    OutKept s (execFma c d a b T) := by
  unfold execFma
  repeat' with_reducible first | exact h | apply kept_floatOp

theorem kept_execFmin {s T : State} {c : Guard} {d : BitVec 5} {a : BitVec 5} {b : BitVec 5} (h : s.Kept T) :
    OutKept s (execFmin c d a b T) := by
  unfold execFmin
  repeat' with_reducible first | exact h | apply kept_floatOp

theorem kept_execFmax {s T : State} {c : Guard} {d : BitVec 5} {a : BitVec 5} {b : BitVec 5} (h : s.Kept T) :
    OutKept s (execFmax c d a b T) := by
  unfold execFmax
  repeat' with_reducible first | exact h | apply kept_floatOp

theorem kept_execFabs {s T : State} {c : Guard} {d : BitVec 5} {a : BitVec 5} (h : s.Kept T) :
    OutKept s (execFabs c d a T) := by
  unfold execFabs
  repeat' with_reducible first | exact h | apply kept_floatOp

theorem kept_execFneg {s T : State} {c : Guard} {d : BitVec 5} {a : BitVec 5} (h : s.Kept T) :
    OutKept s (execFneg c d a T) := by
  unfold execFneg
  repeat' with_reducible first | exact h | apply kept_floatOp

theorem kept_execFdiv {s T : State} {c : Guard} {d : BitVec 5} {a : BitVec 5} {b : BitVec 5} (h : s.Kept T) :
    OutKept s (execFdiv c d a b T) := by
  unfold execFdiv
  repeat' with_reducible first | exact h | apply kept_floatOp

theorem kept_execFsqrt {s T : State} {c : Guard} {d : BitVec 5} {a : BitVec 5} (h : s.Kept T) :
    OutKept s (execFsqrt c d a T) := by
  unfold execFsqrt
  repeat' with_reducible first | exact h | apply kept_floatOp

theorem kept_execFexp2 {s T : State} {c : Guard} {d : BitVec 5} {a : BitVec 5} (h : s.Kept T) :
    OutKept s (execFexp2 c d a T) := by
  unfold execFexp2
  repeat' with_reducible first | exact h | apply kept_floatOp

theorem kept_execFlog2 {s T : State} {c : Guard} {d : BitVec 5} {a : BitVec 5} (h : s.Kept T) :
    OutKept s (execFlog2 c d a T) := by
  unfold execFlog2
  repeat' with_reducible first | exact h | apply kept_floatOp

theorem kept_execFrcp {s T : State} {c : Guard} {d : BitVec 5} {a : BitVec 5} (h : s.Kept T) :
    OutKept s (execFrcp c d a T) := by
  unfold execFrcp
  repeat' with_reducible first | exact h | apply kept_floatOp

theorem kept_execFcvt {s T : State} {c : Guard} {d : BitVec 5} {a : BitVec 5} {src : BitVec 4} {sat : Bool} {dst : BitVec 4} {rm : BitVec 2} (h : s.Kept T) :
    OutKept s (execFcvt c d a src sat dst rm T) := by
  unfold execFcvt
  repeat' with_reducible first | exact h | apply kept_done | apply kept_cp | apply kept_updCtx | intro _

theorem kept_execFtoi {s T : State} {c : Guard} {d : BitVec 5} {a : BitVec 5} {z : Bool} {width : BitVec 2} {rm : BitVec 2} (h : s.Kept T) :
    OutKept s (execFtoi c d a z width rm T) := by
  unfold execFtoi
  repeat' with_reducible first | exact h | apply kept_done | apply kept_cp | apply kept_updCtx | intro _

theorem kept_execItof {s T : State} {c : Guard} {d : BitVec 5} {a : BitVec 5} {z : Bool} {width : BitVec 2} (h : s.Kept T) :
    OutKept s (execItof c d a z width T) := by
  unfold execItof
  repeat' with_reducible first | exact h | apply kept_cp | apply kept_setsF | intro _

theorem kept_execNop {s T : State} {c : Guard} (h : s.Kept T) :
    OutKept s (execNop c T) := by
  unfold execNop
  repeat' with_reducible first | exact h | apply kept_done | apply kept_cp | intro _

theorem kept_execBr {s T : State} {c : Guard} {off : BitVec 21} (h : s.Kept T) :
    OutKept s (execBr c off T) := by
  unfold execBr
  repeat' with_reducible first | exact h | apply kept_jump | apply kept_cp | intro _

theorem kept_execBrl {s T : State} {c : Guard} {off : BitVec 21} (h : s.Kept T) :
    OutKept s (execBrl c off T) := by
  unfold execBrl
  repeat' with_reducible first | exact h | apply kept_jump | apply kept_cp | apply kept_updCtx | intro _

theorem kept_execJmp {s T : State} {c : Guard} {a : BitVec 5} {imm : BitVec 11} (h : s.Kept T) :
    OutKept s (execJmp c a imm T) := by
  unfold execJmp
  repeat' with_reducible first | exact h | apply kept_jump | apply kept_cp | intro _

theorem kept_execJmpl {s T : State} {c : Guard} {d : BitVec 5} {a : BitVec 5} {imm : BitVec 11} (h : s.Kept T) :
    OutKept s (execJmpl c d a imm T) := by
  unfold execJmpl
  repeat' with_reducible first | exact h | apply kept_jump | apply kept_cp | apply kept_updCtx | intro _

theorem kept_execLoop {s T : State} {c : Guard} {a : BitVec 5} {imm : BitVec 11} (h : s.Kept T) :
    OutKept s (execLoop c a imm T) := by
  unfold execLoop
  repeat' with_reducible first | exact h | apply kept_jump | apply kept_cp | apply kept_updCtx | intro _

theorem kept_noteLine {s T : State} {k : Nat} {a : Word} {dirty : Bool} {own : Bool} (h : s.Kept T) :
    s.Kept (State.noteLine T k a dirty own) := by
  unfold State.noteLine
  repeat'
    first
    | with_reducible first | exact h | apply kept_translate | apply kept_cacheLine | (apply of_exc2; assumption)
    | split

theorem kept_loadRes {s T : State} {k : Nat} {a : Word} {n : Nat} {zero : Bool} {d : BitVec 5} (h : s.Kept T) :
    Res.KeptBy s (State.loadRes T k a n zero d) := by
  unfold State.loadRes
  repeat'
    first
    | with_reducible first | exact h | apply kept_trap | apply kept_devRead | apply kept_AccErr_res | apply kept_setsG
                                  | apply kept_noteLine | (apply of_both_pair; assumption)
                                  | (apply of_both_err_mk; assumption)
    | split

theorem kept_execLd {s T : State} {c : Guard} {d : BitVec 5} {base : BitVec 5} {size : BitVec 2} {off : BitVec 9} (h : s.Kept T) :
    OutKept s (execLd c d base size off T) := by
  unfold execLd
  repeat' with_reducible first | exact h | apply kept_cp | apply kept_loadRes | intro _

theorem kept_execLdz {s T : State} {c : Guard} {d : BitVec 5} {base : BitVec 5} {size : BitVec 2} {off : BitVec 9} (h : s.Kept T) :
    OutKept s (execLdz c d base size off T) := by
  unfold execLdz
  repeat' with_reducible first | exact h | apply kept_cp | apply kept_loadRes | intro _

theorem kept_storeRes {s T : State} {k : Nat} {x : Ctx} {a : Word} {n : Nat} {v : Word} (h : s.Kept T) :
    Res.KeptBy s (State.storeRes T k x a n v) := by
  unfold State.storeRes
  repeat'
    first
    | with_reducible first | exact h | apply kept_trap | apply kept_done | apply kept_devWrite | apply kept_AccErr_res
                                  | apply kept_noteLine | (apply of_both_state; assumption)
                                  | (apply of_both_err_mk; assumption)
    | split

theorem kept_execSt {s T : State} {c : Guard} {d : BitVec 5} {base : BitVec 5} {size : BitVec 2} {off : BitVec 9} (h : s.Kept T) :
    OutKept s (execSt c d base size off T) := by
  unfold execSt
  repeat' with_reducible first | exact h | apply kept_cp | apply kept_storeRes | intro _

theorem kept_execLdx {s T : State} {c : Guard} {d : BitVec 5} {a : BitVec 5} {b : BitVec 5} {sh : BitVec 3} {z : Bool} {size : BitVec 2} (h : s.Kept T) :
    OutKept s (execLdx c d a b sh z size T) := by
  unfold execLdx
  repeat' with_reducible first | exact h | apply kept_cp | apply kept_loadRes | intro _

theorem kept_execStx {s T : State} {c : Guard} {d : BitVec 5} {a : BitVec 5} {b : BitVec 5} {sh : BitVec 3} {size : BitVec 2} (h : s.Kept T) :
    OutKept s (execStx c d a b sh size T) := by
  unfold execStx
  repeat' with_reducible first | exact h | apply kept_cp | apply kept_storeRes | intro _

theorem kept_execPrf {s T : State} {c : Guard} {wr : Bool} {base : BitVec 5} {off : BitVec 9} (h : s.Kept T) :
    OutKept s (execPrf c wr base off T) := by
  unfold execPrf
  repeat' with_reducible first | exact h | apply kept_done | apply kept_cp | apply kept_noteLine | intro _

theorem kept_l1dClean {s T : State} {core : Nat} {dpa : Nat} (h : s.Kept T) :
    s.Kept (State.l1dClean T core dpa) := by
  unfold State.l1dClean
  repeat'
    first
    | with_reducible first | exact h | (simp only [kept_mk_iff]; apply kept_same)
    | split

theorem kept_execCln {s T : State} {c : Guard} {base : BitVec 5} {off : BitVec 9} (h : s.Kept T) :
    OutKept s (execCln c base off T) := by
  unfold execCln
  dsimp only
  repeat'
    first
    | with_reducible first | exact h | apply kept_trap | apply kept_trapIn | apply kept_done | apply kept_cp
                                  | apply kept_translate | apply kept_l2Touch | apply kept_l1dClean
                                  | (apply of_exc2; assumption) | intro _
    | split

theorem kept_execFnc {s T : State} {c : Guard} {_kind : BitVec 2} {_scope : BitVec 3} (h : s.Kept T) :
    OutKept s (execFnc c _kind _scope T) := by
  unfold execFnc
  repeat' with_reducible first | exact h | apply kept_done | apply kept_cp | intro _

theorem kept_atomicOp {s T : State} {n : Nat} {f : Word → Word → Word → Word} {c : Guard} {d : BitVec 5} {a : BitVec 5} {b : BitVec 5} {scope : BitVec 3} (h : s.Kept T) :
    OutKept s (atomicOp n f c d a b scope T) := by
  unfold atomicOp
  dsimp only
  repeat'
    first
    | with_reducible first | exact h | apply kept_trap | apply kept_trapIn | apply kept_cp | apply kept_setsG
                                  | apply kept_atPlace | apply kept_put | apply kept_AccErr_res
                                  | (apply of_exc2; assumption; apply kept_translate)
                                  | (apply of_both_state; assumption; apply kept_logStore)
                                  | (apply of_both_err_mk; assumption; apply kept_logStore) | intro _
    | split

theorem kept_execAadd {s T : State} {c : Guard} {d : BitVec 5} {a : BitVec 5} {b : BitVec 5} {scope : BitVec 3} (h : s.Kept T) :
    OutKept s (execAadd c d a b scope T) := by
  unfold execAadd
  repeat' with_reducible first | exact h | apply kept_atomicOp

theorem kept_execAmin {s T : State} {c : Guard} {d : BitVec 5} {a : BitVec 5} {b : BitVec 5} {scope : BitVec 3} (h : s.Kept T) :
    OutKept s (execAmin c d a b scope T) := by
  unfold execAmin
  repeat' with_reducible first | exact h | apply kept_atomicOp

theorem kept_execAmax {s T : State} {c : Guard} {d : BitVec 5} {a : BitVec 5} {b : BitVec 5} {scope : BitVec 3} (h : s.Kept T) :
    OutKept s (execAmax c d a b scope T) := by
  unfold execAmax
  repeat' with_reducible first | exact h | apply kept_atomicOp

theorem kept_execAand {s T : State} {c : Guard} {d : BitVec 5} {a : BitVec 5} {b : BitVec 5} {scope : BitVec 3} (h : s.Kept T) :
    OutKept s (execAand c d a b scope T) := by
  unfold execAand
  repeat' with_reducible first | exact h | apply kept_atomicOp

theorem kept_execAor {s T : State} {c : Guard} {d : BitVec 5} {a : BitVec 5} {b : BitVec 5} {scope : BitVec 3} (h : s.Kept T) :
    OutKept s (execAor c d a b scope T) := by
  unfold execAor
  repeat' with_reducible first | exact h | apply kept_atomicOp

theorem kept_execAxch {s T : State} {c : Guard} {d : BitVec 5} {a : BitVec 5} {b : BitVec 5} {scope : BitVec 3} (h : s.Kept T) :
    OutKept s (execAxch c d a b scope T) := by
  unfold execAxch
  repeat' with_reducible first | exact h | apply kept_atomicOp

theorem kept_execAcas {s T : State} {c : Guard} {d : BitVec 5} {a : BitVec 5} {b : BitVec 5} {scope : BitVec 3} (h : s.Kept T) :
    OutKept s (execAcas c d a b scope T) := by
  unfold execAcas
  repeat' with_reducible first | exact h | apply kept_atomicOp

theorem kept_execAfadd {s T : State} {c : Guard} {d : BitVec 5} {a : BitVec 5} {b : BitVec 5} {scope : BitVec 3} (h : s.Kept T) :
    OutKept s (execAfadd c d a b scope T) := by
  unfold execAfadd
  repeat' with_reducible first | exact h | apply kept_atomicOp

theorem kept_execBari {s T : State} {c : Guard} {bar : BitVec 5} {b : BitVec 5} (h : s.Kept T) :
    OutKept s (execBari c bar b T) := by
  unfold execBari
  dsimp only
  repeat'
    first
    | with_reducible first | exact h | (simp only [kept_mk_iff]; apply kept_same) | apply kept_trap | apply kept_done
                                  | apply kept_wait | apply kept_cp | intro _
    | split

theorem kept_execBara {s T : State} {c : Guard} {d : BitVec 5} {bar : BitVec 5} (h : s.Kept T) :
    OutKept s (execBara c d bar T) := by
  unfold execBara
  dsimp only
  repeat'
    first
    | with_reducible first | exact h | apply kept_trap | apply kept_cp | apply kept_setsG | apply kept_arriveBar | intro _
    | split

theorem kept_execBarw {s T : State} {c : Guard} {bar : BitVec 5} {b : BitVec 5} (h : s.Kept T) :
    OutKept s (execBarw c bar b T) := by
  unfold execBarw
  dsimp only
  repeat'
    first
    | with_reducible first | exact h | apply kept_trap | apply kept_done | apply kept_wait | apply kept_cp | intro _
    | split

theorem kept_execBarq {s T : State} {c : Guard} {d : BitVec 5} {bar : BitVec 5} (h : s.Kept T) :
    OutKept s (execBarq c d bar T) := by
  unfold execBarq
  dsimp only
  repeat'
    first
    | with_reducible first | exact h | apply kept_trap | apply kept_cp | apply kept_setsG | intro _
    | split

theorem kept_execGets {s T : State} {c : Guard} {d : BitVec 5} {sreg : BitVec 11} (h : s.Kept T) :
    OutKept s (execGets c d sreg T) := by
  unfold execGets
  repeat'
    first
    | with_reducible first | exact h | apply kept_wait | apply kept_cp | apply kept_setsG | intro _
    | split

theorem kept_execSets {s T : State} {c : Guard} {a : BitVec 5} {sreg : BitVec 11} (h : s.Kept T) :
    OutKept s (execSets c a sreg T) := by
  unfold execSets
  repeat'
    first
    | with_reducible first | exact h | apply kept_trap | apply kept_done | apply kept_cp | apply kept_updCtx | intro _
    | split

theorem kept_execSysc {s T : State} {c : Guard} {n : BitVec 11} (h : s.Kept T) :
    OutKept s (execSysc c n T) := by
  unfold execSysc
  repeat'
    first
    | with_reducible first | exact h | apply kept_wait | apply kept_cp | apply kept_setsG | apply kept_updCtx | intro _
    | split

theorem kept_execEret {s T : State} {c : Guard} (h : s.Kept T) :
    OutKept s (execEret c T) := by
  unfold execEret
  repeat' with_reducible first | exact h | apply kept_cp | apply kept_eretRes | intro _

theorem kept_execEretNext {s T : State} {c : Guard} (h : s.Kept T) :
    OutKept s (execEretNext c T) := by
  unfold execEretNext
  repeat' with_reducible first | exact h | apply kept_cp | apply kept_eretRes | intro _

theorem kept_execTrap {s T : State} {c : Guard} {n : BitVec 8} (h : s.Kept T) :
    OutKept s (execTrap c n T) := by
  unfold execTrap
  repeat' with_reducible first | exact h | apply kept_trap | apply kept_cp | intro _

theorem kept_execWfe {s T : State} {c : Guard} {d : BitVec 5} {n : BitVec 11} (h : s.Kept T) :
    OutKept s (execWfe c d n T) := by
  unfold execWfe
  repeat'
    first
    | with_reducible first | exact h | apply kept_done | apply kept_wait | apply kept_cp | apply kept_updCtx
                                  | apply kept_setsG | intro _
    | split

theorem kept_execYield {s T : State} {c : Guard} {n : BitVec 11} (h : s.Kept T) :
    OutKept s (execYield c n T) := by
  unfold execYield
  repeat' with_reducible first | exact h | apply kept_done | apply kept_cp | apply kept_updCtx | intro _

theorem kept_execTalloc {s T : State} {c : Guard} {d : BitVec 4} {a : BitVec 5} {b : BitVec 5} {fmt : BitVec 4} {pin : Bool} (h : s.Kept T) :
    OutKept s (execTalloc c d a b fmt pin T) := by
  unfold execTalloc
  dsimp only
  repeat'
    first
    | with_reducible first | exact h | apply kept_trap | apply kept_wait | apply kept_cp | apply kept_allocTile | intro _
    | split

theorem kept_execTview {s T : State} {c : Guard} {d : BitVec 4} {a : BitVec 4} {b : BitVec 5} (h : s.Kept T) :
    OutKept s (execTview c d a b T) := by
  unfold execTview
  dsimp only
  repeat'
    first
    | with_reducible first | exact h | apply kept_trap | apply kept_done | apply kept_wait | apply kept_cp
                                  | apply kept_withTile | apply kept_updCtx | intro _
    | split

theorem kept_execTld {s T : State} {c : Guard} {d : BitVec 5} {a : BitVec 4} {b : BitVec 5} {mode : BitVec 3} {z : Bool} {size : BitVec 2} (h : s.Kept T) :
    OutKept s (execTld c d a b mode z size T) := by
  unfold execTld
  dsimp only
  repeat'
    first
    | with_reducible first | assumption | apply kept_trap | apply kept_done | apply kept_wait | apply kept_cp
                                  | apply kept_withTile | apply kept_PageRes_resAt | apply kept_pagesAccess
                                  | apply kept_updCtx | intro _
    | split

theorem kept_execTst {s T : State} {c : Guard} {d : BitVec 4} {a : BitVec 5} {b : BitVec 5} {mode : BitVec 3} {size : BitVec 2} (h : s.Kept T) :
    OutKept s (execTst c d a b mode size T) := by
  unfold execTst
  dsimp only
  repeat'
    first
    | with_reducible first | assumption | apply kept_trap | apply kept_done | apply kept_cp | apply kept_withTileIf
                                  | apply kept_PageRes_res | apply kept_pageAccess | apply kept_tilePut | intro _
    | split

theorem kept_execTshape {s T : State} {c : Guard} {d : BitVec 5} {a : BitVec 4} (h : s.Kept T) :
    OutKept s (execTshape c d a T) := by
  unfold execTshape
  repeat' with_reducible first | exact h | apply kept_cp | apply kept_withTile | apply kept_setsG | intro _

theorem kept_execTstate {s T : State} {c : Guard} {d : BitVec 5} {a : BitVec 4} (h : s.Kept T) :
    OutKept s (execTstate c d a T) := by
  unfold execTstate
  repeat' with_reducible first | exact h | apply kept_cp | apply kept_withTile | apply kept_setsG | intro _

theorem kept_execTwait {s T : State} {c : Guard} {a : BitVec 4} (h : s.Kept T) :
    OutKept s (execTwait c a T) := by
  unfold execTwait
  repeat'
    first
    | with_reducible first | exact h | apply kept_done | apply kept_wait | apply kept_cp | apply kept_withTile | intro _
    | split

theorem kept_execTseal {s T : State} {c : Guard} {a : BitVec 4} (h : s.Kept T) :
    OutKept s (execTseal c a T) := by
  unfold execTseal
  dsimp only
  repeat'
    first
    | with_reducible first | exact h | apply kept_trap | apply kept_done | apply kept_cp | apply kept_withTileIf
                                  | apply kept_setTileSt | intro _
    | split

theorem kept_execTtouch {s T : State} {c : Guard} {a : BitVec 4} (h : s.Kept T) :
    OutKept s (execTtouch c a T) := by
  unfold execTtouch
  repeat'
    first
    | with_reducible first | assumption | apply kept_done | apply kept_cp | apply kept_withTile | apply kept_pageAccess
                                  | apply kept_foldl | (apply of_page_ok; assumption) | (apply of_page_wait; assumption)
                                  | intro _
    | split

theorem kept_execTadvKeep {s T : State} {c : Guard} {a : BitVec 4} (h : s.Kept T) :
    OutKept s (execTadvKeep c a T) := by
  unfold execTadvKeep
  repeat'
    first
    | with_reducible first | exact h | apply kept_done | apply kept_cp | apply kept_withTile | apply kept_sttRef
                                  | apply kept_foldl | intro _

theorem kept_execTadvSpill {s T : State} {c : Guard} {a : BitVec 4} (h : s.Kept T) :
    OutKept s (execTadvSpill c a T) := by
  unfold execTadvSpill
  repeat'
    first
    | with_reducible first | exact h | apply kept_done | apply kept_cp | apply kept_withTile | apply kept_evictPages
                                  | apply kept_setTileSt | intro _
    | split

theorem kept_execTpin {s T : State} {c : Guard} {a : BitVec 4} (h : s.Kept T) :
    OutKept s (execTpin c a T) := by
  unfold execTpin
  dsimp only
  repeat'
    first
    | with_reducible first | assumption | apply kept_trap | apply kept_done | apply kept_cp | apply kept_withTile
                                  | apply kept_PageRes_resAt | apply kept_pagesAccess | apply kept_pinPage | apply kept_updCtx
                                  | apply kept_foldl | intro _
    | split

theorem kept_execTpinUn {s T : State} {c : Guard} {a : BitVec 4} (h : s.Kept T) :
    OutKept s (execTpinUn c a T) := by
  unfold execTpinUn
  repeat'
    first
    | with_reducible first | exact h | apply kept_done | apply kept_cp | apply kept_withTile | apply kept_updCtx
                                  | apply kept_unpin | intro _

theorem kept_execTdrop {s T : State} {c : Guard} {a : BitVec 4} (h : s.Kept T) :
    OutKept s (execTdrop c a T) := by
  unfold execTdrop
  repeat'
    first
    | with_reducible first | exact h | apply kept_done | apply kept_cp | apply kept_withTile | apply kept_updCtx
                                  | apply kept_unpin | intro _
    | split

theorem kept_reading {s T : State} {x : Ctx} {f : List Word → Res} (h : s.Kept T) (hf : ∀ y0, Res.KeptBy s (f y0)) :
    Res.KeptBy s (State.reading T x f) := by
  unfold State.reading
  dsimp only
  repeat'
    first
    | with_reducible first | exact h | apply kept_wait | apply hf
    | split

theorem kept_execXspan {s T : State} {c : Guard} {d : BitVec 5} {a : BitVec 5} (h : s.Kept T) :
    OutKept s (execXspan c d a T) := by
  unfold execXspan
  repeat' with_reducible first | exact h | apply kept_cp | apply kept_reading | apply kept_setsG | intro _

theorem kept_execXlen {s T : State} {c : Guard} {d : BitVec 5} {a : BitVec 5} (h : s.Kept T) :
    OutKept s (execXlen c d a T) := by
  unfold execXlen
  repeat' with_reducible first | exact h | apply kept_cp | apply kept_reading | apply kept_setsG | intro _

theorem kept_execXkind {s T : State} {c : Guard} {d : BitVec 5} {a : BitVec 5} (h : s.Kept T) :
    OutKept s (execXkind c d a T) := by
  unfold execXkind
  repeat' with_reducible first | exact h | apply kept_cp | apply kept_reading | apply kept_setsG | intro _

theorem kept_execXarg {s T : State} {c : Guard} {d : BitVec 5} {a : BitVec 5} (h : s.Kept T) :
    OutKept s (execXarg c d a T) := by
  unfold execXarg
  repeat' with_reducible first | exact h | apply kept_cp | apply kept_reading | apply kept_setsG | intro _

theorem kept_execXargH {s T : State} {c : Guard} {d : BitVec 4} {a : BitVec 5} (h : s.Kept T) :
    OutKept s (execXargH c d a T) := by
  unfold execXargH
  dsimp only
  repeat'
    first
    | with_reducible first | exact h | apply kept_trap | apply kept_done | apply kept_cp | apply kept_reading
                                  | apply kept_updCtx | intro _
    | split

theorem kept_execXcopy {s T : State} {c : Guard} {a : BitVec 5} {b : BitVec 5} (h : s.Kept T) :
    OutKept s (execXcopy c a b T) := by
  unfold execXcopy
  dsimp only
  repeat'
    first
    | with_reducible first | exact h | apply kept_trap | apply kept_cp | apply kept_reading | apply kept_append | intro _
    | split

theorem kept_execXemit {s T : State} {c : Guard} {a : BitVec 5} (h : s.Kept T) :
    OutKept s (execXemit c a T) := by
  unfold execXemit
  repeat'
    first
    | with_reducible first | exact h | apply kept_trap | apply kept_cp | apply kept_append | intro _
    | split

theorem kept_execXemitt {s T : State} {c : Guard} {a : BitVec 4} (h : s.Kept T) :
    OutKept s (execXemitt c a T) := by
  unfold execXemitt
  repeat'
    first
    | with_reducible first | exact h | apply kept_trap | apply kept_wait | apply kept_cp | apply kept_withTileIf
                                  | apply kept_append | intro _
    | split

theorem kept_execXopen {s T : State} {c : Guard} (h : s.Kept T) :
    OutKept s (execXopen c T) := by
  unfold execXopen
  repeat' with_reducible first | exact h | apply kept_cp | apply kept_append | intro _

theorem kept_execXclose {s T : State} {c : Guard} (h : s.Kept T) :
    OutKept s (execXclose c T) := by
  unfold execXclose
  repeat' with_reducible first | exact h | apply kept_cp | apply kept_append | intro _

theorem kept_execXcloseApp {s T : State} {c : Guard} (h : s.Kept T) :
    OutKept s (execXcloseApp c T) := by
  unfold execXcloseApp
  repeat' with_reducible first | exact h | apply kept_cp | apply kept_append | intro _

theorem kept_execXapply {s T : State} {c : Guard} {a : BitVec 5} {b : BitVec 5} (h : s.Kept T) :
    OutKept s (execXapply c a b T) := by
  unfold execXapply
  repeat' with_reducible first | exact h | apply kept_cp | apply kept_append | intro _

theorem kept_execCommit {s T : State} {c : Guard} (h : s.Kept T) :
    OutKept s (execCommit c T) := by
  unfold execCommit
  repeat' with_reducible first | exact h | apply kept_cp | apply kept_commitRes | intro _

theorem kept_execAbort {s T : State} {c : Guard} (h : s.Kept T) :
    OutKept s (execAbort c T) := by
  unfold execAbort
  repeat' with_reducible first | exact h | apply kept_stop | apply kept_cp | apply kept_abandon | intro _

theorem kept_execXfail {s T : State} {c : Guard} {a : BitVec 5} (h : s.Kept T) :
    OutKept s (execXfail c a T) := by
  unfold execXfail
  repeat' with_reducible first | exact h | apply kept_stop | apply kept_cp | apply kept_failGang | intro _

theorem kept_execTrbc {s T : State} {c : Guard} {d : BitVec 5} {a : BitVec 5} {b : BitVec 5} (h : s.Kept T) :
    OutKept s (execTrbc c d a b T) := by
  unfold execTrbc
  repeat' with_reducible first | exact h | apply kept_cp | apply kept_collRes | intro _

theorem kept_execTrbcH {s T : State} {c : Guard} {d : BitVec 4} {a : BitVec 4} {b : BitVec 5} (h : s.Kept T) :
    OutKept s (execTrbcH c d a b T) := by
  unfold execTrbcH
  repeat' with_reducible first | exact h | apply kept_cp | apply kept_collRes | intro _

theorem kept_execTrred {s T : State} {c : Guard} {d : BitVec 5} {a : BitVec 5} {fmt : BitVec 3} {op : BitVec 3} (h : s.Kept T) :
    OutKept s (execTrred c d a fmt op T) := by
  unfold execTrred
  repeat' with_reducible first | exact h | apply kept_cp | apply kept_collRes | intro _

theorem kept_execTrgath {s T : State} {c : Guard} {d : BitVec 5} {a : BitVec 5} (h : s.Kept T) :
    OutKept s (execTrgath c d a T) := by
  unfold execTrgath
  repeat'
    first
    | with_reducible first | exact h | apply kept_trap | apply kept_cp | apply kept_collRes | intro _
    | split

theorem kept_execTrbar {s T : State} {c : Guard} (h : s.Kept T) :
    OutKept s (execTrbar c T) := by
  unfold execTrbar
  repeat' with_reducible first | exact h | apply kept_cp | apply kept_collRes | intro _

theorem kept_execCplan {s T : State} {c : Guard} {d : BitVec 5} {a : BitVec 5} (h : s.Kept T) :
    OutKept s (execCplan c d a T) := by
  unfold execCplan
  dsimp only
  repeat'
    first
    | with_reducible first | exact h | (simp only [kept_mk_iff]; apply kept_same) | apply kept_trap | apply kept_trapIn
                                  | apply kept_wait | apply kept_stop | apply kept_cp | apply kept_devReadLong
                                  | apply kept_AccErr_res | apply kept_setsG | apply kept_takeTrap | apply kept_send
                                  | (apply of_both_pair; assumption) | (apply of_both_err3; assumption) | intro _
    | split

theorem kept_withPlan {s T : State} {x : Ctx} {v : Word} {f : Nat → Plan → Res} (h : s.Kept T) (hf : ∀ y0 y1, Res.KeptBy s (f y0 y1)) :
    Res.KeptBy s (State.withPlan T x v f) := by
  unfold State.withPlan
  dsimp only
  repeat'
    first
    | with_reducible first | apply kept_trap | apply hf
    | split

theorem kept_execCfire {s T : State} {c : Guard} {a : BitVec 5} (h : s.Kept T) :
    OutKept s (execCfire c a T) := by
  unfold execCfire
  repeat'
    first
    | with_reducible first | exact h | apply kept_done | apply kept_cp | apply kept_withPlan | apply kept_firePlan
                                  | apply opt_getD | intro _

theorem kept_execCwait {s T : State} {c : Guard} {d : BitVec 5} {a : BitVec 5} {b : BitVec 5} (h : s.Kept T) :
    OutKept s (execCwait c d a b T) := by
  unfold execCwait
  dsimp only
  repeat'
    first
    | with_reducible first | exact h | apply kept_trap | apply kept_wait | apply kept_cp | apply kept_withPlan
                                  | apply kept_setsG | intro _
    | split

theorem kept_execCdrop {s T : State} {c : Guard} {a : BitVec 5} (h : s.Kept T) :
    OutKept s (execCdrop c a T) := by
  unfold execCdrop
  repeat'
    first
    | with_reducible first | exact h | (simp only [kept_mk_iff]; apply kept_same) | apply kept_trap | apply kept_done
                                  | apply kept_wait | apply kept_cp | apply kept_withPlan | apply kept_tellDrop | intro _
    | split

theorem kept_execCsendS {s T : State} {c : Guard} {a : BitVec 4} {b : BitVec 5} (h : s.Kept T) :
    OutKept s (execCsendS c a b T) := by
  unfold execCsendS
  dsimp only
  repeat'
    first
    | with_reducible first | exact h | apply kept_trap | apply kept_wait | apply kept_cp | apply kept_withTileIf
                                  | apply kept_csendMeet | intro _
    | split

theorem kept_execCsendR {s T : State} {c : Guard} {d : BitVec 4} {b : BitVec 5} (h : s.Kept T) :
    OutKept s (execCsendR c d b T) := by
  unfold execCsendR
  dsimp only
  repeat'
    first
    | with_reducible first | exact h | apply kept_trap | apply kept_wait | apply kept_cp | apply kept_withTileIf
                                  | apply kept_csendMeet | intro _
    | split

theorem kept_withEngine {s T : State} {k : Nat} {x : Ctx} {v : BitVec 4} {f : Nat → Engine → Res} (h : s.Kept T) (hf : ∀ y0 y1, Res.KeptBy s (f y0 y1)) :
    Res.KeptBy s (State.withEngine T k x v f) := by
  unfold State.withEngine
  dsimp only
  repeat'
    first
    | with_reducible first | exact h | apply kept_trap | apply kept_stop | apply hf | apply kept_takeTrap
                                  | apply kept_setEngine
    | split

theorem kept_loadEngine {s T : State} {k : Nat} {x : Ctx} {e : Nat} {r : List Word} {src : RecSrc} (h : s.Kept T) :
    Res.KeptBy s (State.loadEngine T k x e r src) := by
  unfold State.loadEngine
  dsimp only
  repeat'
    first
    | with_reducible first | exact h | apply kept_trapIn | apply kept_done | apply kept_checkFoot | apply kept_setEngine
                                  | apply kept_emptyDst
    | split

theorem kept_execSagen {s T : State} {c : Guard} {eng : BitVec 4} {a : BitVec 5} (h : s.Kept T) :
    OutKept s (execSagen c eng a T) := by
  unfold execSagen
  dsimp only
  repeat'
    first
    | with_reducible first | exact h | apply kept_trap | apply kept_trapIn | apply kept_wait | apply kept_cp
                                  | apply kept_withEngine | apply kept_AccErr_res | apply kept_loadEngine
                                  | (apply of_both_pair; assumption; apply kept_devReadLong)
                                  | (apply of_both_err3; assumption; apply kept_devReadLong) | intro _
    | split

theorem kept_execSagenTile {s T : State} {c : Guard} {eng : BitVec 4} {a : BitVec 4} {b : BitVec 5} (h : s.Kept T) :
    OutKept s (execSagenTile c eng a b T) := by
  unfold execSagenTile
  dsimp only
  repeat'
    first
    | with_reducible first | exact h | apply kept_trap | apply kept_wait | apply kept_cp | apply kept_withEngine
                                  | apply kept_withTile | apply kept_PageRes_res | apply kept_pageAccess
                                  | apply kept_loadEngine | intro _
    | split

theorem kept_execSagenPantry {s T : State} {c : Guard} {eng : BitVec 4} {entry : BitVec 10} (h : s.Kept T) :
    OutKept s (execSagenPantry c eng entry T) := by
  unfold execSagenPantry
  repeat'
    first
    | with_reducible first | exact h | apply kept_trap | apply kept_wait | apply kept_cp | apply kept_withEngine
                                  | apply kept_loadEngine | intro _
    | split

theorem kept_execSgo {s T : State} {c : Guard} {eng : BitVec 4} (h : s.Kept T) :
    OutKept s (execSgo c eng T) := by
  unfold execSgo
  repeat'
    first
    | with_reducible first | exact h | apply kept_trap | apply kept_done | apply kept_cp | apply kept_withEngine
                                  | apply kept_takeExtents | apply kept_setEngine | apply kept_checkFoot | intro _
    | split

theorem kept_execShalt {s T : State} {c : Guard} {eng : BitVec 4} (h : s.Kept T) :
    OutKept s (execShalt c eng T) := by
  unfold execShalt
  repeat'
    first
    | with_reducible first | exact h | apply kept_done | apply kept_cp | apply kept_withEngine | apply kept_haltEngine
                                  | intro _

theorem kept_execShaltPush {s T : State} {c : Guard} {a : BitVec 5} (h : s.Kept T) :
    OutKept s (execShaltPush c a T) := by
  unfold execShaltPush
  repeat'
    first
    | with_reducible first | exact h | apply kept_trap | apply kept_done | apply kept_cp | apply kept_endPush | intro _
    | split

theorem kept_execSwait {s T : State} {c : Guard} {eng : BitVec 4} {_scope : BitVec 3} (h : s.Kept T) :
    OutKept s (execSwait c eng _scope T) := by
  unfold execSwait
  repeat'
    first
    | with_reducible first | exact h | apply kept_trap | apply kept_done | apply kept_wait | apply kept_cp
                                  | apply kept_withEngine | intro _
    | split

theorem kept_execScnt {s T : State} {c : Guard} {d : BitVec 5} {eng : BitVec 4} (h : s.Kept T) :
    OutKept s (execScnt c d eng T) := by
  unfold execScnt
  repeat' with_reducible first | exact h | apply kept_cp | apply kept_withEngine | apply kept_setsG | intro _

theorem kept_startPush {s T : State} {k : Nat} {p : Nat} {r : List Word} {base : Word} {idxBase : Word} {subs : Tab Engine} (h : s.Kept T) :
    s.Kept (State.startPush T k p r base idxBase subs) := by
  unfold State.startPush
  repeat'
    first
    | with_reducible first | exact h | (simp only [kept_mk_iff]; apply kept_same) | apply kept_setEngine | apply kept_foldl
                                  | intro _
    | split

theorem kept_execSmcast {s T : State} {c : Guard} {a : BitVec 5} {b : BitVec 5} (h : s.Kept T) :
    OutKept s (execSmcast c a b T) := by
  unfold execSmcast
  dsimp only
  repeat'
    first
    | with_reducible first | exact h | apply kept_trap | apply kept_trapIn | apply kept_done | apply kept_wait | apply kept_cp
                                  | apply kept_startPush | apply kept_devReadLong | apply kept_AccErr_res
                                  | (apply of_both_pair; assumption) | (apply of_both_err3; assumption) | intro _
    | split

theorem kept_execSbind {s T : State} {c : Guard} {eng : BitVec 4} {a : BitVec 4} {slot : BitVec 5} (h : s.Kept T) :
    OutKept s (execSbind c eng a slot T) := by
  unfold execSbind
  dsimp only
  repeat'
    first
    | with_reducible first | exact h | apply kept_trap | apply kept_cp | apply kept_withEngine | apply kept_bindHandle
                                  | intro _
    | split

theorem kept_execSbindHost {s T : State} {c : Guard} {eng : BitVec 4} (h : s.Kept T) :
    OutKept s (execSbindHost c eng T) := by
  unfold execSbindHost
  repeat'
    first
    | with_reducible first | exact h | apply kept_trap | apply kept_cp | apply kept_withEngine | apply kept_bindHost | intro _
    | split

theorem kept_execGload {s T : State} {c : Guard} {q : BitVec 4} {a : BitVec 5} (h : s.Kept T) : OutKept s (execGload c q a T) := by
  unfold execGload
  refine kept_cp h fun k x => kept_State_gloadQuads fun qs => ?_
  split
  · exact kept_trap
  · exact kept_gloadRes h

theorem kept_execGloadPantry {s T : State} {c : Guard} {q : BitVec 4} {entry : BitVec 10} (h : s.Kept T) :
    OutKept s (execGloadPantry c q entry T) := by
  unfold execGloadPantry
  exact kept_cp h fun k x => kept_State_gloadQuads fun qs => kept_gridEntry h fun _ => kept_gloadRes h

theorem kept_withQuads {s T : State} {k : Nat} {x : Ctx} {q : BitVec 4} {f : List Nat → List (Nat × Image) → Res} (h : s.Kept T) (hf : ∀ y0 y1, Res.KeptBy s (f y0 y1)) :
    Res.KeptBy s (State.withQuads T k x q f) := by
  unfold State.withQuads
  dsimp only
  repeat'
    first
    | with_reducible first | apply kept_trap | apply hf
    | split

theorem kept_execGpatch {s T : State} {c : Guard} {q : BitVec 4} {a : BitVec 5} (h : s.Kept T) :
    OutKept s (execGpatch c q a T) := by
  unfold execGpatch
  repeat' with_reducible first | exact h | apply kept_cp | apply kept_withQuads | apply kept_gpatchRes | intro _

theorem kept_execGpatchPantry {s T : State} {c : Guard} {q : BitVec 4} {entry : BitVec 10} (h : s.Kept T) :
    OutKept s (execGpatchPantry c q entry T) := by
  unfold execGpatchPantry
  repeat'
    first
    | with_reducible first | exact h | apply kept_trap | apply kept_cp | apply kept_withQuads | apply kept_gridEntry
                                  | apply kept_gpatchRes | intro _
    | split

theorem kept_execGproof {s T : State} {c : Guard} {q : BitVec 4} (h : s.Kept T) :
    OutKept s (execGproof c q T) := by
  unfold execGproof
  repeat'
    first
    | with_reducible first | exact h | apply kept_done | apply kept_wait | apply kept_cp | apply kept_withQuads | intro _
    | split

theorem kept_offerPort {s T : State} {core : Nat} {q : Nat} {edge : Nat} {k : Nat} {t : Tok} (h : s.Kept T) :
    OptKept s (State.offerPort T core q edge k t) := by
  unfold State.offerPort
  dsimp only
  repeat'
    first
    | with_reducible first | exact h | apply opt_none | apply opt_some | apply kept_carryWord | apply kept_setElem
    | split

theorem kept_execGseed {s T : State} {c : Guard} {q : BitVec 4} {a b : BitVec 5} (h : s.Kept T) : OutKept s (execGseed c q a b T) := by
  unfold execGseed
  refine kept_cp h fun k x => ?_
  split
  · dsimp only
    repeat'
      first
      | with_reducible first | exact kept_trap | exact kept_wait h | exact kept_done (kept_holdAtPort h)
      | split
    all_goals first
      | exact h
      | exact kept_done (of_opt ‹_› (kept_offerPort h))
  · exact kept_trap

theorem kept_setPorts {s T : State} {l : List (Nat × Image)} {opened : Bool} (h : s.Kept T) :
    s.Kept (State.setPorts T l opened) := by
  unfold State.setPorts
  repeat' with_reducible first | exact h | (simp only [kept_mk_iff]; apply kept_same)

theorem kept_execGdrain {s T : State} {c : Guard} {q : BitVec 4} (h : s.Kept T) :
    OutKept s (execGdrain c q T) := by
  unfold execGdrain
  repeat' with_reducible first | exact h | apply kept_done | apply kept_cp | apply kept_withQuads | apply kept_setPorts | intro _

theorem kept_execGdrainOpen {s T : State} {c : Guard} {q : BitVec 4} (h : s.Kept T) :
    OutKept s (execGdrainOpen c q T) := by
  unfold execGdrainOpen
  repeat' with_reducible first | exact h | apply kept_done | apply kept_cp | apply kept_withQuads | apply kept_setPorts | intro _

theorem kept_execGwait {s T : State} {c : Guard} {q : BitVec 4} (h : s.Kept T) :
    OutKept s (execGwait c q T) := by
  unfold execGwait
  repeat' with_reducible first | exact h | apply kept_cp | apply kept_withQuads | apply kept_gwaitRes | intro _

theorem kept_execGwaitIdle {s T : State} {c : Guard} {q : BitVec 4} (h : s.Kept T) :
    OutKept s (execGwaitIdle c q T) := by
  unfold execGwaitIdle
  repeat' with_reducible first | exact h | apply kept_cp | apply kept_withQuads | apply kept_gwaitRes | intro _

theorem kept_execGkill {s T : State} {c : Guard} {q : BitVec 4} (h : s.Kept T) :
    OutKept s (execGkill c q T) := by
  unfold execGkill
  dsimp only
  repeat'
    first
    | with_reducible first | assumption | apply kept_done | apply kept_wait | apply kept_stop | apply kept_cp
                                  | apply kept_withQuads | apply kept_settleAll | apply kept_abandonErr | apply kept_killQuads
                                  | apply kept_killSettled | apply kept_dropLeft | apply kept_haltEngine | apply kept_foldl
                                  | intro _
    | split

theorem kept_execGsave {s T : State} {c : Guard} {q : BitVec 4} {a : BitVec 5} (h : s.Kept T) :
    OutKept s (execGsave c q a T) := by
  unfold execGsave
  repeat'
    first
    | with_reducible first | exact h | apply kept_trap | apply kept_done | apply kept_wait | apply kept_cp
                                  | apply kept_withQuads | apply kept_devWriteLong | apply kept_AccErr_res
                                  | (apply of_both_state; assumption) | (apply of_both_err3; assumption) | intro _
    | split

theorem kept_execGstall {s T : State} {c : Guard} {d : BitVec 5} {a : BitVec 5} (h : s.Kept T) :
    OutKept s (execGstall c d a T) := by
  unfold execGstall
  dsimp only
  repeat'
    first
    | with_reducible first | exact h | apply kept_trap | apply kept_cp | apply kept_setsG | intro _
    | split

theorem kept_execGstallFlags {s T : State} {c : Guard} {d : BitVec 5} {q : BitVec 4} (h : s.Kept T) :
    OutKept s (execGstallFlags c d q T) := by
  unfold execGstallFlags
  repeat'
    first
    | with_reducible first | exact h | apply kept_trap | apply kept_cp | apply kept_withQuads | apply kept_setsG | intro _
    | split

theorem kept_execENop {s T : State} (h : s.Kept T) :
    OutKept s (execENop T) := by
  unfold execENop
  repeat'
    first
    | with_reducible first | exact h | apply out_next | apply out_fault
    | split

theorem kept_execEAdd {s T : State} {w : ElWord} (h : s.Kept T) :
    OutKept s (execEAdd w T) := by
  unfold execEAdd
  repeat' with_reducible first | exact h | apply kept_elOp

theorem kept_execESub {s T : State} {w : ElWord} (h : s.Kept T) :
    OutKept s (execESub w T) := by
  unfold execESub
  repeat' with_reducible first | exact h | apply kept_elOp

theorem kept_execEMul {s T : State} {w : ElWord} (h : s.Kept T) :
    OutKept s (execEMul w T) := by
  unfold execEMul
  repeat' with_reducible first | exact h | apply kept_elOp

theorem kept_execEMulh {s T : State} {w : ElWord} (h : s.Kept T) :
    OutKept s (execEMulh w T) := by
  unfold execEMulh
  repeat' with_reducible first | exact h | apply kept_elOp

theorem kept_execEAnd {s T : State} {w : ElWord} (h : s.Kept T) :
    OutKept s (execEAnd w T) := by
  unfold execEAnd
  repeat' with_reducible first | exact h | apply kept_elOp

theorem kept_execEOr {s T : State} {w : ElWord} (h : s.Kept T) :
    OutKept s (execEOr w T) := by
  unfold execEOr
  repeat' with_reducible first | exact h | apply kept_elOp

theorem kept_execEXor {s T : State} {w : ElWord} (h : s.Kept T) :
    OutKept s (execEXor w T) := by
  unfold execEXor
  repeat' with_reducible first | exact h | apply kept_elOp

theorem kept_execEShl {s T : State} {w : ElWord} (h : s.Kept T) :
    OutKept s (execEShl w T) := by
  unfold execEShl
  repeat' with_reducible first | exact h | apply kept_elOp

theorem kept_execEShr {s T : State} {w : ElWord} (h : s.Kept T) :
    OutKept s (execEShr w T) := by
  unfold execEShr
  repeat' with_reducible first | exact h | apply kept_elOp

theorem kept_execESar {s T : State} {w : ElWord} (h : s.Kept T) :
    OutKept s (execESar w T) := by
  unfold execESar
  repeat' with_reducible first | exact h | apply kept_elOp

theorem kept_execEMin {s T : State} {w : ElWord} (h : s.Kept T) :
    OutKept s (execEMin w T) := by
  unfold execEMin
  repeat' with_reducible first | exact h | apply kept_elOp

theorem kept_execEMax {s T : State} {w : ElWord} (h : s.Kept T) :
    OutKept s (execEMax w T) := by
  unfold execEMax
  repeat' with_reducible first | exact h | apply kept_elOp

theorem kept_execECmp {s T : State} {w : ElWord} (h : s.Kept T) :
    OutKept s (execECmp w T) := by
  unfold execECmp
  repeat' with_reducible first | exact h | apply kept_elOp

theorem kept_execESel {s T : State} {w : ElWord} (h : s.Kept T) :
    OutKept s (execESel w T) := by
  unfold execESel
  repeat' with_reducible first | exact h | apply kept_elOp

theorem kept_execEMov {s T : State} {w : ElWord} (h : s.Kept T) :
    OutKept s (execEMov w T) := by
  unfold execEMov
  repeat' with_reducible first | exact h | apply kept_elOp

theorem kept_execEConst {s T : State} {w : ElWord} (h : s.Kept T) :
    OutKept s (execEConst w T) := by
  unfold execEConst
  repeat' with_reducible first | exact h | apply kept_elOp

theorem kept_execECnt {s T : State} {w : ElWord} (h : s.Kept T) :
    OutKept s (execECnt w T) := by
  unfold execECnt
  repeat' with_reducible first | exact h | apply kept_elOp

theorem kept_execEAcc {s T : State} {w : ElWord} (h : s.Kept T) :
    OutKept s (execEAcc w T) := by
  unfold execEAcc
  repeat' with_reducible first | exact h | apply kept_elOp

theorem kept_execEFadd {s T : State} {w : ElWord} (h : s.Kept T) :
    OutKept s (execEFadd w T) := by
  unfold execEFadd
  repeat' with_reducible first | exact h | apply kept_elOp

theorem kept_execEFsub {s T : State} {w : ElWord} (h : s.Kept T) :
    OutKept s (execEFsub w T) := by
  unfold execEFsub
  repeat' with_reducible first | exact h | apply kept_elOp

theorem kept_execEFmul {s T : State} {w : ElWord} (h : s.Kept T) :
    OutKept s (execEFmul w T) := by
  unfold execEFmul
  repeat' with_reducible first | exact h | apply kept_elOp

theorem kept_execEFfma {s T : State} {w : ElWord} (h : s.Kept T) :
    OutKept s (execEFfma w T) := by
  unfold execEFfma
  repeat' with_reducible first | exact h | apply kept_elOp

theorem kept_execEFmin {s T : State} {w : ElWord} (h : s.Kept T) :
    OutKept s (execEFmin w T) := by
  unfold execEFmin
  repeat' with_reducible first | exact h | apply kept_elOp

theorem kept_execEFmax {s T : State} {w : ElWord} (h : s.Kept T) :
    OutKept s (execEFmax w T) := by
  unfold execEFmax
  repeat' with_reducible first | exact h | apply kept_elOp

theorem kept_execEFcmp {s T : State} {w : ElWord} (h : s.Kept T) :
    OutKept s (execEFcmp w T) := by
  unfold execEFcmp
  repeat' with_reducible first | exact h | apply kept_elOp

theorem kept_execEFacc {s T : State} {w : ElWord} (h : s.Kept T) :
    OutKept s (execEFacc w T) := by
  unfold execEFacc
  repeat' with_reducible first | exact h | apply kept_elOp

theorem kept_execECvt {s T : State} {w : ElWord} (h : s.Kept T) :
    OutKept s (execECvt w T) := by
  unfold execECvt
  repeat' with_reducible first | exact h | apply kept_elOp

theorem kept_execEExp2 {s T : State} {w : ElWord} (h : s.Kept T) :
    OutKept s (execEExp2 w T) := by
  unfold execEExp2
  repeat' with_reducible first | exact h | apply kept_elOp

theorem kept_execELog2 {s T : State} {w : ElWord} (h : s.Kept T) :
    OutKept s (execELog2 w T) := by
  unfold execELog2
  repeat' with_reducible first | exact h | apply kept_elOp

theorem kept_execERcp {s T : State} {w : ElWord} (h : s.Kept T) :
    OutKept s (execERcp w T) := by
  unfold execERcp
  repeat' with_reducible first | exact h | apply kept_elOp

theorem kept_execERsq {s T : State} {w : ElWord} (h : s.Kept T) :
    OutKept s (execERsq w T) := by
  unfold execERsq
  repeat' with_reducible first | exact h | apply kept_elOp

theorem kept_memDone {s T : State} {t : Site} {m : MemPend} {v : W32} (h : s.Kept T) :
    s.Kept (State.memDone T t m v) := by
  unfold State.memDone
  repeat'
    first
    | with_reducible first | assumption | apply kept_setElem | apply kept_sendTok | apply kept_foldl | intro _
    | split

theorem kept_performMem {s T : State} {t : Site} {retry : Bool} {z3 : Nat} (h : s.Kept T) :
    s.Kept (State.performMem T t retry z3) := by
  induction z3 generalizing T t retry with
  | zero =>
    unfold State.performMem
    repeat'
      first
      | with_reducible first | exact h | apply kept_setElem | apply kept_abandonErr | apply kept_memDone | apply kept_tryAccess
                                    | (apply of_acc_done; assumption) | (apply of_acc_wait; assumption)
                                    | (apply of_acc_fail; assumption) | (apply ih)
      | split
  | succ n_ ih =>
    unfold State.performMem
    repeat'
      first
      | with_reducible first | exact h | apply kept_setElem | apply kept_abandonErr | apply kept_memDone | apply kept_tryAccess
                                    | (apply of_acc_done; assumption) | (apply of_acc_wait; assumption)
                                    | (apply of_acc_fail; assumption) | (apply ih)
      | split

theorem kept_memFired {s T : State} {t : Site} {m : MemPend} {deq : List Dir} {outs : List (Dir × BitVec 3)} (h : s.Kept T) :
    s.Kept (State.memFired T t m deq outs) := by
  unfold State.memFired
  repeat' with_reducible first | exact h | apply kept_setSiteImage | apply kept_setElem

theorem kept_memOp {s T : State} {code : Nat} {op : Nat} {w : ElWord} (h : s.Kept T) :
    OutKept s (State.memOp T code op w) := by
  unfold State.memOp
  repeat'
    first
    | with_reducible first | exact h | apply out_next | apply out_fault | apply kept_performMem | apply kept_setElem
                                  | apply kept_element | apply kept_memFired | intro _
    | split

theorem kept_execELd {s T : State} {w : ElWord} (h : s.Kept T) :
    OutKept s (execELd w T) := by
  unfold execELd
  repeat' with_reducible first | exact h | apply kept_memOp

theorem kept_execESt {s T : State} {w : ElWord} (h : s.Kept T) :
    OutKept s (execESt w T) := by
  unfold execESt
  repeat' with_reducible first | exact h | apply kept_memOp

theorem kept_execELdl {s T : State} {w : ElWord} (h : s.Kept T) :
    OutKept s (execELdl w T) := by
  unfold execELdl
  repeat' with_reducible first | exact h | apply kept_memOp

theorem kept_execEOrdf {s T : State} {w : ElWord} (h : s.Kept T) :
    OutKept s (execEOrdf w T) := by
  unfold execEOrdf
  repeat' with_reducible first | exact h | apply kept_elOp

theorem kept_execEOrdj {s T : State} {w : ElWord} (h : s.Kept T) :
    OutKept s (execEOrdj w T) := by
  unfold execEOrdj
  repeat' with_reducible first | exact h | apply kept_elOp

theorem kept_execESteer {s T : State} {w : ElWord} (h : s.Kept T) :
    OutKept s (execESteer w T) := by
  unfold execESteer
  repeat' with_reducible first | exact h | apply kept_elOp

theorem kept_execEMerge {s T : State} {w : ElWord} (h : s.Kept T) :
    OutKept s (execEMerge w T) := by
  unfold execEMerge
  repeat' with_reducible first | exact h | apply kept_elOp

theorem kept_execETagchk {s T : State} {w : ElWord} (h : s.Kept T) :
    OutKept s (execETagchk w T) := by
  unfold execETagchk
  repeat'
    first
    | with_reducible first | exact h | apply kept_element | apply kept_fired | apply kept_abandonErr | apply kept_setElem
                                  | intro _
    | split

theorem kept_execESink {s T : State} {w : ElWord} (h : s.Kept T) :
    OutKept s (execESink w T) := by
  unfold execESink
  repeat' with_reducible first | exact h | apply kept_element | apply kept_fired | intro _

theorem kept_trigger {s T : State} {op : Nat} {w : TrWord} {f : Site → Tok → State} (h : s.Kept T) (hf : ∀ y0 y1, s.Kept (f y0 y1)) :
    OutKept s (State.trigger T op w f) := by
  unfold State.trigger
  dsimp only
  repeat'
    first
    | with_reducible first | exact h | (simp only [kept_mk_iff]; apply kept_same) | apply out_next | apply out_fault
                                  | apply hf | apply kept_stallAt | apply kept_setElem
    | split

theorem kept_taskError {s T : State} {t : Site} (h : s.Kept T) :
    s.Kept (State.taskError T t) := by
  unfold State.taskError
  repeat' with_reducible first | exact h | apply kept_abandonErr

theorem kept_issueIsl {s T : State} {t : Site} {o : IslOp} (h : s.Kept T) :
    s.Kept (State.issueIsl T t o) := by
  unfold State.issueIsl
  repeat'
    first
    | with_reducible first | exact h | apply kept_setIsland
    | split

theorem kept_execTMma {s T : State} {t : TrWord} (h : s.Kept T) :
    OutKept s (execTMma t T) := by
  unfold execTMma
  repeat'
    first
    | with_reducible first | exact h | apply kept_trigger | apply kept_taskError | apply kept_issueIsl | intro _
    | split

theorem kept_execTMclr {s T : State} {t : TrWord} (h : s.Kept T) :
    OutKept s (execTMclr t T) := by
  unfold execTMclr
  repeat' with_reducible first | exact h | apply kept_trigger | apply kept_issueIsl | intro _

theorem kept_execTMdrain {s T : State} {t : TrWord} (h : s.Kept T) :
    OutKept s (execTMdrain t T) := by
  unfold execTMdrain
  repeat' with_reducible first | exact h | apply kept_trigger | apply kept_issueIsl | intro _

theorem kept_execTMscale {s T : State} {t : TrWord} (h : s.Kept T) :
    OutKept s (execTMscale t T) := by
  unfold execTMscale
  repeat'
    first
    | with_reducible first | exact h | apply kept_trigger | apply kept_setIsland | intro _
    | split

theorem kept_execTAccrd {s T : State} {t : TrWord} (h : s.Kept T) :
    OutKept s (execTAccrd t T) := by
  unfold execTAccrd
  repeat'
    first
    | with_reducible first | exact h | apply kept_trigger | apply kept_taskError | apply kept_issueIsl | intro _
    | split

theorem kept_execTDeq {s T : State} {t : TrWord} (h : s.Kept T) :
    OutKept s (execTDeq t T) := by
  unfold execTDeq
  repeat' with_reducible first | exact h | apply kept_trigger | intro _

theorem kept_trigSend {s T : State} {x : Site} {t : TrWord} {data : W32} {tag : BitVec 5} (h : s.Kept T) :
    s.Kept (State.trigSend T x t data tag) := by
  unfold State.trigSend
  repeat' with_reducible first | exact h | apply kept_sendTok

theorem kept_execTEnq {s T : State} {t : TrWord} (h : s.Kept T) :
    OutKept s (execTEnq t T) := by
  unfold execTEnq
  repeat' with_reducible first | exact h | apply kept_trigger | apply kept_trigSend | intro _

theorem kept_trigElem {s T : State} {t : Site} {f : Elem → Elem} (h : s.Kept T) :
    s.Kept (State.trigElem T t f) := by
  unfold State.trigElem
  repeat' with_reducible first | exact h | apply kept_setElem

theorem kept_execTPset {s T : State} {t : TrWord} (h : s.Kept T) :
    OutKept s (execTPset t T) := by
  unfold execTPset
  repeat' with_reducible first | exact h | apply kept_trigger | apply kept_trigElem | intro _

theorem kept_execTPclr {s T : State} {t : TrWord} (h : s.Kept T) :
    OutKept s (execTPclr t T) := by
  unfold execTPclr
  repeat' with_reducible first | exact h | apply kept_trigger | apply kept_trigElem | intro _

theorem kept_execTSig {s T : State} {t : TrWord} (h : s.Kept T) :
    OutKept s (execTSig t T) := by
  unfold execTSig
  dsimp only
  repeat'
    first
    | with_reducible first | exact h | apply kept_trigger | apply kept_updCtx | apply kept_arriveBar | apply kept_abandonErr
                                  | intro _
    | split

theorem kept_execTSeed {s T : State} {t : TrWord} (h : s.Kept T) :
    OutKept s (execTSeed t T) := by
  unfold execTSeed
  repeat' with_reducible first | exact h | apply kept_trigger | apply kept_trigSend | intro _

theorem kept_execTTagset {s T : State} {t : TrWord} (h : s.Kept T) :
    OutKept s (execTTagset t T) := by
  unfold execTTagset
  repeat' with_reducible first | exact h | apply kept_trigger | apply kept_trigSend | intro _

theorem kept_execTCnt {s T : State} {t : TrWord} (h : s.Kept T) :
    OutKept s (execTCnt t T) := by
  unfold execTCnt
  repeat' with_reducible first | exact h | apply kept_trigger | apply kept_trigElem | intro _

theorem kept_execTMov {s T : State} {t : TrWord} (h : s.Kept T) :
    OutKept s (execTMov t T) := by
  unfold execTMov
  repeat'
    first
    | with_reducible first | exact h | apply kept_trigger | apply kept_trigElem | apply kept_trigSend | intro _
    | split

theorem kept_execTCmp {s T : State} {t : TrWord} (h : s.Kept T) :
    OutKept s (execTCmp t T) := by
  unfold execTCmp
  repeat' with_reducible first | exact h | apply kept_trigger | apply kept_trigElem | intro _

theorem kept_execTHalt {s T : State} {t : TrWord} (h : s.Kept T) :
    OutKept s (execTHalt t T) := by
  unfold execTHalt
  repeat' with_reducible first | exact h | apply kept_trigger | apply kept_trigElem | intro _

theorem kept_loadPage {s T : State} {l key i n : Nat} {bs : List Byte} (h : s.Kept T) : OptKept s (State.loadPage T l key i n bs) := by
  unfold State.loadPage
  split
  · exact opt_none
  · exact kept_writeBacking (kept_setDir (of_opt ‹_› (kept_newPage h)) fun _ => wf_msetN (m := []) _ _ rfl)

theorem kept_loadPages {s T : State} {l : Nat} {key : Nat} {i : Nat} {n : Nat} {bs : List Byte} {z6 : Nat} (h : s.Kept T) :
    OptKept s (State.loadPages T l key i n bs z6) := by
  induction z6 generalizing T l key i n bs with
  | zero =>
    unfold State.loadPages
    repeat'
      first
      | with_reducible first | exact h | apply opt_none | apply opt_some | apply kept_loadPage | (apply of_opt; assumption)
                                    | (apply ih)
      | split
  | succ n_ ih =>
    unfold State.loadPages
    repeat'
      first
      | with_reducible first | exact h | apply opt_none | apply opt_some | apply kept_loadPage | (apply of_opt; assumption)
                                    | (apply ih)
      | split

theorem kept_loadTiles {s T : State} {l : Nat} {ts : List (Nat × TileEnt)} (h : s.Kept T) :
    OptKept2 s (State.loadTiles T l ts) := by
  induction ts generalizing T l with
  | nil =>
    unfold State.loadTiles
    try dsimp only
    repeat'
      first
      | with_reducible first | exact h | (simp only [kept_mk_iff]; apply kept_same) | apply opt2_none | apply opt2_some
                                    | apply kept_loadPages | apply kept_setLaunch | (apply of_opt; assumption)
                                    | (apply of_opt2; assumption) | (apply ih)
      | split
  | cons hd_ tl_ ih =>
    unfold State.loadTiles
    try dsimp only
    repeat'
      first
      | with_reducible first | exact h | (simp only [kept_mk_iff]; apply kept_same) | apply opt2_none | apply opt2_some
                                    | apply kept_loadPages | apply kept_setLaunch | (apply of_opt; assumption)
                                    | (apply of_opt2; assumption) | (apply ih)
      | split

theorem kept_loadLaunch {s T : State} {l : Nat} {x : Launch} (h : s.Kept T) :
    s.Kept (State.loadLaunch T l x) := by
  unfold State.loadLaunch
  dsimp only
  repeat'
    first
    | with_reducible first | exact h | (simp only [kept_mk_iff]; apply kept_same) | apply kept_stopLaunch
                                  | apply kept_loadTiles | apply kept_setLaunch | apply kept_addRef | apply kept_updPart
                                  | apply kept_foldl | (apply of_opt2; assumption) | intro _
    | split

theorem kept_execLaunchLoad {s T : State} {part : Nat} {slot : Nat} (h : s.Kept T) :
    OutKept s (execLaunchLoad part slot T) := by
  unfold execLaunchLoad
  dsimp only
  repeat'
    first
    | with_reducible first | exact h | apply out_next | apply kept_stopLaunch | apply kept_loadLaunch
    | split

theorem kept_execPreemptComplete {s T : State} {part : Nat} (h : s.Kept T) :
    OutKept s (execPreemptComplete part T) := by
  unfold execPreemptComplete
  dsimp only
  repeat'
    first
    | with_reducible first | exact h | apply out_next | apply kept_haltAll | apply kept_checkpointDue | apply kept_raise
                                  | apply kept_updPart
    | split

theorem kept_execDvinvComplete {s T : State} {part : Nat} (h : s.Kept T) :
    OutKept s (execDvinvComplete part T) := by
  unfold execDvinvComplete
  dsimp only
  repeat'
    first
    | with_reducible first | exact h | apply out_next | apply kept_fillQueues | apply kept_abandon | apply kept_updPart
                                  | apply kept_foldl | intro _
    | split

theorem kept_rehomePage {s T : State} {p : Nat} {x : Nat × Nat × Nat} (h : s.Kept T) :
    s.Kept (State.rehomePage T p x) := by
  unfold State.rehomePage
  repeat'
    first
    | with_reducible first | assumption | apply kept_setDir | apply kept_writeBacking | (apply of_opt; assumption)
                                  | apply wf_dirE | apply of_kept | apply memWf_mem | apply memWf_host | apply memWf_dir
                                  | intro _ | (simp only [kept_mk_iff]; refine kept_mem ?_ ?_ ?_ ?_)
    | split

theorem kept_execMapChangeComplete {s T : State} {part : Nat} (h : s.Kept T) : OutKept s (execMapChangeComplete part T) := by
  unfold execMapChangeComplete
  split
  · exact out_next h
  · dsimp only
    have hs : ∀ (out : List (Nat × Nat × Nat)) (sp : Tab Spill) (m : List Nat) (g : Nat → Nat → State → Nat),
        s.Kept (m.foldl (fun s sl => s.homeBlocks part sl (g part sl s))
          (out.foldl (fun s x => s.rehomePage part x) { T with spills := sp })) := fun out sp m g =>
      kept_foldl (fun t x ht => kept_homeBlocks ht) (kept_foldl (fun t x ht => kept_rehomePage ht) (by
        simp only [kept_mk_iff]; exact kept_same h))
    refine kept_out_ite (out_next (hs _ _ _ fun p sl s => (s.homed p sl + 63) / 64)) (out_next (kept_updateCaps (kept_updPart ?_)))
    simp only [kept_mk_iff]
    exact kept_memory (hs _ _ _ fun p sl s => (s.homed p sl + 63) / 64) (fun w => wf_filter _ w)

theorem kept_trainPorts {s T : State} (h : s.Kept T) :
    s.Kept (State.trainPorts T) := by
  unfold State.trainPorts
  repeat' with_reducible first | exact h | (simp only [kept_mk_iff]; apply kept_same)

theorem kept_execFirmwareCheck {s T : State} (h : s.Kept T) :
    OutKept s (execFirmwareCheck T) := by
  unfold execFirmwareCheck
  dsimp only
  repeat'
    first
    | with_reducible first | exact h | (simp only [kept_mk_iff]; apply kept_same) | apply out_next | apply kept_updCore
                                  | apply kept_trainPorts | apply kept_foldl | intro _
    | split

theorem kept_execPriTimeout {s T : State} {core : Nat} {eng : Nat} (h : s.Kept T) :
    OutKept s (execPriTimeout core eng T) := by
  unfold execPriTimeout
  dsimp only
  repeat'
    first
    | with_reducible first | exact h | apply out_next | apply kept_dropPageReq | apply kept_faultEngine
    | split

theorem kept_setBins {s T : State} {bins : List (Nat × Nat)} (h : s.Kept T) :
    s.Kept (State.setBins T bins) := by
  unfold State.setBins
  repeat'
    first
    | with_reducible first | assumption | apply kept_updCore | apply kept_foldl | intro _
    | split

theorem kept_updateAllCaps {s T : State} (h : s.Kept T) :
    s.Kept (State.updateAllCaps T) := by
  unfold State.updateAllCaps
  repeat' with_reducible first | exact h | apply kept_updateCaps | apply kept_foldl | intro _

theorem kept_replan {s T : State} {bins : List (Nat × Nat)} (h : s.Kept T) :
    s.Kept (State.replan T bins) := by
  unfold State.replan
  repeat'
    first
    | with_reducible first | exact h | (simp only [kept_mk_iff]; apply kept_same) | apply kept_setBins
                                  | apply kept_updateAllCaps

theorem kept_execMarginPlanTimer {s T : State} {bins : List (Nat × Nat)} (h : s.Kept T) :
    OutKept s (execMarginPlanTimer bins T) := by
  unfold execMarginPlanTimer
  repeat'
    first
    | with_reducible first | exact h | apply out_next | apply kept_replan
    | split

theorem kept_execFenceCore {s T : State} {core : Nat} (h : s.Kept T) :
    OutKept s (execFenceCore core T) := by
  unfold execFenceCore
  dsimp only
  repeat'
    first
    | with_reducible first | exact h | apply out_next | apply kept_clearCore | apply kept_emptyFrames | apply kept_haltGang
                                  | apply kept_checkpointDue | apply kept_fillQueues | apply kept_fencedIn | apply kept_foldl
    | split

theorem kept_startMap {s T : State} {p : Nat} {m : List Nat} (h : s.Kept T) :
    s.Kept (State.startMap T p m) := by
  unfold State.startMap
  repeat' with_reducible first | exact h | apply kept_updPart | apply kept_clearL2

theorem kept_execFenceSlice {s T : State} {slice : Nat} (h : s.Kept T) :
    OutKept s (execFenceSlice slice T) := by
  unfold execFenceSlice
  dsimp only
  repeat'
    first
    | with_reducible first | exact h | (simp only [kept_mk_iff]; apply kept_same) | apply out_next | apply kept_setErr
                                  | apply kept_updateCaps | apply kept_startMap | apply kept_updPart
    | split

theorem kept_markRa {s T : State} {p : Nat} {slot : Nat} {pass : Nat} {cell : Nat} (h : s.Kept T) :
    s.Kept (State.markRa T p slot pass cell) := by
  unfold State.markRa
  dsimp only
  repeat'
    first
    | with_reducible first | exact h | (simp only [kept_mk_iff]; apply kept_same) | apply kept_setRa | apply kept_reduceErr
    | split

theorem kept_passLaunch {s T : State} {p : Nat} {slot : Nat} {pass : Nat} (h : s.Kept T) :
    s.Kept (State.passLaunch T p slot pass) := by
  unfold State.passLaunch
  dsimp only
  repeat'
    first
    | with_reducible first | exact h | apply kept_stopLaunch | apply kept_setLaunch | apply kept_markRa | apply kept_finish
                                  | apply kept_foldl | intro _
    | split

theorem kept_rowFull {s T : State} {p : Nat} {slot : Nat} (h : s.Kept T) :
    s.Kept (State.rowFull T p slot) := by
  unfold State.rowFull
  dsimp only
  repeat'
    first
    | with_reducible first | exact h | apply kept_stopLaunch
    | split

theorem kept_rowFullAll {s T : State} {p : Nat} (h : s.Kept T) :
    s.Kept (State.rowFullAll T p) := by
  unfold State.rowFullAll
  repeat' with_reducible first | exact h | apply kept_rowFull | apply kept_foldl | intro _

theorem kept_execDiscoveryPass {s T : State} {part : Nat} (h : s.Kept T) :
    OutKept s (execDiscoveryPass part T) := by
  unfold execDiscoveryPass
  dsimp only
  repeat'
    first
    | with_reducible first | exact h | apply out_next | apply kept_updPart | apply kept_passLaunch | apply kept_rowFullAll
                                  | apply kept_fillQueues | apply kept_foldl | intro _
    | split

theorem kept_reserveFrames {s T : State} {k : Nat} {z2 : Nat} (h : s.Kept T) :
    s.Kept (State.reserveFrames T k z2) := by
  induction z2 generalizing T k with
  | zero =>
    unfold State.reserveFrames
    repeat'
      first
      | with_reducible first | exact h | (simp only [kept_mk_iff]; apply kept_same) | (apply ih)
      | split
  | succ n_ ih =>
    unfold State.reserveFrames
    repeat'
      first
      | with_reducible first | exact h | (simp only [kept_mk_iff]; apply kept_same) | (apply ih)
      | split

theorem kept_takeMembers {s T : State} {gk : Nat} {o : Oper} {l : List (Nat × List Nat)} {rank : Nat} (h : s.Kept T) :
    s.Kept (State.takeMembers T gk o l rank) := by
  induction l generalizing T gk o rank with
  | nil =>
    unfold State.takeMembers
    repeat' with_reducible first | exact h | apply kept_setCtx | apply kept_reserveFrames | (apply ih)
  | cons hd_ tl_ ih =>
    unfold State.takeMembers
    repeat' with_reducible first | exact h | apply kept_setCtx | apply kept_reserveFrames | (apply ih)

theorem kept_takePlace {s T : State} {i : Nat} {l : List (Nat × List Nat)} (h : s.Kept T) :
    s.Kept (State.takePlace T i l) := by
  unfold State.takePlace
  repeat'
    first
    | with_reducible first | exact h | (simp only [kept_mk_iff]; apply kept_same) | apply kept_takeMembers
                                  | apply kept_setGang | apply kept_fillQueues | apply kept_setRa
    | split

theorem kept_execPlaceGang {s T : State} {part : Nat} {slot : Nat} {cell : Nat} (h : s.Kept T) :
    OutKept s (execPlaceGang part slot cell T) := by
  unfold execPlaceGang
  repeat'
    first
    | with_reducible first | exact h | apply out_next | apply kept_takePlace
    | split

theorem kept_execOperatorLoad {s T : State} {part : Nat} {slot : Nat} {op : Nat} {core : Nat} (h : s.Kept T) :
    OutKept s (execOperatorLoad part slot op core T) := by
  unfold execOperatorLoad
  dsimp only
  repeat'
    first
    | with_reducible first | exact h | apply out_next | apply kept_cfgSend | apply kept_updCore | apply kept_foldl | intro _
    | split

theorem kept_restoreSections {s T : State} {core : Nat} {old : List Nat} {new : List Nat} {sv : Saved} {qs : List Nat} (h : s.Kept T) :
    s.Kept (State.restoreSections T core old new sv qs) := by
  unfold State.restoreSections
  repeat' with_reducible first | exact h | (simp only [kept_mk_iff]; apply kept_same)

theorem kept_restoreImage {s T : State} {k : Nat} {old : List Nat} {new : List Nat} {sv : Saved} {im : Image} (h : s.Kept T) :
    BothKept s (fun t => t) (fun t => t) (State.restoreImage T k old new sv im) := by
  unfold State.restoreImage
  dsimp only
  repeat'
    first
    | with_reducible first | exact h | (simp only [kept_mk_iff]; apply kept_same) | apply both_err | apply both_ok
                                  | apply kept_reloadImage | apply kept_writeImage | apply kept_restoreSections
                                  | (apply of_both_pair; assumption) | (apply of_both_err0; assumption)
    | split

theorem kept_restoreImages {s T : State} {k : Nat} {old : List Nat} {new : List Nat} {sv : Saved} {z5 : List (Nat × Image)} (h : s.Kept T) :
    BothKept s (fun t => t) (fun t => t) (State.restoreImages T k old new sv z5) := by
  induction z5 generalizing T k old new sv with
  | nil =>
    unfold State.restoreImages
    repeat'
      first
      | with_reducible first | exact h | apply both_err | apply both_ok | apply kept_restoreImage
                                    | (apply of_both_state; assumption) | (apply of_both_err0; assumption) | (apply ih)
      | split
  | cons hd_ tl_ ih =>
    unfold State.restoreImages
    repeat'
      first
      | with_reducible first | exact h | apply both_err | apply both_ok | apply kept_restoreImage
                                    | (apply of_both_state; assumption) | (apply of_both_err0; assumption) | (apply ih)
      | split

theorem kept_restoreRegions {s T : State} {z1 : List (Nat × Saved)} (h : s.Kept T) :
    BothKept s (fun t => t) (fun t => t) (State.restoreRegions T z1) := by
  induction z1 generalizing T with
  | nil =>
    unfold State.restoreRegions
    repeat'
      first
      | with_reducible first | exact h | apply both_err | apply both_ok | apply kept_clearQuads | apply kept_restoreImages
                                    | apply kept_restoreSections | (apply of_both_state; assumption)
                                    | (apply of_both_err0; assumption) | (apply ih)
      | split
  | cons hd_ tl_ ih =>
    unfold State.restoreRegions
    repeat'
      first
      | with_reducible first | exact h | apply both_err | apply both_ok | apply kept_clearQuads | apply kept_restoreImages
                                    | apply kept_restoreSections | (apply of_both_state; assumption)
                                    | (apply of_both_err0; assumption) | (apply ih)
      | split

theorem kept_walked {s T t : State} (h : s.Kept T) (ht : s.Kept t) : s.Kept (T.walked t) := by
  unfold State.walked
  simp only [kept_mk_iff]
  exact kept_mem h (fun w => (ht.mem w).1) (fun w => (h.mem w).2.1) fun w => (h.mem w).2.2

theorem kept_newWriters {s T : State} {gk : Nat} {members : List Nat} (h : s.Kept T) : s.Kept (T.newWriters gk members) := by
  unfold State.newWriters
  simp only [kept_mk_iff]
  refine kept_mem h (fun w => (h.mem w).1) (fun w => (h.mem w).2.1) fun w => ?_
  rw [List.all_map]
  refine List.all_eq_true.2 fun e he => ?_
  have q := List.all_eq_true.1 (h.mem w).2.2 e he
  dsimp only [Function.comp]
  split <;> exact q

theorem kept_rerun {s T : State} {k : Nat} {e : Nat} {g : Engine} {unit : Nat} (h : s.Kept T) :
    s.Kept (State.rerun T k e g unit) := by
  unfold State.rerun
  dsimp only
  repeat'
    first
    | with_reducible first | exact h | apply kept_followLinks | apply kept_setEngine | apply kept_faultEngine
                                  | (apply of_both_pair; assumption) | (apply of_both_err3; assumption)
    | split

theorem kept_reload {s T : State} {e : Nat} {r : Res} (h : s.Kept T) (hr : Res.KeptBy s r) : s.Kept (T.reload e r) := by
  unfold State.reload
  split
  · exact hr
  · exact kept_faultEngine h
  · exact kept_faultEngine hr
  · exact h

theorem kept_rebind {s T : State} {k : Nat} {x : Ctx} {e : Nat} {n : Nat} {old : Option Handle} {reg : Nat} (h : s.Kept T) :
    s.Kept (State.rebind T k x e n old reg) := by
  unfold State.rebind
  dsimp only
  repeat'
    first
    | with_reducible first | exact h | apply kept_reload | apply kept_bindHandle
    | split

theorem kept_retake {s T : State} {k : Nat} {x : Ctx} {e : Nat} (h : s.Kept T) : s.Kept (T.retake k x e) := by
  unfold State.retake
  dsimp only
  split
  · exact h
  · exact kept_reload h (kept_takeExtents h fun g => kept_done (kept_checkFoot (kept_setEngine h)))

theorem kept_reissue {s T : State} {k : Nat} {x : Ctx} {e : Nat} {g : Engine} (h : s.Kept T) :
    s.Kept (State.reissue T k x e g) := by
  unfold State.reissue
  dsimp only
  repeat'
    first
    | with_reducible first | exact h | apply kept_faultEngine | apply kept_reload | apply kept_loadEngine | apply kept_rebind
                                  | apply kept_retake | apply kept_bindHost
    | split

theorem kept_restoreEngine {s T : State} {k : Nat} {x : Ctx} {e : Nat} {g : Engine} {unit : Nat} (h : s.Kept T) :
    s.Kept (State.restoreEngine T k x e g unit) := by
  unfold State.restoreEngine
  dsimp only
  repeat'
    first
    | with_reducible first | exact h | apply kept_setEngine | apply kept_rerun | apply kept_reissue | apply kept_emptyDst
    | split

theorem kept_restoreMember {s T : State} {gk : Nat} {k : Nat} {sg : SavedGang} {sv : Saved} (h : s.Kept T) :
    s.Kept (State.restoreMember T gk k sg sv) := by
  unfold State.restoreMember
  repeat'
    first
    | with_reducible first | exact h | (simp only [kept_mk_iff]; apply kept_same) | apply kept_restoreEngine
                                  | apply kept_setCtx | apply kept_foldl | intro _

theorem kept_restorePush {s T : State} {members : List Nat} {sg : SavedGang} {u : Nat × Push} (h : s.Kept T) :
    s.Kept (State.restorePush T members sg u) := by
  unfold State.restorePush
  dsimp only
  repeat'
    first
    | with_reducible first | exact h | (simp only [kept_mk_iff]; apply kept_same) | apply kept_followLinks
                                  | apply kept_faultEngine | apply kept_foldl | (apply of_both_pair; assumption)
                                  | (apply of_both_err3; assumption) | intro _
    | split

theorem kept_repin {s T : State} {k : Nat} {sv : Saved} (h : s.Kept T) :
    s.Kept (State.repin T k sv) := by
  unfold State.repin
  dsimp only
  repeat'
    first
    | with_reducible first | assumption | apply kept_pinPage | apply kept_foldl | intro _
    | split

theorem kept_resumeGang {s T : State} {gk : Nat} {sg : SavedGang} (h : s.Kept T) :
    s.Kept (State.resumeGang T gk sg) := by
  unfold State.resumeGang
  dsimp only
  repeat'
    first
    | with_reducible first | exact h | (simp only [kept_mk_iff]; apply kept_same) | apply kept_bringAll
                                  | apply kept_restoreRegions | apply kept_abandonSaved | apply kept_walked
                                  | apply kept_newWriters | apply kept_restoreMember | apply kept_restorePush
                                  | apply kept_repin | apply kept_freeSaves | apply kept_setRa | apply kept_setGang
                                  | apply kept_foldl | (apply of_both_state; assumption) | (apply of_both_err0; assumption)
                                  | intro _
    | split

theorem kept_startGang {s T : State} {gk : Nat} (h : s.Kept T) :
    s.Kept (State.startGang T gk) := by
  unfold State.startGang
  repeat' with_reducible first | exact h | apply kept_updCtx | apply kept_setGang | apply kept_foldl | intro _

theorem kept_execContextStart {s T : State} {core : Nat} {ctx : Nat} (h : s.Kept T) :
    OutKept s (execContextStart core ctx T) := by
  unfold execContextStart
  dsimp only
  repeat'
    first
    | with_reducible first | exact h | apply out_next | apply kept_resumeGang | apply kept_startGang
    | split

theorem kept_execSteal {s T : State} {part : Nat} {slot : Nat} {cell : Nat} {core : Nat} (h : s.Kept T) :
    OutKept s (execSteal part slot cell core T) := by
  unfold execSteal
  dsimp only
  repeat'
    first
    | with_reducible first | exact h | apply out_next | apply kept_takePlace
    | split

theorem kept_StepSt_await {s : State} {y : StepSt} {i : Nat} (h : s.Kept y.s) : s.Kept (y.await i).s := by
  unfold StepSt.await
  dsimp only
  split
  · exact kept_abandon (kept_setRa h)
  · exact kept_setRa h

theorem kept_StepSt_apply {s : State} {y : StepSt} {i : Nat} (h : s.Kept y.s) : s.Kept (y.apply i).s := by
  unfold StepSt.apply
  dsimp only
  split
  · exact kept_StepSt_await h
  · refine kept_afterKnead (kept_followMoves ?_)
    unfold State.kneadRow
    simp only [kept_mk_iff]
    exact kept_same (kept_holdMoved h)

theorem kept_StepSt_foldl {s : State} {α : Type} {g : α → Nat} {l : List α} {y : StepSt} (h : s.Kept y.s) :
    s.Kept (l.foldl (fun (y : StepSt) r => y.apply (g r)) y).s := by
  induction l generalizing y with
  | nil => exact h
  | cons x r ih => exact ih (kept_StepSt_apply h)

theorem kept_execCommitStep {s T : State} {part : Nat} (h : s.Kept T) : OutKept s (execCommitStep part T) := by
  unfold execCommitStep
  dsimp only
  split
  · exact out_next h
  · refine out_next (kept_rowFullAll (kept_fillQueues (kept_updPart (kept_StepSt_foldl ?_))))
    dsimp only
    exact kept_updPart h

theorem kept_execDvaRetry {s T : State} {core : Nat} {row : Nat} {col : Nat} (h : s.Kept T) :
    OutKept s (execDvaRetry core row col T) := by
  unfold execDvaRetry
  dsimp only
  repeat'
    first
    | with_reducible first | exact h | apply out_next | apply kept_endDue | apply kept_abandonErr | apply kept_setElem
                                  | apply kept_performMem
    | split

theorem kept_execPageArrival {s T : State} {core : Nat} {part : Nat} {slot : Nat} {page : Nat} (h : s.Kept T) :
    OutKept s (execPageArrival core part slot page T) := by
  unfold execPageArrival
  dsimp only
  repeat'
    first
    | with_reducible first | exact h | apply out_next | apply kept_arrive
    | split

theorem kept_execFaultLimitExpiry {s T : State} {part : Nat} {gang : Nat} (h : s.Kept T) :
    OutKept s (execFaultLimitExpiry part gang T) := by
  unfold execFaultLimitExpiry
  dsimp only
  repeat'
    first
    | with_reducible first | exact h | apply out_next | apply kept_fillQueues | apply kept_abandonSaved
                                  | apply kept_abandonWait
    | split

theorem kept_execSecondChanceClock {s T : State} {core : Nat} (h : s.Kept T) :
    OutKept s (execSecondChanceClock core T) := by
  unfold execSecondChanceClock
  repeat'
    first
    | with_reducible first | exact h | apply out_next | apply kept_clockFrom
    | split

theorem kept_takeExit {s T : State} {e : Nat} (h : s.Kept T) :
    s.Kept (State.takeExit T e) := by
  unfold State.takeExit
  dsimp only
  repeat'
    first
    | with_reducible first | exact h | (simp only [kept_mk_iff]; apply kept_same) | apply kept_setEngine
    | split

theorem kept_writeDst {s T : State} {e : Nat} {g : Engine} {rel : Int} {v : Nat} (h : s.Kept T) :
    GotKept s (fun t => t) (State.writeDst T e g rel v) := by
  unfold State.writeDst
  dsimp only
  repeat'
    first
    | with_reducible first | assumption | apply got_fault | apply got_val | apply kept_PageRes_got | apply kept_pageAccess
                                  | apply kept_tilePut | apply kept_engXlat | apply kept_AccErr_got | apply kept_writeAt
                                  | apply kept_homeTouch | apply kept_waitHost | apply kept_atcAsk
                                  | (apply of_both_pair; assumption) | (apply of_both_err_mk; assumption)
                                  | (apply of_both_state; assumption) | apply wf_msetN | apply of_kept | apply memWf_mem
                                  | apply memWf_host | apply memWf_dir | intro _
                                  | (simp only [kept_mk_iff]; refine kept_mem ?_ ?_ ?_ ?_)
    | split

theorem kept_keepAsk {s T : State} {t : State} {e : Nat} (h : s.Kept T) :
    s.Kept (State.keepAsk T t e) := by
  unfold State.keepAsk
  repeat' with_reducible first | exact h | (simp only [kept_mk_iff]; apply kept_same) | apply kept_updEngine

theorem kept_putWords {s T : State} {e : Nat} {g : Engine} {z3 : List (Int × Nat)} (h : s.Kept T) :
    GotKept s (fun t => t) (State.putWords T e g z3) := by
  induction z3 generalizing T e g with
  | nil =>
    unfold State.putWords
    repeat'
      first
      | with_reducible first | assumption | apply kept_Got_bind | apply got_fault | apply got_val | apply got_stall
                                    | apply kept_burstWalk | apply kept_keepAsk | apply kept_writeDst
                                    | (apply of_got_id; assumption) | (apply ih) | intro _
      | split
  | cons hd_ tl_ ih =>
    unfold State.putWords
    repeat'
      first
      | with_reducible first | assumption | apply kept_Got_bind | apply got_fault | apply got_val | apply got_stall
                                    | apply kept_burstWalk | apply kept_keepAsk | apply kept_writeDst
                                    | (apply of_got_id; assumption) | (apply ih) | intro _
      | split

theorem kept_putBurst {s T : State} {e : Nat} {k : Nat} (h : s.Kept T) :
    GotKept s (fun t => t) (State.putBurst T e k) := by
  unfold State.putBurst
  repeat'
    first
    | with_reducible first | assumption | apply kept_Got_bind | apply got_val | apply kept_putWords | apply kept_updEngine
                                  | apply kept_cleanLine | intro _

theorem kept_pump {s T : State} {e : Nat} {words : Nat} {z3 : Nat} (h : s.Kept T) :
    s.Kept (State.pump T e words z3) := by
  induction z3 generalizing T e words with
  | zero =>
    unfold State.pump
    try dsimp only
    repeat'
      first
      | with_reducible first | exact h | apply kept_engineWaits | apply kept_faultEngine | apply kept_putBurst
                                    | apply kept_updEngine | apply kept_getBurst | (apply of_got_id; assumption)
                                    | (apply of_got_stall; assumption) | (apply of_got_fault; assumption) | (apply ih)
      | split
  | succ n_ ih =>
    unfold State.pump
    try dsimp only
    repeat'
      first
      | with_reducible first | exact h | apply kept_engineWaits | apply kept_faultEngine | apply kept_putBurst
                                    | apply kept_updEngine | apply kept_getBurst | (apply of_got_id; assumption)
                                    | (apply of_got_stall; assumption) | (apply of_got_fault; assumption) | (apply ih)
      | split

theorem kept_offerIsland {s T : State} {core : Nat} {i : Nat} {b : Bool} {t : Tok} (h : s.Kept T) :
    OptKept s (State.offerIsland T core i b t) := by
  unfold State.offerIsland
  dsimp only
  repeat'
    first
    | with_reducible first | exact h | (simp only [kept_mk_iff]; apply kept_same) | apply opt_none | apply opt_some
                                  | apply kept_carryWord
    | split

theorem kept_offerHeld {s T : State} {e n : Nat} (h : s.Kept T) : s.Kept (State.offerHeld T e n) := by
  induction n generalizing T with
  | zero => exact h
  | succ n ih =>
    unfold State.offerHeld
    dsimp only
    split
    · exact h
    · split
      · split
        · exact kept_ite h (kept_holdAtPort h)
        · exact h
      · rename_i s1 heq
        refine ih (kept_setEngine ?_)
        split at heq
        · split at heq
          · exact of_opt heq (opt_ite opt_none (kept_offerPort h))
          · cases heq
        · split at heq
          · exact of_opt heq (kept_offerIsland h)
          · cases heq

theorem kept_execStreamBurst {s T : State} {core : Nat} {eng : Nat} (h : s.Kept T) :
    OutKept s (execStreamBurst core eng T) := by
  unfold execStreamBurst
  dsimp only
  repeat'
    first
    | with_reducible first | exact h | apply out_next | apply kept_takeExit | apply kept_pump | apply kept_offerHeld
    | split

theorem kept_execStreamComplete {s T : State} {core : Nat} {eng : Nat} (h : s.Kept T) :
    OutKept s (execStreamComplete core eng T) := by
  unfold execStreamComplete
  dsimp only
  repeat'
    first
    | with_reducible first | exact h | apply out_next | apply kept_setTileSt | apply kept_setEngine | apply kept_leavePush
    | split

theorem kept_pushWords {s T : State} {g : Engine} {n : Nat} {z3 : Nat} (h : s.Kept T) :
    GotKept s Prod.fst (State.pushWords T g n z3) := by
  induction z3 generalizing T g n with
  | zero =>
    unfold State.pushWords
    repeat'
      first
      | with_reducible first | assumption | apply kept_Got_bind | apply got_val | apply kept_readSrc | apply kept_elemRel
                                    | (apply ih) | intro _
  | succ n_ ih =>
    unfold State.pushWords
    repeat'
      first
      | with_reducible first | assumption | apply kept_Got_bind | apply got_val | apply kept_readSrc | apply kept_elemRel
                                    | (apply ih) | intro _

theorem kept_execPushUnit {s T : State} {push : Nat} (h : s.Kept T) :
    OutKept s (execPushUnit push T) := by
  unfold execPushUnit
  dsimp only
  repeat'
    first
    | with_reducible first | exact h | (simp only [kept_mk_iff]; apply kept_same) | apply out_next | apply kept_pushWords
                                  | apply kept_faultEngine | apply kept_updEngine | apply kept_foldl
                                  | (apply of_got_fst; assumption) | (apply of_got_stall; assumption)
                                  | (apply of_got_fault; assumption) | intro _
    | split

theorem kept_execSpaceToken {s T : State} {core : Nat} {eng : Nat} (h : s.Kept T) :
    OutKept s (execSpaceToken core eng T) := by
  unfold execSpaceToken
  dsimp only
  repeat'
    first
    | with_reducible first | exact h | (simp only [kept_mk_iff]; apply kept_same) | apply out_next | apply kept_setEngine
    | split

theorem kept_execProofWave {s T : State} {core : Nat} {q : BitVec 4} (h : s.Kept T) :
    OutKept s (execProofWave core q T) := by
  unfold execProofWave
  dsimp only
  repeat'
    first
    | with_reducible first | exact h | (simp only [kept_mk_iff]; apply kept_same) | apply out_next
    | split

theorem kept_execIslandTask {s T : State} {core isl : Nat} (h : s.Kept T) : OutKept s (execIslandTask core isl T) := by
  unfold execIslandTask
  dsimp only
  split
  · exact out_next h
  · split
    · exact out_next h
    · rename_i ik im _ _
      have entry {U : State} (b : Bool) (hU : s.Kept U) : s.Kept (match (U.island (core * 8 + isl)).nextOf b with
          | some (n, o) => U.islEntry ik im core isl n o
          | none => U) := by
        split
        · exact kept_islEntry hU
        · exact hU
      split
      · exact out_next (kept_islRun (entry true (entry false (kept_setIsland (kept_islHeader h)))))
      · exact out_next (entry true (entry false (kept_setIsland (kept_islHeader h))))

theorem kept_execScaleToken {s T : State} {core : Nat} {isl : Nat} (h : s.Kept T) :
    OutKept s (execScaleToken core isl T) := by
  unfold execScaleToken
  dsimp only
  repeat'
    first
    | with_reducible first | exact h | (simp only [kept_mk_iff]; apply kept_same) | apply out_next | apply kept_setIsland
    | split

theorem kept_planWalks {s T : State} {launch : Nat} {p : Plan} (h : s.Kept T) :
    s.Kept (State.planWalks T launch p) := by
  unfold State.planWalks
  repeat'
    first
    | with_reducible first | assumption | apply kept_translate | apply kept_foldl | (apply of_exc2; assumption) | intro _
    | split

theorem kept_planWrite {s T : State} {launch : Nat} {a : Word} {n : Nat} {v : Nat} (h : s.Kept T) :
    s.Kept (State.planWrite T launch a n v) := by
  unfold State.planWrite
  repeat'
    first
    | with_reducible first | exact h | apply kept_translate | apply kept_put | (apply of_exc2; assumption)
    | split

theorem kept_execPlanRunComplete {s T : State} {part : Nat} {plan : Nat} (h : s.Kept T) :
    OutKept s (execPlanRunComplete part plan T) := by
  unfold execPlanRunComplete
  dsimp only
  repeat'
    first
    | with_reducible first | exact h | (simp only [kept_mk_iff]; apply kept_same) | apply out_next | apply kept_planWalks
                                  | apply kept_planWrite | apply kept_tellDrop | apply kept_foldl | intro _
    | split

theorem kept_copyTile {s T : State} {from_ to_ gk src dst i n : Nat} (h : s.Kept T) :
    CopyRes.KeptBy s (T.copyTile from_ to_ gk src dst i n) := by
  induction n generalizing T i with
  | zero => exact h
  | succ n ih =>
    unfold State.copyTile
    split
    · trivial
    · exact of_page_wait ‹_› (kept_pageAccess h)
    · have h1 := of_page_ok ‹_› (kept_pageAccess h)
      split
      · trivial
      · exact of_page_wait ‹_› (kept_pageAccess h1)
      · have h2 := of_page_ok ‹_› (kept_pageAccess h1)
        exact ih (kept_setDir h2 fun w => wf_dirE (of_kept w h2))

theorem kept_execCsendCopyDone {s T : State} {part gang src dst : Nat} (h : s.Kept T) :
    OutKept s (execCsendCopyDone part gang src dst T) := by
  unfold execCsendCopyDone
  dsimp only
  split
  · split
    · split
      · exact out_next (kept_copyLost h)
      · rename_i q
        exact out_next (kept_setGang (CopyRes.KeptBy.of_wait q (kept_copyTile h)))
      · rename_i q
        refine out_next (kept_foldl (fun t r ht => ?_) (kept_setGang (kept_setTileSt (CopyRes.KeptBy.of_done q (kept_copyTile h)))))
        split
        · exact kept_updCtx ht
        · exact ht
    · exact out_next h
  · exact out_next h

theorem kept_execYieldExpiry {s T : State} {core : Nat} {ctx : Nat} (h : s.Kept T) :
    OutKept s (execYieldExpiry core ctx T) := by
  unfold execYieldExpiry
  dsimp only
  repeat'
    first
    | with_reducible first | exact h | apply out_next | apply kept_updCtx
    | split

theorem kept_execMonitorEndCall {s T : State} {core : Nat} {ctx : Nat} {ans : MonitorAns} (h : s.Kept T) :
    OutKept s (execMonitorEndCall core ctx ans T) := by
  unfold execMonitorEndCall
  dsimp only
  repeat'
    first
    | with_reducible first | exact h | apply out_next | apply kept_updCtx | apply kept_takeTrap
    | split

theorem kept_execIllegalEncoding {s T : State} {addr : Word} (h : s.Kept T) :
    OutKept s (execIllegalEncoding addr T) := by
  unfold execIllegalEncoding
  repeat'
    first
    | with_reducible first | exact h | apply out_next | apply out_fault | apply kept_takeTrap
    | split

theorem kept_execWriteOutEnd {s T : State} {part : Nat} {slot : Nat} {page : Nat} (h : s.Kept T) :
    OutKept s (execWriteOutEnd part slot page T) := by
  unfold execWriteOutEnd
  dsimp only
  repeat'
    first
    | with_reducible first | exact h | apply out_next | apply kept_setTileSt
    | split

theorem kept_execPlanJoin {s T : State} {part : Nat} {plan : Nat} (h : s.Kept T) :
    OutKept s (execPlanJoin part plan T) := by
  unfold execPlanJoin
  dsimp only
  repeat'
    first
    | with_reducible first | exact h | (simp only [kept_mk_iff]; apply kept_same) | apply out_next
    | split

theorem kept_execLaunch {s T : State} {part : Nat} {v : Word} (h : s.Kept T) :
    OutKept s (execLaunch part v T) := by
  unfold execLaunch
  repeat'
    first
    | with_reducible first | exact h | apply out_next | apply kept_updPart | apply kept_setLaunch
    | split

theorem kept_unplaceAll {s T : State} {l : Nat} (h : s.Kept T) :
    s.Kept (State.unplaceAll T l) := by
  unfold State.unplaceAll
  repeat'
    first
    | with_reducible first | assumption | apply kept_unplaceRa | apply kept_foldl | intro _
    | split

theorem kept_execPreempt {s T : State} {part : Nat} {v : Word} (h : s.Kept T) :
    OutKept s (execPreempt part v T) := by
  unfold execPreempt
  dsimp only
  repeat'
    first
    | with_reducible first | assumption | (simp only [kept_mk_iff]; apply kept_same) | apply out_next | apply kept_setLaunch
                                  | apply kept_askHalt | apply kept_unplaceAll | apply kept_fillQueues | apply kept_updPart
                                  | apply kept_foldl | intro _
    | split

theorem kept_execResume {s T : State} {part : Nat} {v : Word} (h : s.Kept T) :
    OutKept s (execResume part v T) := by
  unfold execResume
  repeat'
    first
    | with_reducible first | assumption | (simp only [kept_mk_iff]; apply kept_same) | apply out_next | apply kept_fillQueues
                                  | apply kept_setLaunch | apply kept_foldl | intro _
    | split

theorem kept_execStatusFree {s T : State} {part : Nat} {slot : Nat} {v : Word} (h : s.Kept T) :
    OutKept s (execStatusFree part slot v T) := by
  unfold execStatusFree
  dsimp only
  repeat'
    first
    | with_reducible first | exact h | (simp only [kept_mk_iff]; apply kept_same) | apply out_next
    | split

theorem kept_execDvinvPage {s T : State} {part : Nat} {v : Word} (h : s.Kept T) :
    OutKept s (execDvinvPage part v T) := by
  unfold execDvinvPage
  repeat' with_reducible first | exact h | apply out_next | apply kept_dvinv

theorem kept_execDvinvLaunch {s T : State} {part : Nat} {v : Word} (h : s.Kept T) :
    OutKept s (execDvinvLaunch part v T) := by
  unfold execDvinvLaunch
  repeat' with_reducible first | exact h | apply out_next | apply kept_dvinv

theorem kept_execDvinvPartition {s T : State} {part : Nat} {v : Word} (h : s.Kept T) :
    OutKept s (execDvinvPartition part v T) := by
  unfold execDvinvPartition
  repeat' with_reducible first | exact h | apply out_next | apply kept_dvinv

theorem kept_execErrstsClear {s T : State} {part : Nat} {v : Word} (h : s.Kept T) :
    OutKept s (execErrstsClear part v T) := by
  unfold execErrstsClear
  repeat'
    first
    | with_reducible first | exact h | apply out_next | apply kept_updPart
    | split

theorem kept_execRouteTableWrite {s T : State} {part : Nat} {granule : Nat} {v : Word} (h : s.Kept T) :
    OutKept s (execRouteTableWrite part granule v T) := by
  unfold execRouteTableWrite
  dsimp only
  repeat'
    first
    | with_reducible first | exact h | apply out_next | apply kept_updPart
    | split

theorem kept_execSlcfgWrite {s T : State} {part : Nat} {slice : Nat} {v : Word} (h : s.Kept T) :
    OutKept s (execSlcfgWrite part slice v T) := by
  unfold execSlcfgWrite
  repeat'
    first
    | with_reducible first | exact h | apply out_next | apply kept_updPart
    | split

theorem kept_execSliceMapCommit {s T : State} {part : Nat} {v : Word} (h : s.Kept T) :
    OutKept s (execSliceMapCommit part v T) := by
  unfold execSliceMapCommit
  repeat'
    first
    | with_reducible first | exact h | apply out_next | apply kept_updPart | apply kept_startMap
    | split

theorem kept_execPartitionCreate {s T : State} {part : Nat} {lo hi : Word} (h : s.Kept T) :
    OutKept s (execPartitionCreate part lo hi T) := by
  unfold execPartitionCreate
  dsimp only
  split
  · exact out_next h
  · refine out_next (kept_updPart ?_)
    simp only [kept_mk_iff]
    exact kept_memory (kept_updPart (kept_updPart h)) (fun w => wf_filter _ w)

theorem kept_execPartitionDelete {s T : State} {part : Nat} {lo : Word} (h : s.Kept T) :
    OutKept s (execPartitionDelete part lo T) := by
  unfold execPartitionDelete
  repeat'
    first
    | with_reducible first | exact h | (simp only [kept_mk_iff]; apply kept_same) | apply out_next | apply kept_clearL2
    | split

theorem kept_execBootgo {s T : State} {v : Word} (h : s.Kept T) :
    OutKept s (execBootgo v T) := by
  unfold execBootgo
  repeat'
    first
    | with_reducible first | exact h | (simp only [kept_mk_iff]; apply kept_same) | apply out_next
    | split

theorem kept_execMsixUnmask {s T : State} {vec : Nat} (h : s.Kept T) :
    OutKept s (execMsixUnmask vec T) := by
  unfold execMsixUnmask
  repeat'
    first
    | with_reducible first | exact h | (simp only [kept_mk_iff]; apply kept_same) | apply out_next | apply kept_send
    | split

theorem kept_stage {s T : State} {at_ : Nat} {size : Nat} {v : Word} (h : s.Kept T) :
    s.Kept (State.stage T at_ size v) := by
  unfold State.stage
  repeat'
    first
    | with_reducible first | exact h | (simp only [kept_mk_iff]; apply kept_same)
    | split

theorem kept_writeWindow {s T : State} {part off : Nat} {manager : Bool} {v : Word} (h : s.Kept T) :
    OutKept s (writeWindow part off manager v T) := by
  unfold writeWindow
  refine kept_out_ite (out_next h) (kept_out_ite (kept_execLaunch h) (kept_out_ite (kept_out_ite (kept_execPreempt h) (kept_execResume h))
    (kept_out_ite (kept_execStatusFree h) (kept_out_ite ?_ (kept_out_ite (kept_execErrstsClear h) (kept_out_ite (out_next h)
    (kept_out_ite (kept_execRouteTableWrite h) (kept_out_ite (kept_execSlcfgWrite h) (kept_out_ite (out_next (kept_updPart h))
    (kept_out_ite (kept_execSliceMapCommit h) (out_next h)))))))))))
  split
  · exact kept_execDvinvPage h
  · exact kept_execDvinvLaunch h
  · exact kept_execDvinvPartition h

theorem kept_writeManager {s T : State} {off : Nat} {v : Word} (h : s.Kept T) :
    OutKept s (writeManager off v T) := by
  unfold writeManager
  repeat'
    first
    | with_reducible first | exact h | (simp only [kept_mk_iff]; apply kept_same) | apply out_next | apply kept_execBootgo
                                  | apply kept_execPartitionCreate | apply kept_execPartitionDelete
    | split

theorem kept_execRegisterWrite {s T : State} {bar : Nat} {off : Nat} {d : RegData} (h : s.Kept T) :
    OutKept s (execRegisterWrite bar off d T) := by
  unfold execRegisterWrite
  repeat'
    first
    | with_reducible first | exact h | apply out_next | apply kept_stage | apply kept_writeWindow | apply kept_writeManager
    | split

theorem kept_execUioRequest {s T : State} {req : UioReq} (h : s.Kept T) :
    OutKept s (execUioRequest req T) := by
  unfold execUioRequest
  dsimp only
  repeat'
    first
    | with_reducible first | exact h | apply out_next | apply kept_send | apply kept_put | apply kept_firePlan
                                  | (apply of_opt; assumption)
    | split

theorem kept_execTranslationCompletion {s T : State} {pasid : Nat} {page : Nat} {rd : Bool} {wr : Bool} (h : s.Kept T) :
    OutKept s (execTranslationCompletion pasid page rd wr T) := by
  unfold execTranslationCompletion
  repeat'
    first
    | with_reducible first | exact h | (simp only [kept_mk_iff]; apply kept_same) | apply out_next | apply kept_sendPageReq
    | split

theorem kept_execPageGroupResponse {s T : State} {pasid : Nat} {page : Nat} {ok : Bool} (h : s.Kept T) :
    OutKept s (execPageGroupResponse pasid page ok T) := by
  unfold execPageGroupResponse
  repeat'
    first
    | with_reducible first | exact h | (simp only [kept_mk_iff]; apply kept_same) | apply out_next | apply kept_sendPageReq
                                  | apply kept_send | apply kept_failHost
    | split

theorem kept_execAtsInvalidateRequest {s T : State} {pasid : Nat} {page : Nat} (h : s.Kept T) :
    OutKept s (execAtsInvalidateRequest pasid page T) := by
  unfold execAtsInvalidateRequest
  repeat' with_reducible first | exact h | (simp only [kept_mk_iff]; apply kept_same) | apply out_next | apply kept_send

theorem kept_execGetVersion {s T : State} (h : s.Kept T) :
    OutKept s (execGetVersion T) := by
  unfold execGetVersion
  repeat' with_reducible first | exact h | (simp only [kept_mk_iff]; apply kept_same) | apply out_next | apply kept_answer

theorem kept_execGetCapabilities {s T : State} (h : s.Kept T) :
    OutKept s (execGetCapabilities T) := by
  unfold execGetCapabilities
  repeat' with_reducible first | exact h | apply out_next | apply kept_answer

theorem kept_execNegotiateAlgorithms {s T : State} (h : s.Kept T) :
    OutKept s (execNegotiateAlgorithms T) := by
  unfold execNegotiateAlgorithms
  repeat' with_reducible first | exact h | apply out_next | apply kept_answer

theorem kept_execGetDigests {s T : State} (h : s.Kept T) :
    OutKept s (execGetDigests T) := by
  unfold execGetDigests
  repeat' with_reducible first | exact h | apply out_next | apply kept_answer

theorem kept_execGetCertificate {s T : State} (h : s.Kept T) :
    OutKept s (execGetCertificate T) := by
  unfold execGetCertificate
  repeat' with_reducible first | exact h | apply out_next | apply kept_answer

theorem kept_execChallenge {s T : State} {nonce : Nat} (h : s.Kept T) :
    OutKept s (execChallenge nonce T) := by
  unfold execChallenge
  repeat' with_reducible first | exact h | apply out_next | apply kept_answer

theorem kept_execGetMeasurements {s T : State} {index : Nat} (h : s.Kept T) :
    OutKept s (execGetMeasurements index T) := by
  unfold execGetMeasurements
  repeat' with_reducible first | exact h | apply out_next | apply kept_answer

theorem kept_execPortDown {s T : State} {port : Nat} (h : s.Kept T) :
    OutKept s (execPortDown port T) := by
  unfold execPortDown
  repeat'
    first
    | with_reducible first | exact h | (simp only [kept_mk_iff]; apply kept_same) | apply out_next | apply kept_updateAllCaps
    | split

theorem kept_execPortUp {s T : State} {port : Nat} {x16 : Bool} {fast : Bool} (h : s.Kept T) :
    OutKept s (execPortUp port x16 fast T) := by
  unfold execPortUp
  dsimp only
  repeat'
    first
    | with_reducible first | exact h | (simp only [kept_mk_iff]; apply kept_same) | apply out_next | apply kept_updateAllCaps
    | split

theorem kept_execThermalAlarm {s T : State} {bins : List (Nat × Nat)} (h : s.Kept T) :
    OutKept s (execThermalAlarm bins T) := by
  unfold execThermalAlarm
  repeat' with_reducible first | exact h | apply out_next | apply kept_setErr | apply kept_replan | apply kept_foldl | intro _

theorem kept_execMarginAlarm {s T : State} {unit : Nat} {bins : List (Nat × Nat)} (h : s.Kept T) :
    OutKept s (execMarginAlarm unit bins T) := by
  unfold execMarginAlarm
  repeat'
    first
    | with_reducible first | exact h | (simp only [kept_mk_iff]; apply kept_same) | apply out_next | apply kept_replan
    | split

theorem kept_execUncorrectableError {s T : State} {e : ErrAt} (h : s.Kept T) :
    OutKept s (execUncorrectableError e T) := by
  unfold execUncorrectableError
  repeat'
    first
    | with_reducible first | exact h | apply out_next | apply kept_handleError | apply kept_countError
    | split

theorem kept_execCorrectedError {s T : State} {core : Nat} {array : Nat} (h : s.Kept T) :
    OutKept s (execCorrectedError core array T) := by
  unfold execCorrectedError
  repeat' with_reducible first | exact h | apply out_next | apply kept_updCore

theorem kept_execPageTableWalk {s T : State} {core : Nat} {part : Nat} {slot : Nat} {dva : Word} {write : Bool} (h : s.Kept T) :
    OutKept s (execPageTableWalk core part slot dva write T) := by
  unfold execPageTableWalk
  repeat'
    first
    | with_reducible first | exact h | apply out_next | apply kept_walk | apply kept_tlbFill | (apply of_exc2; assumption)
    | split

theorem kept_execSttMiss {s T : State} {core : Nat} {part : Nat} {slot : Nat} {page : Nat} {write : Bool} (h : s.Kept T) :
    OutKept s (execSttMiss core part slot page write T) := by
  unfold execSttMiss
  dsimp only
  repeat'
    first
    | with_reducible first | exact h | apply out_next | apply kept_walkDir | (apply of_page_ok; assumption)
                                  | (apply of_page_wait; assumption)
    | split

theorem kept_execStreamFault {s T : State} {core : Nat} {eng : Nat} (h : s.Kept T) :
    OutKept s (execStreamFault core eng T) := by
  unfold execStreamFault
  dsimp only
  repeat'
    first
    | with_reducible first | exact h | apply out_next | apply kept_getBurst | apply kept_faultEngine
                                  | (apply of_got_fault; assumption)
    | split

theorem kept_execWfeTimeout {s T : State} {core : Nat} {ctx : Nat} (h : s.Kept T) :
    OutKept s (execWfeTimeout core ctx T) := by
  unfold execWfeTimeout
  dsimp only
  repeat'
    first
    | with_reducible first | exact h | apply out_next | apply kept_updCtx
    | split

theorem kept_kneadRow {s T : State} {slot : Nat} {k : Knead} {result : List Word} (h : s.Kept T) :
    s.Kept (State.kneadRow T slot k result) := by
  unfold State.kneadRow
  repeat' with_reducible first | exact h | (simp only [kept_mk_iff]; apply kept_same)

theorem kept_retrySaved {s T : State} (h : s.Kept T) :
    s.Kept (State.retrySaved T) := by
  unfold State.retrySaved
  dsimp only
  repeat'
    first
    | with_reducible first | assumption | apply kept_abandonSaved | apply kept_foldl | intro _
    | split

theorem kept_peerDrop {s T : State} {key : Nat} (h : s.Kept T) :
    s.Kept (State.peerDrop T key) := by
  unfold State.peerDrop
  repeat'
    first
    | with_reducible first | exact h | (simp only [kept_mk_iff]; apply kept_same)
    | split

theorem kept_retryMem {s T : State} {k : Nat} (h : s.Kept T) :
    s.Kept (State.retryMem T k) := by
  unfold State.retryMem
  repeat'
    first
    | with_reducible first | exact h | apply kept_performMem
    | split

end Sys2Proof.Machine
end

