-- ==== Sys2Proof/Laws/Exec.lean ====
section
/-! SUPPORT. Every instruction keeps the canonical form of the memories, and each but a reset leaves the agenda and the
inputs as they are. -/

namespace Sys2Proof.Machine
open Sys2Proof

theorem kept_exec {s T : State} {i : Instr} (hi : i ≠ .reset) (h : s.Kept T) : OutKept s (exec i T) := by
  cases i with
  | add _ _ _ _ _ => exact kept_execAdd h
  | sub _ _ _ _ _ => exact kept_execSub h
  | mul _ _ _ _ _ => exact kept_execMul h
  | mulh _ _ _ _ _ => exact kept_execMulh h
  | mulhz _ _ _ _ _ => exact kept_execMulhz h
  | div _ _ _ _ _ => exact kept_execDiv h
  | divz _ _ _ _ _ => exact kept_execDivz h
  | rem _ _ _ _ _ => exact kept_execRem h
  | remz _ _ _ _ _ => exact kept_execRemz h
  | and _ _ _ _ _ => exact kept_execAnd h
  | or _ _ _ _ _ => exact kept_execOr h
  | xor _ _ _ _ _ => exact kept_execXor h
  | shl _ _ _ _ _ => exact kept_execShl h
  | shr _ _ _ _ _ => exact kept_execShr h
  | sar _ _ _ _ _ => exact kept_execSar h
  | min _ _ _ _ _ => exact kept_execMin h
  | max _ _ _ _ _ => exact kept_execMax h
  | abs _ _ _ _ => exact kept_execAbs h
  | clz _ _ _ _ => exact kept_execClz h
  | popc _ _ _ _ => exact kept_execPopc h
  | sext _ _ _ _ _ => exact kept_execSext h
  | zext _ _ _ _ _ => exact kept_execZext h
  | sel _ _ _ _ _ => exact kept_execSel h
  | addi _ _ _ _ => exact kept_execAddi h
  | andi _ _ _ _ => exact kept_execAndi h
  | ori _ _ _ _ => exact kept_execOri h
  | xori _ _ _ _ => exact kept_execXori h
  | shli _ _ _ _ => exact kept_execShli h
  | shri _ _ _ _ => exact kept_execShri h
  | sari _ _ _ _ => exact kept_execSari h
  | ldi _ _ _ => exact kept_execLdi h
  | ldiHi _ _ _ => exact kept_execLdiHi h
  | cmp _ _ _ _ _ _ => exact kept_execCmp h
  | cmpi _ _ _ _ _ => exact kept_execCmpi h
  | fcmp _ _ _ _ _ => exact kept_execFcmp h
  | pand _ _ _ _ => exact kept_execPand h
  | por _ _ _ _ => exact kept_execPor h
  | pxor _ _ _ _ => exact kept_execPxor h
  | pnot _ _ _ => exact kept_execPnot h
  | fadd _ _ _ _ => exact kept_execFadd h
  | fsub _ _ _ _ => exact kept_execFsub h
  | fmul _ _ _ _ => exact kept_execFmul h
  | fma _ _ _ _ => exact kept_execFma h
  | fmin _ _ _ _ => exact kept_execFmin h
  | fmax _ _ _ _ => exact kept_execFmax h
  | fabs _ _ _ => exact kept_execFabs h
  | fneg _ _ _ => exact kept_execFneg h
  | fdiv _ _ _ _ => exact kept_execFdiv h
  | fsqrt _ _ _ => exact kept_execFsqrt h
  | fexp2 _ _ _ => exact kept_execFexp2 h
  | flog2 _ _ _ => exact kept_execFlog2 h
  | frcp _ _ _ => exact kept_execFrcp h
  | fcvt _ _ _ _ _ _ _ => exact kept_execFcvt h
  | ftoi _ _ _ _ _ _ => exact kept_execFtoi h
  | itof _ _ _ _ _ => exact kept_execItof h
  | nop _ => exact kept_execNop h
  | br _ _ => exact kept_execBr h
  | brl _ _ => exact kept_execBrl h
  | jmp _ _ _ => exact kept_execJmp h
  | jmpl _ _ _ _ => exact kept_execJmpl h
  | loop _ _ _ => exact kept_execLoop h
  | ld _ _ _ _ _ => exact kept_execLd h
  | ldz _ _ _ _ _ => exact kept_execLdz h
  | st _ _ _ _ _ => exact kept_execSt h
  | ldx _ _ _ _ _ _ _ => exact kept_execLdx h
  | stx _ _ _ _ _ _ => exact kept_execStx h
  | prf _ _ _ _ => exact kept_execPrf h
  | cln _ _ _ => exact kept_execCln h
  | fnc _ kind scope => exact kept_execFnc (_kind := kind) (_scope := scope) h
  | aadd _ _ _ _ _ => exact kept_execAadd h
  | amin _ _ _ _ _ => exact kept_execAmin h
  | amax _ _ _ _ _ => exact kept_execAmax h
  | aand _ _ _ _ _ => exact kept_execAand h
  | aor _ _ _ _ _ => exact kept_execAor h
  | axch _ _ _ _ _ => exact kept_execAxch h
  | acas _ _ _ _ _ => exact kept_execAcas h
  | afadd _ _ _ _ _ => exact kept_execAfadd h
  | bari _ _ _ => exact kept_execBari h
  | bara _ _ _ => exact kept_execBara h
  | barw _ _ _ => exact kept_execBarw h
  | barq _ _ _ => exact kept_execBarq h
  | gets _ _ _ => exact kept_execGets h
  | sets _ _ _ => exact kept_execSets h
  | sysc _ _ => exact kept_execSysc h
  | eret _ => exact kept_execEret h
  | eretNext _ => exact kept_execEretNext h
  | trap _ _ => exact kept_execTrap h
  | wfe _ _ _ => exact kept_execWfe h
  | yield _ _ => exact kept_execYield h
  | talloc _ _ _ _ _ _ => exact kept_execTalloc h
  | tview _ _ _ _ => exact kept_execTview h
  | tld _ _ _ _ _ _ _ => exact kept_execTld h
  | tst _ _ _ _ _ _ => exact kept_execTst h
  | tshape _ _ _ => exact kept_execTshape h
  | tstate _ _ _ => exact kept_execTstate h
  | twait _ _ => exact kept_execTwait h
  | tseal _ _ => exact kept_execTseal h
  | ttouch _ _ => exact kept_execTtouch h
  | tadvKeep _ _ => exact kept_execTadvKeep h
  | tadvSpill _ _ => exact kept_execTadvSpill h
  | tpin _ _ => exact kept_execTpin h
  | tpinUn _ _ => exact kept_execTpinUn h
  | tdrop _ _ => exact kept_execTdrop h
  | xspan _ _ _ => exact kept_execXspan h
  | xlen _ _ _ => exact kept_execXlen h
  | xkind _ _ _ => exact kept_execXkind h
  | xarg _ _ _ => exact kept_execXarg h
  | xargH _ _ _ => exact kept_execXargH h
  | xcopy _ _ _ => exact kept_execXcopy h
  | xemit _ _ => exact kept_execXemit h
  | xemitt _ _ => exact kept_execXemitt h
  | xopen _ => exact kept_execXopen h
  | xclose _ => exact kept_execXclose h
  | xcloseApp _ => exact kept_execXcloseApp h
  | xapply _ _ _ => exact kept_execXapply h
  | commit _ => exact kept_execCommit h
  | abort _ => exact kept_execAbort h
  | xfail _ _ => exact kept_execXfail h
  | trbc _ _ _ _ => exact kept_execTrbc h
  | trbcH _ _ _ _ => exact kept_execTrbcH h
  | trred _ _ _ _ _ => exact kept_execTrred h
  | trgath _ _ _ => exact kept_execTrgath h
  | trbar _ => exact kept_execTrbar h
  | cplan _ _ _ => exact kept_execCplan h
  | cfire _ _ => exact kept_execCfire h
  | cwait _ _ _ _ => exact kept_execCwait h
  | cdrop _ _ => exact kept_execCdrop h
  | csendS _ _ _ => exact kept_execCsendS h
  | csendR _ _ _ => exact kept_execCsendR h
  | sagen _ _ _ => exact kept_execSagen h
  | sagenTile _ _ _ _ => exact kept_execSagenTile h
  | sagenPantry _ _ _ => exact kept_execSagenPantry h
  | sgo _ _ => exact kept_execSgo h
  | shalt _ _ => exact kept_execShalt h
  | shaltPush _ _ => exact kept_execShaltPush h
  | swait _ _ scope => exact kept_execSwait (_scope := scope) h
  | scnt _ _ _ => exact kept_execScnt h
  | smcast _ _ _ => exact kept_execSmcast h
  | sbind _ _ _ _ => exact kept_execSbind h
  | sbindHost _ _ => exact kept_execSbindHost h
  | gload _ _ _ => exact kept_execGload h
  | gloadPantry _ _ _ => exact kept_execGloadPantry h
  | gpatch _ _ _ => exact kept_execGpatch h
  | gpatchPantry _ _ _ => exact kept_execGpatchPantry h
  | gproof _ _ => exact kept_execGproof h
  | gseed _ _ _ _ => exact kept_execGseed h
  | gdrain _ _ => exact kept_execGdrain h
  | gdrainOpen _ _ => exact kept_execGdrainOpen h
  | gwait _ _ => exact kept_execGwait h
  | gwaitIdle _ _ => exact kept_execGwaitIdle h
  | gkill _ _ => exact kept_execGkill h
  | gsave _ _ _ => exact kept_execGsave h
  | gstall _ _ _ => exact kept_execGstall h
  | gstallFlags _ _ _ => exact kept_execGstallFlags h
  | eNop => exact kept_execENop h
  | eAdd _ => exact kept_execEAdd h
  | eSub _ => exact kept_execESub h
  | eMul _ => exact kept_execEMul h
  | eMulh _ => exact kept_execEMulh h
  | eAnd _ => exact kept_execEAnd h
  | eOr _ => exact kept_execEOr h
  | eXor _ => exact kept_execEXor h
  | eShl _ => exact kept_execEShl h
  | eShr _ => exact kept_execEShr h
  | eSar _ => exact kept_execESar h
  | eMin _ => exact kept_execEMin h
  | eMax _ => exact kept_execEMax h
  | eCmp _ => exact kept_execECmp h
  | eSel _ => exact kept_execESel h
  | eMov _ => exact kept_execEMov h
  | eConst _ => exact kept_execEConst h
  | eCnt _ => exact kept_execECnt h
  | eAcc _ => exact kept_execEAcc h
  | eFadd _ => exact kept_execEFadd h
  | eFsub _ => exact kept_execEFsub h
  | eFmul _ => exact kept_execEFmul h
  | eFfma _ => exact kept_execEFfma h
  | eFmin _ => exact kept_execEFmin h
  | eFmax _ => exact kept_execEFmax h
  | eFcmp _ => exact kept_execEFcmp h
  | eFacc _ => exact kept_execEFacc h
  | eCvt _ => exact kept_execECvt h
  | eExp2 _ => exact kept_execEExp2 h
  | eLog2 _ => exact kept_execELog2 h
  | eRcp _ => exact kept_execERcp h
  | eRsq _ => exact kept_execERsq h
  | eLd _ => exact kept_execELd h
  | eSt _ => exact kept_execESt h
  | eLdl _ => exact kept_execELdl h
  | eOrdf _ => exact kept_execEOrdf h
  | eOrdj _ => exact kept_execEOrdj h
  | eSteer _ => exact kept_execESteer h
  | eMerge _ => exact kept_execEMerge h
  | eTagchk _ => exact kept_execETagchk h
  | eSink _ => exact kept_execESink h
  | tMma _ => exact kept_execTMma h
  | tMclr _ => exact kept_execTMclr h
  | tMdrain _ => exact kept_execTMdrain h
  | tMscale _ => exact kept_execTMscale h
  | tAccrd _ => exact kept_execTAccrd h
  | tDeq _ => exact kept_execTDeq h
  | tEnq _ => exact kept_execTEnq h
  | tPset _ => exact kept_execTPset h
  | tPclr _ => exact kept_execTPclr h
  | tSig _ => exact kept_execTSig h
  | tSeed _ => exact kept_execTSeed h
  | tTagset _ => exact kept_execTTagset h
  | tCnt _ => exact kept_execTCnt h
  | tMov _ => exact kept_execTMov h
  | tCmp _ => exact kept_execTCmp h
  | tHalt _ => exact kept_execTHalt h
  | launchLoad _ _ => exact kept_execLaunchLoad h
  | preemptComplete _ => exact kept_execPreemptComplete h
  | dvinvComplete _ => exact kept_execDvinvComplete h
  | mapChangeComplete _ => exact kept_execMapChangeComplete h
  | firmwareCheck => exact kept_execFirmwareCheck h
  | priTimeout _ _ => exact kept_execPriTimeout h
  | marginPlanTimer _ => exact kept_execMarginPlanTimer h
  | fenceCore _ => exact kept_execFenceCore h
  | fenceSlice _ => exact kept_execFenceSlice h
  | discoveryPass _ => exact kept_execDiscoveryPass h
  | placeGang _ _ _ => exact kept_execPlaceGang h
  | operatorLoad _ _ _ _ => exact kept_execOperatorLoad h
  | contextStart _ _ => exact kept_execContextStart h
  | steal _ _ _ _ => exact kept_execSteal h
  | commitStep _ => exact kept_execCommitStep h
  | dvaRetry _ _ _ => exact kept_execDvaRetry h
  | pageArrival _ _ _ _ => exact kept_execPageArrival h
  | faultLimitExpiry _ _ => exact kept_execFaultLimitExpiry h
  | secondChanceClock _ => exact kept_execSecondChanceClock h
  | streamBurst _ _ => exact kept_execStreamBurst h
  | streamComplete _ _ => exact kept_execStreamComplete h
  | pushUnit _ => exact kept_execPushUnit h
  | spaceToken _ _ => exact kept_execSpaceToken h
  | proofWave _ _ => exact kept_execProofWave h
  | islandTask _ _ => exact kept_execIslandTask h
  | scaleToken _ _ => exact kept_execScaleToken h
  | planRunComplete _ _ => exact kept_execPlanRunComplete h
  | csendCopyDone _ _ _ _ => exact kept_execCsendCopyDone h
  | yieldExpiry _ _ => exact kept_execYieldExpiry h
  | monitorEndCall _ _ _ => exact kept_execMonitorEndCall h
  | illegalEncoding _ => exact kept_execIllegalEncoding h
  | writeOutEnd _ _ _ => exact kept_execWriteOutEnd h
  | planJoin _ _ => exact kept_execPlanJoin h
  | launch _ _ => exact kept_execLaunch h
  | preempt _ _ => exact kept_execPreempt h
  | resume _ _ => exact kept_execResume h
  | statusFree _ _ _ => exact kept_execStatusFree h
  | dvinvPage _ _ => exact kept_execDvinvPage h
  | dvinvLaunch _ _ => exact kept_execDvinvLaunch h
  | dvinvPartition _ _ => exact kept_execDvinvPartition h
  | errstsClear _ _ => exact kept_execErrstsClear h
  | routeTableWrite _ _ _ => exact kept_execRouteTableWrite h
  | slcfgWrite _ _ _ => exact kept_execSlcfgWrite h
  | sliceMapCommit _ _ => exact kept_execSliceMapCommit h
  | partitionCreate _ _ _ => exact kept_execPartitionCreate h
  | partitionDelete _ _ => exact kept_execPartitionDelete h
  | bootgo _ => exact kept_execBootgo h
  | msixUnmask _ => exact kept_execMsixUnmask h
  | registerWrite _ _ _ => exact kept_execRegisterWrite h
  | reset => exact absurd rfl hi
  | uioRequest _ => exact kept_execUioRequest h
  | translationCompletion _ _ _ _ => exact kept_execTranslationCompletion h
  | pageGroupResponse _ _ _ => exact kept_execPageGroupResponse h
  | atsInvalidateRequest _ _ => exact kept_execAtsInvalidateRequest h
  | getVersion => exact kept_execGetVersion h
  | getCapabilities => exact kept_execGetCapabilities h
  | negotiateAlgorithms => exact kept_execNegotiateAlgorithms h
  | getDigests => exact kept_execGetDigests h
  | getCertificate => exact kept_execGetCertificate h
  | challenge _ => exact kept_execChallenge h
  | getMeasurements _ => exact kept_execGetMeasurements h
  | portDown _ => exact kept_execPortDown h
  | portUp _ _ _ => exact kept_execPortUp h
  | thermalAlarm _ => exact kept_execThermalAlarm h
  | marginAlarm _ _ => exact kept_execMarginAlarm h
  | uncorrectableError _ => exact kept_execUncorrectableError h
  | correctedError _ _ => exact kept_execCorrectedError h
  | pageTableWalk _ _ _ _ _ => exact kept_execPageTableWalk h
  | sttMiss _ _ _ _ _ => exact kept_execSttMiss h
  | streamFault _ _ => exact kept_execStreamFault h
  | wfeTimeout _ _ => exact kept_execWfeTimeout h

theorem memWf_execReset {s t : State} (w : s.memWf) (h : execReset s = .next t) : t.memWf := by
  cases h
  exact ⟨wf_filter _ w.1, w.2.1, rfl⟩

/-- Whatever an instruction does, the memories keep their canonical form. -/
theorem memWf_exec {s t : State} {i : Instr} (w : s.memWf) (h : exec i s = .next t) : t.memWf := by
  by_cases hi : i = .reset
  · subst hi
    exact memWf_execReset w h
  · exact (kept_exec hi (State.Kept.refl s) t h).mem w

end Sys2Proof.Machine
end

