-- ==== Sys2Proof/Laws/State.lean ====
section
/-! SUPPORT. What each update of the state changes: one lemma per field and update; a record after a write of it; the
registers of a context. -/

namespace Sys2Proof.Machine
open Sys2Proof

/-! ### setCtx -/

@[simp] theorem State.setCtx_dev (s : State) (k : Nat) (x : Ctx) : (s.setCtx k x).dev = s.dev := rfl
@[simp] theorem State.setCtx_parts (s : State) (k : Nat) (x : Ctx) : (s.setCtx k x).parts = s.parts := rfl
@[simp] theorem State.setCtx_launches (s : State) (k : Nat) (x : Ctx) : (s.setCtx k x).launches = s.launches := rfl
@[simp] theorem State.setCtx_mem (s : State) (k : Nat) (x : Ctx) : (s.setCtx k x).mem = s.mem := rfl
@[simp] theorem State.setCtx_poison (s : State) (k : Nat) (x : Ctx) : (s.setCtx k x).poison = s.poison := rfl
@[simp] theorem State.setCtx_host (s : State) (k : Nat) (x : Ctx) : (s.setCtx k x).host = s.host := rfl
@[simp] theorem State.setCtx_row (s : State) (k : Nat) (x : Ctx) : (s.setCtx k x).row = s.row := rfl
@[simp] theorem State.setCtx_ras (s : State) (k : Nat) (x : Ctx) : (s.setCtx k x).ras = s.ras := rfl
@[simp] theorem State.setCtx_nextRa (s : State) (k : Nat) (x : Ctx) : (s.setCtx k x).nextRa = s.nextRa := rfl
@[simp] theorem State.setCtx_gangs (s : State) (k : Nat) (x : Ctx) : (s.setCtx k x).gangs = s.gangs := rfl
@[simp] theorem State.setCtx_saved (s : State) (k : Nat) (x : Ctx) : (s.setCtx k x).saved = s.saved := rfl
@[simp] theorem State.setCtx_cores (s : State) (k : Nat) (x : Ctx) : (s.setCtx k x).cores = s.cores := rfl
@[simp] theorem State.setCtx_bars (s : State) (k : Nat) (x : Ctx) : (s.setCtx k x).bars = s.bars := rfl
@[simp] theorem State.setCtx_plans (s : State) (k : Nat) (x : Ctx) : (s.setCtx k x).plans = s.plans := rfl
@[simp] theorem State.setCtx_dir (s : State) (k : Nat) (x : Ctx) : (s.setCtx k x).dir = s.dir := rfl
@[simp] theorem State.setCtx_tiles (s : State) (k : Nat) (x : Ctx) : (s.setCtx k x).tiles = s.tiles := rfl
@[simp] theorem State.setCtx_stt (s : State) (k : Nat) (x : Ctx) : (s.setCtx k x).stt = s.stt := rfl
@[simp] theorem State.setCtx_frames (s : State) (k : Nat) (x : Ctx) : (s.setCtx k x).frames = s.frames := rfl
@[simp] theorem State.setCtx_spills (s : State) (k : Nat) (x : Ctx) : (s.setCtx k x).spills = s.spills := rfl
@[simp] theorem State.setCtx_spillNo (s : State) (k : Nat) (x : Ctx) : (s.setCtx k x).spillNo = s.spillNo := rfl
@[simp] theorem State.setCtx_xfers (s : State) (k : Nat) (x : Ctx) : (s.setCtx k x).xfers = s.xfers := rfl
@[simp] theorem State.setCtx_tlb (s : State) (k : Nat) (x : Ctx) : (s.setCtx k x).tlb = s.tlb := rfl
@[simp] theorem State.setCtx_cfg (s : State) (k : Nat) (x : Ctx) : (s.setCtx k x).cfg = s.cfg := rfl
@[simp] theorem State.setCtx_ptc (s : State) (k : Nat) (x : Ctx) : (s.setCtx k x).ptc = s.ptc := rfl
@[simp] theorem State.setCtx_l1d (s : State) (k : Nat) (x : Ctx) : (s.setCtx k x).l1d = s.l1d := rfl
@[simp] theorem State.setCtx_owners (s : State) (k : Nat) (x : Ctx) : (s.setCtx k x).owners = s.owners := rfl
@[simp] theorem State.setCtx_l2 (s : State) (k : Nat) (x : Ctx) : (s.setCtx k x).l2 = s.l2 := rfl
@[simp] theorem State.setCtx_engines (s : State) (k : Nat) (x : Ctx) : (s.setCtx k x).engines = s.engines := rfl
@[simp] theorem State.setCtx_exits (s : State) (k : Nat) (x : Ctx) : (s.setCtx k x).exits = s.exits := rfl
@[simp] theorem State.setCtx_inPorts (s : State) (k : Nat) (x : Ctx) : (s.setCtx k x).inPorts = s.inPorts := rfl
@[simp] theorem State.setCtx_pushes (s : State) (k : Nat) (x : Ctx) : (s.setCtx k x).pushes = s.pushes := rfl
@[simp] theorem State.setCtx_images (s : State) (k : Nat) (x : Ctx) : (s.setCtx k x).images = s.images := rfl
@[simp] theorem State.setCtx_elems (s : State) (k : Nat) (x : Ctx) : (s.setCtx k x).elems = s.elems := rfl
@[simp] theorem State.setCtx_scales (s : State) (k : Nat) (x : Ctx) : (s.setCtx k x).scales = s.scales := rfl
@[simp] theorem State.setCtx_islands (s : State) (k : Nat) (x : Ctx) : (s.setCtx k x).islands = s.islands := rfl
@[simp] theorem State.setCtx_inputs (s : State) (k : Nat) (x : Ctx) : (s.setCtx k x).inputs = s.inputs := rfl
@[simp] theorem State.setCtx_clock (s : State) (k : Nat) (x : Ctx) : (s.setCtx k x).clock = s.clock := rfl
@[simp] theorem State.setCtx_agenda (s : State) (k : Nat) (x : Ctx) : (s.setCtx k x).agenda = s.agenda := rfl
@[simp] theorem State.setCtx_focus (s : State) (k : Nat) (x : Ctx) : (s.setCtx k x).focus = s.focus := rfl
@[simp] theorem State.setCtx_freeCtr (s : State) (k : Nat) (x : Ctx) : (s.setCtx k x).freeCtr = s.freeCtr := rfl
@[simp] theorem State.setCtx_gang (s : State) (k : Nat) (x : Ctx) (i : Nat) : (s.setCtx k x).gang i = s.gang i := rfl
@[simp] theorem State.setCtx_launch (s : State) (k : Nat) (x : Ctx) (i : Nat) : (s.setCtx k x).launch i = s.launch i := rfl
@[simp] theorem State.setCtx_part (s : State) (k : Nat) (x : Ctx) (i : Nat) : (s.setCtx k x).part i = s.part i := rfl
@[simp] theorem State.setCtx_core (s : State) (k : Nat) (x : Ctx) (i : Nat) : (s.setCtx k x).core i = s.core i := rfl
@[simp] theorem State.setCtx_elem (s : State) (k : Nat) (x : Ctx) (i : Nat) : (s.setCtx k x).elem i = s.elem i := rfl
@[simp] theorem State.setCtx_engine (s : State) (k : Nat) (x : Ctx) (i : Nat) : (s.setCtx k x).engine i = s.engine i := rfl
@[simp] theorem State.setCtx_ra (s : State) (k : Nat) (x : Ctx) (i : Nat) : (s.setCtx k x).ra i = s.ra i := rfl
@[simp] theorem State.setCtx_dirE (s : State) (k : Nat) (x : Ctx) (i : Nat) : (s.setCtx k x).dirE i = s.dirE i := rfl
@[simp] theorem State.setCtx_island (s : State) (k : Nat) (x : Ctx) (i : Nat) : (s.setCtx k x).island i = s.island i := rfl

/-! ### updCtx -/

@[simp] theorem State.updCtx_dev (s : State) (k : Nat) (f : Ctx → Ctx) : (s.updCtx k f).dev = s.dev := rfl
@[simp] theorem State.updCtx_parts (s : State) (k : Nat) (f : Ctx → Ctx) : (s.updCtx k f).parts = s.parts := rfl
@[simp] theorem State.updCtx_launches (s : State) (k : Nat) (f : Ctx → Ctx) : (s.updCtx k f).launches = s.launches := rfl
@[simp] theorem State.updCtx_mem (s : State) (k : Nat) (f : Ctx → Ctx) : (s.updCtx k f).mem = s.mem := rfl
@[simp] theorem State.updCtx_poison (s : State) (k : Nat) (f : Ctx → Ctx) : (s.updCtx k f).poison = s.poison := rfl
@[simp] theorem State.updCtx_host (s : State) (k : Nat) (f : Ctx → Ctx) : (s.updCtx k f).host = s.host := rfl
@[simp] theorem State.updCtx_row (s : State) (k : Nat) (f : Ctx → Ctx) : (s.updCtx k f).row = s.row := rfl
@[simp] theorem State.updCtx_ras (s : State) (k : Nat) (f : Ctx → Ctx) : (s.updCtx k f).ras = s.ras := rfl
@[simp] theorem State.updCtx_nextRa (s : State) (k : Nat) (f : Ctx → Ctx) : (s.updCtx k f).nextRa = s.nextRa := rfl
@[simp] theorem State.updCtx_gangs (s : State) (k : Nat) (f : Ctx → Ctx) : (s.updCtx k f).gangs = s.gangs := rfl
@[simp] theorem State.updCtx_saved (s : State) (k : Nat) (f : Ctx → Ctx) : (s.updCtx k f).saved = s.saved := rfl
@[simp] theorem State.updCtx_cores (s : State) (k : Nat) (f : Ctx → Ctx) : (s.updCtx k f).cores = s.cores := rfl
@[simp] theorem State.updCtx_bars (s : State) (k : Nat) (f : Ctx → Ctx) : (s.updCtx k f).bars = s.bars := rfl
@[simp] theorem State.updCtx_plans (s : State) (k : Nat) (f : Ctx → Ctx) : (s.updCtx k f).plans = s.plans := rfl
@[simp] theorem State.updCtx_dir (s : State) (k : Nat) (f : Ctx → Ctx) : (s.updCtx k f).dir = s.dir := rfl
@[simp] theorem State.updCtx_tiles (s : State) (k : Nat) (f : Ctx → Ctx) : (s.updCtx k f).tiles = s.tiles := rfl
@[simp] theorem State.updCtx_stt (s : State) (k : Nat) (f : Ctx → Ctx) : (s.updCtx k f).stt = s.stt := rfl
@[simp] theorem State.updCtx_frames (s : State) (k : Nat) (f : Ctx → Ctx) : (s.updCtx k f).frames = s.frames := rfl
@[simp] theorem State.updCtx_spills (s : State) (k : Nat) (f : Ctx → Ctx) : (s.updCtx k f).spills = s.spills := rfl
@[simp] theorem State.updCtx_spillNo (s : State) (k : Nat) (f : Ctx → Ctx) : (s.updCtx k f).spillNo = s.spillNo := rfl
@[simp] theorem State.updCtx_xfers (s : State) (k : Nat) (f : Ctx → Ctx) : (s.updCtx k f).xfers = s.xfers := rfl
@[simp] theorem State.updCtx_tlb (s : State) (k : Nat) (f : Ctx → Ctx) : (s.updCtx k f).tlb = s.tlb := rfl
@[simp] theorem State.updCtx_cfg (s : State) (k : Nat) (f : Ctx → Ctx) : (s.updCtx k f).cfg = s.cfg := rfl
@[simp] theorem State.updCtx_ptc (s : State) (k : Nat) (f : Ctx → Ctx) : (s.updCtx k f).ptc = s.ptc := rfl
@[simp] theorem State.updCtx_l1d (s : State) (k : Nat) (f : Ctx → Ctx) : (s.updCtx k f).l1d = s.l1d := rfl
@[simp] theorem State.updCtx_owners (s : State) (k : Nat) (f : Ctx → Ctx) : (s.updCtx k f).owners = s.owners := rfl
@[simp] theorem State.updCtx_l2 (s : State) (k : Nat) (f : Ctx → Ctx) : (s.updCtx k f).l2 = s.l2 := rfl
@[simp] theorem State.updCtx_engines (s : State) (k : Nat) (f : Ctx → Ctx) : (s.updCtx k f).engines = s.engines := rfl
@[simp] theorem State.updCtx_exits (s : State) (k : Nat) (f : Ctx → Ctx) : (s.updCtx k f).exits = s.exits := rfl
@[simp] theorem State.updCtx_inPorts (s : State) (k : Nat) (f : Ctx → Ctx) : (s.updCtx k f).inPorts = s.inPorts := rfl
@[simp] theorem State.updCtx_pushes (s : State) (k : Nat) (f : Ctx → Ctx) : (s.updCtx k f).pushes = s.pushes := rfl
@[simp] theorem State.updCtx_images (s : State) (k : Nat) (f : Ctx → Ctx) : (s.updCtx k f).images = s.images := rfl
@[simp] theorem State.updCtx_elems (s : State) (k : Nat) (f : Ctx → Ctx) : (s.updCtx k f).elems = s.elems := rfl
@[simp] theorem State.updCtx_scales (s : State) (k : Nat) (f : Ctx → Ctx) : (s.updCtx k f).scales = s.scales := rfl
@[simp] theorem State.updCtx_islands (s : State) (k : Nat) (f : Ctx → Ctx) : (s.updCtx k f).islands = s.islands := rfl
@[simp] theorem State.updCtx_inputs (s : State) (k : Nat) (f : Ctx → Ctx) : (s.updCtx k f).inputs = s.inputs := rfl
@[simp] theorem State.updCtx_clock (s : State) (k : Nat) (f : Ctx → Ctx) : (s.updCtx k f).clock = s.clock := rfl
@[simp] theorem State.updCtx_agenda (s : State) (k : Nat) (f : Ctx → Ctx) : (s.updCtx k f).agenda = s.agenda := rfl
@[simp] theorem State.updCtx_focus (s : State) (k : Nat) (f : Ctx → Ctx) : (s.updCtx k f).focus = s.focus := rfl
@[simp] theorem State.updCtx_freeCtr (s : State) (k : Nat) (f : Ctx → Ctx) : (s.updCtx k f).freeCtr = s.freeCtr := rfl
@[simp] theorem State.updCtx_gang (s : State) (k : Nat) (f : Ctx → Ctx) (i : Nat) : (s.updCtx k f).gang i = s.gang i := rfl
@[simp] theorem State.updCtx_launch (s : State) (k : Nat) (f : Ctx → Ctx) (i : Nat) : (s.updCtx k f).launch i = s.launch i := rfl
@[simp] theorem State.updCtx_part (s : State) (k : Nat) (f : Ctx → Ctx) (i : Nat) : (s.updCtx k f).part i = s.part i := rfl
@[simp] theorem State.updCtx_core (s : State) (k : Nat) (f : Ctx → Ctx) (i : Nat) : (s.updCtx k f).core i = s.core i := rfl
@[simp] theorem State.updCtx_elem (s : State) (k : Nat) (f : Ctx → Ctx) (i : Nat) : (s.updCtx k f).elem i = s.elem i := rfl
@[simp] theorem State.updCtx_engine (s : State) (k : Nat) (f : Ctx → Ctx) (i : Nat) : (s.updCtx k f).engine i = s.engine i := rfl
@[simp] theorem State.updCtx_ra (s : State) (k : Nat) (f : Ctx → Ctx) (i : Nat) : (s.updCtx k f).ra i = s.ra i := rfl
@[simp] theorem State.updCtx_dirE (s : State) (k : Nat) (f : Ctx → Ctx) (i : Nat) : (s.updCtx k f).dirE i = s.dirE i := rfl
@[simp] theorem State.updCtx_island (s : State) (k : Nat) (f : Ctx → Ctx) (i : Nat) : (s.updCtx k f).island i = s.island i := rfl

/-! ### setGang -/

@[simp] theorem State.setGang_dev (s : State) (g : Nat) (x : Gang) : (s.setGang g x).dev = s.dev := rfl
@[simp] theorem State.setGang_parts (s : State) (g : Nat) (x : Gang) : (s.setGang g x).parts = s.parts := rfl
@[simp] theorem State.setGang_launches (s : State) (g : Nat) (x : Gang) : (s.setGang g x).launches = s.launches := rfl
@[simp] theorem State.setGang_mem (s : State) (g : Nat) (x : Gang) : (s.setGang g x).mem = s.mem := rfl
@[simp] theorem State.setGang_poison (s : State) (g : Nat) (x : Gang) : (s.setGang g x).poison = s.poison := rfl
@[simp] theorem State.setGang_host (s : State) (g : Nat) (x : Gang) : (s.setGang g x).host = s.host := rfl
@[simp] theorem State.setGang_row (s : State) (g : Nat) (x : Gang) : (s.setGang g x).row = s.row := rfl
@[simp] theorem State.setGang_ras (s : State) (g : Nat) (x : Gang) : (s.setGang g x).ras = s.ras := rfl
@[simp] theorem State.setGang_nextRa (s : State) (g : Nat) (x : Gang) : (s.setGang g x).nextRa = s.nextRa := rfl
@[simp] theorem State.setGang_saved (s : State) (g : Nat) (x : Gang) : (s.setGang g x).saved = s.saved := rfl
@[simp] theorem State.setGang_ctxs (s : State) (g : Nat) (x : Gang) : (s.setGang g x).ctxs = s.ctxs := rfl
@[simp] theorem State.setGang_cores (s : State) (g : Nat) (x : Gang) : (s.setGang g x).cores = s.cores := rfl
@[simp] theorem State.setGang_bars (s : State) (g : Nat) (x : Gang) : (s.setGang g x).bars = s.bars := rfl
@[simp] theorem State.setGang_plans (s : State) (g : Nat) (x : Gang) : (s.setGang g x).plans = s.plans := rfl
@[simp] theorem State.setGang_dir (s : State) (g : Nat) (x : Gang) : (s.setGang g x).dir = s.dir := rfl
@[simp] theorem State.setGang_tiles (s : State) (g : Nat) (x : Gang) : (s.setGang g x).tiles = s.tiles := rfl
@[simp] theorem State.setGang_stt (s : State) (g : Nat) (x : Gang) : (s.setGang g x).stt = s.stt := rfl
@[simp] theorem State.setGang_frames (s : State) (g : Nat) (x : Gang) : (s.setGang g x).frames = s.frames := rfl
@[simp] theorem State.setGang_spills (s : State) (g : Nat) (x : Gang) : (s.setGang g x).spills = s.spills := rfl
@[simp] theorem State.setGang_spillNo (s : State) (g : Nat) (x : Gang) : (s.setGang g x).spillNo = s.spillNo := rfl
@[simp] theorem State.setGang_xfers (s : State) (g : Nat) (x : Gang) : (s.setGang g x).xfers = s.xfers := rfl
@[simp] theorem State.setGang_tlb (s : State) (g : Nat) (x : Gang) : (s.setGang g x).tlb = s.tlb := rfl
@[simp] theorem State.setGang_cfg (s : State) (g : Nat) (x : Gang) : (s.setGang g x).cfg = s.cfg := rfl
@[simp] theorem State.setGang_ptc (s : State) (g : Nat) (x : Gang) : (s.setGang g x).ptc = s.ptc := rfl
@[simp] theorem State.setGang_l1d (s : State) (g : Nat) (x : Gang) : (s.setGang g x).l1d = s.l1d := rfl
@[simp] theorem State.setGang_owners (s : State) (g : Nat) (x : Gang) : (s.setGang g x).owners = s.owners := rfl
@[simp] theorem State.setGang_l2 (s : State) (g : Nat) (x : Gang) : (s.setGang g x).l2 = s.l2 := rfl
@[simp] theorem State.setGang_engines (s : State) (g : Nat) (x : Gang) : (s.setGang g x).engines = s.engines := rfl
@[simp] theorem State.setGang_exits (s : State) (g : Nat) (x : Gang) : (s.setGang g x).exits = s.exits := rfl
@[simp] theorem State.setGang_inPorts (s : State) (g : Nat) (x : Gang) : (s.setGang g x).inPorts = s.inPorts := rfl
@[simp] theorem State.setGang_pushes (s : State) (g : Nat) (x : Gang) : (s.setGang g x).pushes = s.pushes := rfl
@[simp] theorem State.setGang_images (s : State) (g : Nat) (x : Gang) : (s.setGang g x).images = s.images := rfl
@[simp] theorem State.setGang_elems (s : State) (g : Nat) (x : Gang) : (s.setGang g x).elems = s.elems := rfl
@[simp] theorem State.setGang_scales (s : State) (g : Nat) (x : Gang) : (s.setGang g x).scales = s.scales := rfl
@[simp] theorem State.setGang_islands (s : State) (g : Nat) (x : Gang) : (s.setGang g x).islands = s.islands := rfl
@[simp] theorem State.setGang_inputs (s : State) (g : Nat) (x : Gang) : (s.setGang g x).inputs = s.inputs := rfl
@[simp] theorem State.setGang_clock (s : State) (g : Nat) (x : Gang) : (s.setGang g x).clock = s.clock := rfl
@[simp] theorem State.setGang_agenda (s : State) (g : Nat) (x : Gang) : (s.setGang g x).agenda = s.agenda := rfl
@[simp] theorem State.setGang_focus (s : State) (g : Nat) (x : Gang) : (s.setGang g x).focus = s.focus := rfl
@[simp] theorem State.setGang_freeCtr (s : State) (g : Nat) (x : Gang) : (s.setGang g x).freeCtr = s.freeCtr := rfl
@[simp] theorem State.setGang_ctx (s : State) (g : Nat) (x : Gang) (i : Nat) : (s.setGang g x).ctx i = s.ctx i := rfl
@[simp] theorem State.setGang_launch (s : State) (g : Nat) (x : Gang) (i : Nat) : (s.setGang g x).launch i = s.launch i := rfl
@[simp] theorem State.setGang_part (s : State) (g : Nat) (x : Gang) (i : Nat) : (s.setGang g x).part i = s.part i := rfl
@[simp] theorem State.setGang_core (s : State) (g : Nat) (x : Gang) (i : Nat) : (s.setGang g x).core i = s.core i := rfl
@[simp] theorem State.setGang_elem (s : State) (g : Nat) (x : Gang) (i : Nat) : (s.setGang g x).elem i = s.elem i := rfl
@[simp] theorem State.setGang_engine (s : State) (g : Nat) (x : Gang) (i : Nat) : (s.setGang g x).engine i = s.engine i := rfl
@[simp] theorem State.setGang_ra (s : State) (g : Nat) (x : Gang) (i : Nat) : (s.setGang g x).ra i = s.ra i := rfl
@[simp] theorem State.setGang_dirE (s : State) (g : Nat) (x : Gang) (i : Nat) : (s.setGang g x).dirE i = s.dirE i := rfl
@[simp] theorem State.setGang_island (s : State) (g : Nat) (x : Gang) (i : Nat) : (s.setGang g x).island i = s.island i := rfl

/-! ### setLaunch -/

@[simp] theorem State.setLaunch_dev (s : State) (l : Nat) (x : Launch) : (s.setLaunch l x).dev = s.dev := rfl
@[simp] theorem State.setLaunch_parts (s : State) (l : Nat) (x : Launch) : (s.setLaunch l x).parts = s.parts := rfl
@[simp] theorem State.setLaunch_mem (s : State) (l : Nat) (x : Launch) : (s.setLaunch l x).mem = s.mem := rfl
@[simp] theorem State.setLaunch_poison (s : State) (l : Nat) (x : Launch) : (s.setLaunch l x).poison = s.poison := rfl
@[simp] theorem State.setLaunch_host (s : State) (l : Nat) (x : Launch) : (s.setLaunch l x).host = s.host := rfl
@[simp] theorem State.setLaunch_row (s : State) (l : Nat) (x : Launch) : (s.setLaunch l x).row = s.row := rfl
@[simp] theorem State.setLaunch_ras (s : State) (l : Nat) (x : Launch) : (s.setLaunch l x).ras = s.ras := rfl
@[simp] theorem State.setLaunch_nextRa (s : State) (l : Nat) (x : Launch) : (s.setLaunch l x).nextRa = s.nextRa := rfl
@[simp] theorem State.setLaunch_gangs (s : State) (l : Nat) (x : Launch) : (s.setLaunch l x).gangs = s.gangs := rfl
@[simp] theorem State.setLaunch_saved (s : State) (l : Nat) (x : Launch) : (s.setLaunch l x).saved = s.saved := rfl
@[simp] theorem State.setLaunch_ctxs (s : State) (l : Nat) (x : Launch) : (s.setLaunch l x).ctxs = s.ctxs := rfl
@[simp] theorem State.setLaunch_cores (s : State) (l : Nat) (x : Launch) : (s.setLaunch l x).cores = s.cores := rfl
@[simp] theorem State.setLaunch_bars (s : State) (l : Nat) (x : Launch) : (s.setLaunch l x).bars = s.bars := rfl
@[simp] theorem State.setLaunch_plans (s : State) (l : Nat) (x : Launch) : (s.setLaunch l x).plans = s.plans := rfl
@[simp] theorem State.setLaunch_dir (s : State) (l : Nat) (x : Launch) : (s.setLaunch l x).dir = s.dir := rfl
@[simp] theorem State.setLaunch_tiles (s : State) (l : Nat) (x : Launch) : (s.setLaunch l x).tiles = s.tiles := rfl
@[simp] theorem State.setLaunch_stt (s : State) (l : Nat) (x : Launch) : (s.setLaunch l x).stt = s.stt := rfl
@[simp] theorem State.setLaunch_frames (s : State) (l : Nat) (x : Launch) : (s.setLaunch l x).frames = s.frames := rfl
@[simp] theorem State.setLaunch_spills (s : State) (l : Nat) (x : Launch) : (s.setLaunch l x).spills = s.spills := rfl
@[simp] theorem State.setLaunch_spillNo (s : State) (l : Nat) (x : Launch) : (s.setLaunch l x).spillNo = s.spillNo := rfl
@[simp] theorem State.setLaunch_xfers (s : State) (l : Nat) (x : Launch) : (s.setLaunch l x).xfers = s.xfers := rfl
@[simp] theorem State.setLaunch_tlb (s : State) (l : Nat) (x : Launch) : (s.setLaunch l x).tlb = s.tlb := rfl
@[simp] theorem State.setLaunch_cfg (s : State) (l : Nat) (x : Launch) : (s.setLaunch l x).cfg = s.cfg := rfl
@[simp] theorem State.setLaunch_ptc (s : State) (l : Nat) (x : Launch) : (s.setLaunch l x).ptc = s.ptc := rfl
@[simp] theorem State.setLaunch_l1d (s : State) (l : Nat) (x : Launch) : (s.setLaunch l x).l1d = s.l1d := rfl
@[simp] theorem State.setLaunch_owners (s : State) (l : Nat) (x : Launch) : (s.setLaunch l x).owners = s.owners := rfl
@[simp] theorem State.setLaunch_l2 (s : State) (l : Nat) (x : Launch) : (s.setLaunch l x).l2 = s.l2 := rfl
@[simp] theorem State.setLaunch_engines (s : State) (l : Nat) (x : Launch) : (s.setLaunch l x).engines = s.engines := rfl
@[simp] theorem State.setLaunch_exits (s : State) (l : Nat) (x : Launch) : (s.setLaunch l x).exits = s.exits := rfl
@[simp] theorem State.setLaunch_inPorts (s : State) (l : Nat) (x : Launch) : (s.setLaunch l x).inPorts = s.inPorts := rfl
@[simp] theorem State.setLaunch_pushes (s : State) (l : Nat) (x : Launch) : (s.setLaunch l x).pushes = s.pushes := rfl
@[simp] theorem State.setLaunch_images (s : State) (l : Nat) (x : Launch) : (s.setLaunch l x).images = s.images := rfl
@[simp] theorem State.setLaunch_elems (s : State) (l : Nat) (x : Launch) : (s.setLaunch l x).elems = s.elems := rfl
@[simp] theorem State.setLaunch_scales (s : State) (l : Nat) (x : Launch) : (s.setLaunch l x).scales = s.scales := rfl
@[simp] theorem State.setLaunch_islands (s : State) (l : Nat) (x : Launch) : (s.setLaunch l x).islands = s.islands := rfl
@[simp] theorem State.setLaunch_inputs (s : State) (l : Nat) (x : Launch) : (s.setLaunch l x).inputs = s.inputs := rfl
@[simp] theorem State.setLaunch_clock (s : State) (l : Nat) (x : Launch) : (s.setLaunch l x).clock = s.clock := rfl
@[simp] theorem State.setLaunch_agenda (s : State) (l : Nat) (x : Launch) : (s.setLaunch l x).agenda = s.agenda := rfl
@[simp] theorem State.setLaunch_focus (s : State) (l : Nat) (x : Launch) : (s.setLaunch l x).focus = s.focus := rfl
@[simp] theorem State.setLaunch_freeCtr (s : State) (l : Nat) (x : Launch) : (s.setLaunch l x).freeCtr = s.freeCtr := rfl
@[simp] theorem State.setLaunch_ctx (s : State) (l : Nat) (x : Launch) (i : Nat) : (s.setLaunch l x).ctx i = s.ctx i := rfl
@[simp] theorem State.setLaunch_gang (s : State) (l : Nat) (x : Launch) (i : Nat) : (s.setLaunch l x).gang i = s.gang i := rfl
@[simp] theorem State.setLaunch_part (s : State) (l : Nat) (x : Launch) (i : Nat) : (s.setLaunch l x).part i = s.part i := rfl
@[simp] theorem State.setLaunch_core (s : State) (l : Nat) (x : Launch) (i : Nat) : (s.setLaunch l x).core i = s.core i := rfl
@[simp] theorem State.setLaunch_elem (s : State) (l : Nat) (x : Launch) (i : Nat) : (s.setLaunch l x).elem i = s.elem i := rfl
@[simp] theorem State.setLaunch_engine (s : State) (l : Nat) (x : Launch) (i : Nat) : (s.setLaunch l x).engine i = s.engine i := rfl
@[simp] theorem State.setLaunch_ra (s : State) (l : Nat) (x : Launch) (i : Nat) : (s.setLaunch l x).ra i = s.ra i := rfl
@[simp] theorem State.setLaunch_dirE (s : State) (l : Nat) (x : Launch) (i : Nat) : (s.setLaunch l x).dirE i = s.dirE i := rfl
@[simp] theorem State.setLaunch_island (s : State) (l : Nat) (x : Launch) (i : Nat) : (s.setLaunch l x).island i = s.island i := rfl

/-! ### updPart -/

@[simp] theorem State.updPart_dev (s : State) (p : Nat) (f : Part → Part) : (s.updPart p f).dev = s.dev := rfl
@[simp] theorem State.updPart_launches (s : State) (p : Nat) (f : Part → Part) : (s.updPart p f).launches = s.launches := rfl
@[simp] theorem State.updPart_mem (s : State) (p : Nat) (f : Part → Part) : (s.updPart p f).mem = s.mem := rfl
@[simp] theorem State.updPart_poison (s : State) (p : Nat) (f : Part → Part) : (s.updPart p f).poison = s.poison := rfl
@[simp] theorem State.updPart_host (s : State) (p : Nat) (f : Part → Part) : (s.updPart p f).host = s.host := rfl
@[simp] theorem State.updPart_row (s : State) (p : Nat) (f : Part → Part) : (s.updPart p f).row = s.row := rfl
@[simp] theorem State.updPart_ras (s : State) (p : Nat) (f : Part → Part) : (s.updPart p f).ras = s.ras := rfl
@[simp] theorem State.updPart_nextRa (s : State) (p : Nat) (f : Part → Part) : (s.updPart p f).nextRa = s.nextRa := rfl
@[simp] theorem State.updPart_gangs (s : State) (p : Nat) (f : Part → Part) : (s.updPart p f).gangs = s.gangs := rfl
@[simp] theorem State.updPart_saved (s : State) (p : Nat) (f : Part → Part) : (s.updPart p f).saved = s.saved := rfl
@[simp] theorem State.updPart_ctxs (s : State) (p : Nat) (f : Part → Part) : (s.updPart p f).ctxs = s.ctxs := rfl
@[simp] theorem State.updPart_cores (s : State) (p : Nat) (f : Part → Part) : (s.updPart p f).cores = s.cores := rfl
@[simp] theorem State.updPart_bars (s : State) (p : Nat) (f : Part → Part) : (s.updPart p f).bars = s.bars := rfl
@[simp] theorem State.updPart_plans (s : State) (p : Nat) (f : Part → Part) : (s.updPart p f).plans = s.plans := rfl
@[simp] theorem State.updPart_dir (s : State) (p : Nat) (f : Part → Part) : (s.updPart p f).dir = s.dir := rfl
@[simp] theorem State.updPart_tiles (s : State) (p : Nat) (f : Part → Part) : (s.updPart p f).tiles = s.tiles := rfl
@[simp] theorem State.updPart_stt (s : State) (p : Nat) (f : Part → Part) : (s.updPart p f).stt = s.stt := rfl
@[simp] theorem State.updPart_frames (s : State) (p : Nat) (f : Part → Part) : (s.updPart p f).frames = s.frames := rfl
@[simp] theorem State.updPart_spills (s : State) (p : Nat) (f : Part → Part) : (s.updPart p f).spills = s.spills := rfl
@[simp] theorem State.updPart_spillNo (s : State) (p : Nat) (f : Part → Part) : (s.updPart p f).spillNo = s.spillNo := rfl
@[simp] theorem State.updPart_xfers (s : State) (p : Nat) (f : Part → Part) : (s.updPart p f).xfers = s.xfers := rfl
@[simp] theorem State.updPart_tlb (s : State) (p : Nat) (f : Part → Part) : (s.updPart p f).tlb = s.tlb := rfl
@[simp] theorem State.updPart_cfg (s : State) (p : Nat) (f : Part → Part) : (s.updPart p f).cfg = s.cfg := rfl
@[simp] theorem State.updPart_ptc (s : State) (p : Nat) (f : Part → Part) : (s.updPart p f).ptc = s.ptc := rfl
@[simp] theorem State.updPart_l1d (s : State) (p : Nat) (f : Part → Part) : (s.updPart p f).l1d = s.l1d := rfl
@[simp] theorem State.updPart_owners (s : State) (p : Nat) (f : Part → Part) : (s.updPart p f).owners = s.owners := rfl
@[simp] theorem State.updPart_l2 (s : State) (p : Nat) (f : Part → Part) : (s.updPart p f).l2 = s.l2 := rfl
@[simp] theorem State.updPart_engines (s : State) (p : Nat) (f : Part → Part) : (s.updPart p f).engines = s.engines := rfl
@[simp] theorem State.updPart_exits (s : State) (p : Nat) (f : Part → Part) : (s.updPart p f).exits = s.exits := rfl
@[simp] theorem State.updPart_inPorts (s : State) (p : Nat) (f : Part → Part) : (s.updPart p f).inPorts = s.inPorts := rfl
@[simp] theorem State.updPart_pushes (s : State) (p : Nat) (f : Part → Part) : (s.updPart p f).pushes = s.pushes := rfl
@[simp] theorem State.updPart_images (s : State) (p : Nat) (f : Part → Part) : (s.updPart p f).images = s.images := rfl
@[simp] theorem State.updPart_elems (s : State) (p : Nat) (f : Part → Part) : (s.updPart p f).elems = s.elems := rfl
@[simp] theorem State.updPart_scales (s : State) (p : Nat) (f : Part → Part) : (s.updPart p f).scales = s.scales := rfl
@[simp] theorem State.updPart_islands (s : State) (p : Nat) (f : Part → Part) : (s.updPart p f).islands = s.islands := rfl
@[simp] theorem State.updPart_inputs (s : State) (p : Nat) (f : Part → Part) : (s.updPart p f).inputs = s.inputs := rfl
@[simp] theorem State.updPart_clock (s : State) (p : Nat) (f : Part → Part) : (s.updPart p f).clock = s.clock := rfl
@[simp] theorem State.updPart_agenda (s : State) (p : Nat) (f : Part → Part) : (s.updPart p f).agenda = s.agenda := rfl
@[simp] theorem State.updPart_focus (s : State) (p : Nat) (f : Part → Part) : (s.updPart p f).focus = s.focus := rfl
@[simp] theorem State.updPart_freeCtr (s : State) (p : Nat) (f : Part → Part) : (s.updPart p f).freeCtr = s.freeCtr := rfl
@[simp] theorem State.updPart_ctx (s : State) (p : Nat) (f : Part → Part) (i : Nat) : (s.updPart p f).ctx i = s.ctx i := rfl
@[simp] theorem State.updPart_gang (s : State) (p : Nat) (f : Part → Part) (i : Nat) : (s.updPart p f).gang i = s.gang i := rfl
@[simp] theorem State.updPart_launch (s : State) (p : Nat) (f : Part → Part) (i : Nat) : (s.updPart p f).launch i = s.launch i := rfl
@[simp] theorem State.updPart_core (s : State) (p : Nat) (f : Part → Part) (i : Nat) : (s.updPart p f).core i = s.core i := rfl
@[simp] theorem State.updPart_elem (s : State) (p : Nat) (f : Part → Part) (i : Nat) : (s.updPart p f).elem i = s.elem i := rfl
@[simp] theorem State.updPart_engine (s : State) (p : Nat) (f : Part → Part) (i : Nat) : (s.updPart p f).engine i = s.engine i := rfl
@[simp] theorem State.updPart_ra (s : State) (p : Nat) (f : Part → Part) (i : Nat) : (s.updPart p f).ra i = s.ra i := rfl
@[simp] theorem State.updPart_dirE (s : State) (p : Nat) (f : Part → Part) (i : Nat) : (s.updPart p f).dirE i = s.dirE i := rfl
@[simp] theorem State.updPart_island (s : State) (p : Nat) (f : Part → Part) (i : Nat) : (s.updPart p f).island i = s.island i := rfl

/-! ### updCore -/

@[simp] theorem State.updCore_dev (s : State) (c : Nat) (f : Core → Core) : (s.updCore c f).dev = s.dev := rfl
@[simp] theorem State.updCore_parts (s : State) (c : Nat) (f : Core → Core) : (s.updCore c f).parts = s.parts := rfl
@[simp] theorem State.updCore_launches (s : State) (c : Nat) (f : Core → Core) : (s.updCore c f).launches = s.launches := rfl
@[simp] theorem State.updCore_mem (s : State) (c : Nat) (f : Core → Core) : (s.updCore c f).mem = s.mem := rfl
@[simp] theorem State.updCore_poison (s : State) (c : Nat) (f : Core → Core) : (s.updCore c f).poison = s.poison := rfl
@[simp] theorem State.updCore_host (s : State) (c : Nat) (f : Core → Core) : (s.updCore c f).host = s.host := rfl
@[simp] theorem State.updCore_row (s : State) (c : Nat) (f : Core → Core) : (s.updCore c f).row = s.row := rfl
@[simp] theorem State.updCore_ras (s : State) (c : Nat) (f : Core → Core) : (s.updCore c f).ras = s.ras := rfl
@[simp] theorem State.updCore_nextRa (s : State) (c : Nat) (f : Core → Core) : (s.updCore c f).nextRa = s.nextRa := rfl
@[simp] theorem State.updCore_gangs (s : State) (c : Nat) (f : Core → Core) : (s.updCore c f).gangs = s.gangs := rfl
@[simp] theorem State.updCore_saved (s : State) (c : Nat) (f : Core → Core) : (s.updCore c f).saved = s.saved := rfl
@[simp] theorem State.updCore_ctxs (s : State) (c : Nat) (f : Core → Core) : (s.updCore c f).ctxs = s.ctxs := rfl
@[simp] theorem State.updCore_bars (s : State) (c : Nat) (f : Core → Core) : (s.updCore c f).bars = s.bars := rfl
@[simp] theorem State.updCore_plans (s : State) (c : Nat) (f : Core → Core) : (s.updCore c f).plans = s.plans := rfl
@[simp] theorem State.updCore_dir (s : State) (c : Nat) (f : Core → Core) : (s.updCore c f).dir = s.dir := rfl
@[simp] theorem State.updCore_tiles (s : State) (c : Nat) (f : Core → Core) : (s.updCore c f).tiles = s.tiles := rfl
@[simp] theorem State.updCore_stt (s : State) (c : Nat) (f : Core → Core) : (s.updCore c f).stt = s.stt := rfl
@[simp] theorem State.updCore_frames (s : State) (c : Nat) (f : Core → Core) : (s.updCore c f).frames = s.frames := rfl
@[simp] theorem State.updCore_spills (s : State) (c : Nat) (f : Core → Core) : (s.updCore c f).spills = s.spills := rfl
@[simp] theorem State.updCore_spillNo (s : State) (c : Nat) (f : Core → Core) : (s.updCore c f).spillNo = s.spillNo := rfl
@[simp] theorem State.updCore_xfers (s : State) (c : Nat) (f : Core → Core) : (s.updCore c f).xfers = s.xfers := rfl
@[simp] theorem State.updCore_tlb (s : State) (c : Nat) (f : Core → Core) : (s.updCore c f).tlb = s.tlb := rfl
@[simp] theorem State.updCore_cfg (s : State) (c : Nat) (f : Core → Core) : (s.updCore c f).cfg = s.cfg := rfl
@[simp] theorem State.updCore_ptc (s : State) (c : Nat) (f : Core → Core) : (s.updCore c f).ptc = s.ptc := rfl
@[simp] theorem State.updCore_l1d (s : State) (c : Nat) (f : Core → Core) : (s.updCore c f).l1d = s.l1d := rfl
@[simp] theorem State.updCore_owners (s : State) (c : Nat) (f : Core → Core) : (s.updCore c f).owners = s.owners := rfl
@[simp] theorem State.updCore_l2 (s : State) (c : Nat) (f : Core → Core) : (s.updCore c f).l2 = s.l2 := rfl
@[simp] theorem State.updCore_engines (s : State) (c : Nat) (f : Core → Core) : (s.updCore c f).engines = s.engines := rfl
@[simp] theorem State.updCore_exits (s : State) (c : Nat) (f : Core → Core) : (s.updCore c f).exits = s.exits := rfl
@[simp] theorem State.updCore_inPorts (s : State) (c : Nat) (f : Core → Core) : (s.updCore c f).inPorts = s.inPorts := rfl
@[simp] theorem State.updCore_pushes (s : State) (c : Nat) (f : Core → Core) : (s.updCore c f).pushes = s.pushes := rfl
@[simp] theorem State.updCore_images (s : State) (c : Nat) (f : Core → Core) : (s.updCore c f).images = s.images := rfl
@[simp] theorem State.updCore_elems (s : State) (c : Nat) (f : Core → Core) : (s.updCore c f).elems = s.elems := rfl
@[simp] theorem State.updCore_scales (s : State) (c : Nat) (f : Core → Core) : (s.updCore c f).scales = s.scales := rfl
@[simp] theorem State.updCore_islands (s : State) (c : Nat) (f : Core → Core) : (s.updCore c f).islands = s.islands := rfl
@[simp] theorem State.updCore_inputs (s : State) (c : Nat) (f : Core → Core) : (s.updCore c f).inputs = s.inputs := rfl
@[simp] theorem State.updCore_clock (s : State) (c : Nat) (f : Core → Core) : (s.updCore c f).clock = s.clock := rfl
@[simp] theorem State.updCore_agenda (s : State) (c : Nat) (f : Core → Core) : (s.updCore c f).agenda = s.agenda := rfl
@[simp] theorem State.updCore_focus (s : State) (c : Nat) (f : Core → Core) : (s.updCore c f).focus = s.focus := rfl
@[simp] theorem State.updCore_freeCtr (s : State) (c : Nat) (f : Core → Core) : (s.updCore c f).freeCtr = s.freeCtr := rfl
@[simp] theorem State.updCore_ctx (s : State) (c : Nat) (f : Core → Core) (i : Nat) : (s.updCore c f).ctx i = s.ctx i := rfl
@[simp] theorem State.updCore_gang (s : State) (c : Nat) (f : Core → Core) (i : Nat) : (s.updCore c f).gang i = s.gang i := rfl
@[simp] theorem State.updCore_launch (s : State) (c : Nat) (f : Core → Core) (i : Nat) : (s.updCore c f).launch i = s.launch i := rfl
@[simp] theorem State.updCore_part (s : State) (c : Nat) (f : Core → Core) (i : Nat) : (s.updCore c f).part i = s.part i := rfl
@[simp] theorem State.updCore_elem (s : State) (c : Nat) (f : Core → Core) (i : Nat) : (s.updCore c f).elem i = s.elem i := rfl
@[simp] theorem State.updCore_engine (s : State) (c : Nat) (f : Core → Core) (i : Nat) : (s.updCore c f).engine i = s.engine i := rfl
@[simp] theorem State.updCore_ra (s : State) (c : Nat) (f : Core → Core) (i : Nat) : (s.updCore c f).ra i = s.ra i := rfl
@[simp] theorem State.updCore_dirE (s : State) (c : Nat) (f : Core → Core) (i : Nat) : (s.updCore c f).dirE i = s.dirE i := rfl
@[simp] theorem State.updCore_island (s : State) (c : Nat) (f : Core → Core) (i : Nat) : (s.updCore c f).island i = s.island i := rfl

/-! ### setElem -/

@[simp] theorem State.setElem_dev (s : State) (k : Nat) (e : Elem) : (s.setElem k e).dev = s.dev := rfl
@[simp] theorem State.setElem_parts (s : State) (k : Nat) (e : Elem) : (s.setElem k e).parts = s.parts := rfl
@[simp] theorem State.setElem_launches (s : State) (k : Nat) (e : Elem) : (s.setElem k e).launches = s.launches := rfl
@[simp] theorem State.setElem_mem (s : State) (k : Nat) (e : Elem) : (s.setElem k e).mem = s.mem := rfl
@[simp] theorem State.setElem_poison (s : State) (k : Nat) (e : Elem) : (s.setElem k e).poison = s.poison := rfl
@[simp] theorem State.setElem_host (s : State) (k : Nat) (e : Elem) : (s.setElem k e).host = s.host := rfl
@[simp] theorem State.setElem_row (s : State) (k : Nat) (e : Elem) : (s.setElem k e).row = s.row := rfl
@[simp] theorem State.setElem_ras (s : State) (k : Nat) (e : Elem) : (s.setElem k e).ras = s.ras := rfl
@[simp] theorem State.setElem_nextRa (s : State) (k : Nat) (e : Elem) : (s.setElem k e).nextRa = s.nextRa := rfl
@[simp] theorem State.setElem_gangs (s : State) (k : Nat) (e : Elem) : (s.setElem k e).gangs = s.gangs := rfl
@[simp] theorem State.setElem_saved (s : State) (k : Nat) (e : Elem) : (s.setElem k e).saved = s.saved := rfl
@[simp] theorem State.setElem_ctxs (s : State) (k : Nat) (e : Elem) : (s.setElem k e).ctxs = s.ctxs := rfl
@[simp] theorem State.setElem_cores (s : State) (k : Nat) (e : Elem) : (s.setElem k e).cores = s.cores := rfl
@[simp] theorem State.setElem_bars (s : State) (k : Nat) (e : Elem) : (s.setElem k e).bars = s.bars := rfl
@[simp] theorem State.setElem_plans (s : State) (k : Nat) (e : Elem) : (s.setElem k e).plans = s.plans := rfl
@[simp] theorem State.setElem_dir (s : State) (k : Nat) (e : Elem) : (s.setElem k e).dir = s.dir := rfl
@[simp] theorem State.setElem_tiles (s : State) (k : Nat) (e : Elem) : (s.setElem k e).tiles = s.tiles := rfl
@[simp] theorem State.setElem_stt (s : State) (k : Nat) (e : Elem) : (s.setElem k e).stt = s.stt := rfl
@[simp] theorem State.setElem_frames (s : State) (k : Nat) (e : Elem) : (s.setElem k e).frames = s.frames := rfl
@[simp] theorem State.setElem_spills (s : State) (k : Nat) (e : Elem) : (s.setElem k e).spills = s.spills := rfl
@[simp] theorem State.setElem_spillNo (s : State) (k : Nat) (e : Elem) : (s.setElem k e).spillNo = s.spillNo := rfl
@[simp] theorem State.setElem_xfers (s : State) (k : Nat) (e : Elem) : (s.setElem k e).xfers = s.xfers := rfl
@[simp] theorem State.setElem_tlb (s : State) (k : Nat) (e : Elem) : (s.setElem k e).tlb = s.tlb := rfl
@[simp] theorem State.setElem_cfg (s : State) (k : Nat) (e : Elem) : (s.setElem k e).cfg = s.cfg := rfl
@[simp] theorem State.setElem_ptc (s : State) (k : Nat) (e : Elem) : (s.setElem k e).ptc = s.ptc := rfl
@[simp] theorem State.setElem_l1d (s : State) (k : Nat) (e : Elem) : (s.setElem k e).l1d = s.l1d := rfl
@[simp] theorem State.setElem_owners (s : State) (k : Nat) (e : Elem) : (s.setElem k e).owners = s.owners := rfl
@[simp] theorem State.setElem_l2 (s : State) (k : Nat) (e : Elem) : (s.setElem k e).l2 = s.l2 := rfl
@[simp] theorem State.setElem_engines (s : State) (k : Nat) (e : Elem) : (s.setElem k e).engines = s.engines := rfl
@[simp] theorem State.setElem_exits (s : State) (k : Nat) (e : Elem) : (s.setElem k e).exits = s.exits := rfl
@[simp] theorem State.setElem_inPorts (s : State) (k : Nat) (e : Elem) : (s.setElem k e).inPorts = s.inPorts := rfl
@[simp] theorem State.setElem_pushes (s : State) (k : Nat) (e : Elem) : (s.setElem k e).pushes = s.pushes := rfl
@[simp] theorem State.setElem_images (s : State) (k : Nat) (e : Elem) : (s.setElem k e).images = s.images := rfl
@[simp] theorem State.setElem_scales (s : State) (k : Nat) (e : Elem) : (s.setElem k e).scales = s.scales := rfl
@[simp] theorem State.setElem_islands (s : State) (k : Nat) (e : Elem) : (s.setElem k e).islands = s.islands := rfl
@[simp] theorem State.setElem_inputs (s : State) (k : Nat) (e : Elem) : (s.setElem k e).inputs = s.inputs := rfl
@[simp] theorem State.setElem_clock (s : State) (k : Nat) (e : Elem) : (s.setElem k e).clock = s.clock := rfl
@[simp] theorem State.setElem_agenda (s : State) (k : Nat) (e : Elem) : (s.setElem k e).agenda = s.agenda := rfl
@[simp] theorem State.setElem_focus (s : State) (k : Nat) (e : Elem) : (s.setElem k e).focus = s.focus := rfl
@[simp] theorem State.setElem_freeCtr (s : State) (k : Nat) (e : Elem) : (s.setElem k e).freeCtr = s.freeCtr := rfl
@[simp] theorem State.setElem_ctx (s : State) (k : Nat) (e : Elem) (i : Nat) : (s.setElem k e).ctx i = s.ctx i := rfl
@[simp] theorem State.setElem_gang (s : State) (k : Nat) (e : Elem) (i : Nat) : (s.setElem k e).gang i = s.gang i := rfl
@[simp] theorem State.setElem_launch (s : State) (k : Nat) (e : Elem) (i : Nat) : (s.setElem k e).launch i = s.launch i := rfl
@[simp] theorem State.setElem_part (s : State) (k : Nat) (e : Elem) (i : Nat) : (s.setElem k e).part i = s.part i := rfl
@[simp] theorem State.setElem_core (s : State) (k : Nat) (e : Elem) (i : Nat) : (s.setElem k e).core i = s.core i := rfl
@[simp] theorem State.setElem_engine (s : State) (k : Nat) (e : Elem) (i : Nat) : (s.setElem k e).engine i = s.engine i := rfl
@[simp] theorem State.setElem_ra (s : State) (k : Nat) (e : Elem) (i : Nat) : (s.setElem k e).ra i = s.ra i := rfl
@[simp] theorem State.setElem_dirE (s : State) (k : Nat) (e : Elem) (i : Nat) : (s.setElem k e).dirE i = s.dirE i := rfl
@[simp] theorem State.setElem_island (s : State) (k : Nat) (e : Elem) (i : Nat) : (s.setElem k e).island i = s.island i := rfl

/-! ### setEngine -/

@[simp] theorem State.setEngine_dev (s : State) (k : Nat) (e : Engine) : (s.setEngine k e).dev = s.dev := rfl
@[simp] theorem State.setEngine_parts (s : State) (k : Nat) (e : Engine) : (s.setEngine k e).parts = s.parts := rfl
@[simp] theorem State.setEngine_launches (s : State) (k : Nat) (e : Engine) : (s.setEngine k e).launches = s.launches := rfl
@[simp] theorem State.setEngine_mem (s : State) (k : Nat) (e : Engine) : (s.setEngine k e).mem = s.mem := rfl
@[simp] theorem State.setEngine_poison (s : State) (k : Nat) (e : Engine) : (s.setEngine k e).poison = s.poison := rfl
@[simp] theorem State.setEngine_host (s : State) (k : Nat) (e : Engine) : (s.setEngine k e).host = s.host := rfl
@[simp] theorem State.setEngine_row (s : State) (k : Nat) (e : Engine) : (s.setEngine k e).row = s.row := rfl
@[simp] theorem State.setEngine_ras (s : State) (k : Nat) (e : Engine) : (s.setEngine k e).ras = s.ras := rfl
@[simp] theorem State.setEngine_nextRa (s : State) (k : Nat) (e : Engine) : (s.setEngine k e).nextRa = s.nextRa := rfl
@[simp] theorem State.setEngine_gangs (s : State) (k : Nat) (e : Engine) : (s.setEngine k e).gangs = s.gangs := rfl
@[simp] theorem State.setEngine_saved (s : State) (k : Nat) (e : Engine) : (s.setEngine k e).saved = s.saved := rfl
@[simp] theorem State.setEngine_ctxs (s : State) (k : Nat) (e : Engine) : (s.setEngine k e).ctxs = s.ctxs := rfl
@[simp] theorem State.setEngine_cores (s : State) (k : Nat) (e : Engine) : (s.setEngine k e).cores = s.cores := rfl
@[simp] theorem State.setEngine_bars (s : State) (k : Nat) (e : Engine) : (s.setEngine k e).bars = s.bars := rfl
@[simp] theorem State.setEngine_plans (s : State) (k : Nat) (e : Engine) : (s.setEngine k e).plans = s.plans := rfl
@[simp] theorem State.setEngine_dir (s : State) (k : Nat) (e : Engine) : (s.setEngine k e).dir = s.dir := rfl
@[simp] theorem State.setEngine_tiles (s : State) (k : Nat) (e : Engine) : (s.setEngine k e).tiles = s.tiles := rfl
@[simp] theorem State.setEngine_stt (s : State) (k : Nat) (e : Engine) : (s.setEngine k e).stt = s.stt := rfl
@[simp] theorem State.setEngine_frames (s : State) (k : Nat) (e : Engine) : (s.setEngine k e).frames = s.frames := rfl
@[simp] theorem State.setEngine_spills (s : State) (k : Nat) (e : Engine) : (s.setEngine k e).spills = s.spills := rfl
@[simp] theorem State.setEngine_spillNo (s : State) (k : Nat) (e : Engine) : (s.setEngine k e).spillNo = s.spillNo := rfl
@[simp] theorem State.setEngine_xfers (s : State) (k : Nat) (e : Engine) : (s.setEngine k e).xfers = s.xfers := rfl
@[simp] theorem State.setEngine_tlb (s : State) (k : Nat) (e : Engine) : (s.setEngine k e).tlb = s.tlb := rfl
@[simp] theorem State.setEngine_cfg (s : State) (k : Nat) (e : Engine) : (s.setEngine k e).cfg = s.cfg := rfl
@[simp] theorem State.setEngine_ptc (s : State) (k : Nat) (e : Engine) : (s.setEngine k e).ptc = s.ptc := rfl
@[simp] theorem State.setEngine_l1d (s : State) (k : Nat) (e : Engine) : (s.setEngine k e).l1d = s.l1d := rfl
@[simp] theorem State.setEngine_owners (s : State) (k : Nat) (e : Engine) : (s.setEngine k e).owners = s.owners := rfl
@[simp] theorem State.setEngine_l2 (s : State) (k : Nat) (e : Engine) : (s.setEngine k e).l2 = s.l2 := rfl
@[simp] theorem State.setEngine_exits (s : State) (k : Nat) (e : Engine) : (s.setEngine k e).exits = s.exits := rfl
@[simp] theorem State.setEngine_inPorts (s : State) (k : Nat) (e : Engine) : (s.setEngine k e).inPorts = s.inPorts := rfl
@[simp] theorem State.setEngine_pushes (s : State) (k : Nat) (e : Engine) : (s.setEngine k e).pushes = s.pushes := rfl
@[simp] theorem State.setEngine_images (s : State) (k : Nat) (e : Engine) : (s.setEngine k e).images = s.images := rfl
@[simp] theorem State.setEngine_elems (s : State) (k : Nat) (e : Engine) : (s.setEngine k e).elems = s.elems := rfl
@[simp] theorem State.setEngine_scales (s : State) (k : Nat) (e : Engine) : (s.setEngine k e).scales = s.scales := rfl
@[simp] theorem State.setEngine_islands (s : State) (k : Nat) (e : Engine) : (s.setEngine k e).islands = s.islands := rfl
@[simp] theorem State.setEngine_inputs (s : State) (k : Nat) (e : Engine) : (s.setEngine k e).inputs = s.inputs := rfl
@[simp] theorem State.setEngine_clock (s : State) (k : Nat) (e : Engine) : (s.setEngine k e).clock = s.clock := rfl
@[simp] theorem State.setEngine_agenda (s : State) (k : Nat) (e : Engine) : (s.setEngine k e).agenda = s.agenda := rfl
@[simp] theorem State.setEngine_focus (s : State) (k : Nat) (e : Engine) : (s.setEngine k e).focus = s.focus := rfl
@[simp] theorem State.setEngine_freeCtr (s : State) (k : Nat) (e : Engine) : (s.setEngine k e).freeCtr = s.freeCtr := rfl
@[simp] theorem State.setEngine_ctx (s : State) (k : Nat) (e : Engine) (i : Nat) : (s.setEngine k e).ctx i = s.ctx i := rfl
@[simp] theorem State.setEngine_gang (s : State) (k : Nat) (e : Engine) (i : Nat) : (s.setEngine k e).gang i = s.gang i := rfl
@[simp] theorem State.setEngine_launch (s : State) (k : Nat) (e : Engine) (i : Nat) : (s.setEngine k e).launch i = s.launch i := rfl
@[simp] theorem State.setEngine_part (s : State) (k : Nat) (e : Engine) (i : Nat) : (s.setEngine k e).part i = s.part i := rfl
@[simp] theorem State.setEngine_core (s : State) (k : Nat) (e : Engine) (i : Nat) : (s.setEngine k e).core i = s.core i := rfl
@[simp] theorem State.setEngine_elem (s : State) (k : Nat) (e : Engine) (i : Nat) : (s.setEngine k e).elem i = s.elem i := rfl
@[simp] theorem State.setEngine_ra (s : State) (k : Nat) (e : Engine) (i : Nat) : (s.setEngine k e).ra i = s.ra i := rfl
@[simp] theorem State.setEngine_dirE (s : State) (k : Nat) (e : Engine) (i : Nat) : (s.setEngine k e).dirE i = s.dirE i := rfl
@[simp] theorem State.setEngine_island (s : State) (k : Nat) (e : Engine) (i : Nat) : (s.setEngine k e).island i = s.island i := rfl

/-! ### setRa -/

@[simp] theorem State.setRa_dev (s : State) (i : Nat) (r : RA) : (s.setRa i r).dev = s.dev := rfl
@[simp] theorem State.setRa_parts (s : State) (i : Nat) (r : RA) : (s.setRa i r).parts = s.parts := rfl
@[simp] theorem State.setRa_launches (s : State) (i : Nat) (r : RA) : (s.setRa i r).launches = s.launches := rfl
@[simp] theorem State.setRa_mem (s : State) (i : Nat) (r : RA) : (s.setRa i r).mem = s.mem := rfl
@[simp] theorem State.setRa_poison (s : State) (i : Nat) (r : RA) : (s.setRa i r).poison = s.poison := rfl
@[simp] theorem State.setRa_host (s : State) (i : Nat) (r : RA) : (s.setRa i r).host = s.host := rfl
@[simp] theorem State.setRa_row (s : State) (i : Nat) (r : RA) : (s.setRa i r).row = s.row := rfl
@[simp] theorem State.setRa_nextRa (s : State) (i : Nat) (r : RA) : (s.setRa i r).nextRa = s.nextRa := rfl
@[simp] theorem State.setRa_gangs (s : State) (i : Nat) (r : RA) : (s.setRa i r).gangs = s.gangs := rfl
@[simp] theorem State.setRa_saved (s : State) (i : Nat) (r : RA) : (s.setRa i r).saved = s.saved := rfl
@[simp] theorem State.setRa_ctxs (s : State) (i : Nat) (r : RA) : (s.setRa i r).ctxs = s.ctxs := rfl
@[simp] theorem State.setRa_cores (s : State) (i : Nat) (r : RA) : (s.setRa i r).cores = s.cores := rfl
@[simp] theorem State.setRa_bars (s : State) (i : Nat) (r : RA) : (s.setRa i r).bars = s.bars := rfl
@[simp] theorem State.setRa_plans (s : State) (i : Nat) (r : RA) : (s.setRa i r).plans = s.plans := rfl
@[simp] theorem State.setRa_dir (s : State) (i : Nat) (r : RA) : (s.setRa i r).dir = s.dir := rfl
@[simp] theorem State.setRa_tiles (s : State) (i : Nat) (r : RA) : (s.setRa i r).tiles = s.tiles := rfl
@[simp] theorem State.setRa_stt (s : State) (i : Nat) (r : RA) : (s.setRa i r).stt = s.stt := rfl
@[simp] theorem State.setRa_frames (s : State) (i : Nat) (r : RA) : (s.setRa i r).frames = s.frames := rfl
@[simp] theorem State.setRa_spills (s : State) (i : Nat) (r : RA) : (s.setRa i r).spills = s.spills := rfl
@[simp] theorem State.setRa_spillNo (s : State) (i : Nat) (r : RA) : (s.setRa i r).spillNo = s.spillNo := rfl
@[simp] theorem State.setRa_xfers (s : State) (i : Nat) (r : RA) : (s.setRa i r).xfers = s.xfers := rfl
@[simp] theorem State.setRa_tlb (s : State) (i : Nat) (r : RA) : (s.setRa i r).tlb = s.tlb := rfl
@[simp] theorem State.setRa_cfg (s : State) (i : Nat) (r : RA) : (s.setRa i r).cfg = s.cfg := rfl
@[simp] theorem State.setRa_ptc (s : State) (i : Nat) (r : RA) : (s.setRa i r).ptc = s.ptc := rfl
@[simp] theorem State.setRa_l1d (s : State) (i : Nat) (r : RA) : (s.setRa i r).l1d = s.l1d := rfl
@[simp] theorem State.setRa_owners (s : State) (i : Nat) (r : RA) : (s.setRa i r).owners = s.owners := rfl
@[simp] theorem State.setRa_l2 (s : State) (i : Nat) (r : RA) : (s.setRa i r).l2 = s.l2 := rfl
@[simp] theorem State.setRa_engines (s : State) (i : Nat) (r : RA) : (s.setRa i r).engines = s.engines := rfl
@[simp] theorem State.setRa_exits (s : State) (i : Nat) (r : RA) : (s.setRa i r).exits = s.exits := rfl
@[simp] theorem State.setRa_inPorts (s : State) (i : Nat) (r : RA) : (s.setRa i r).inPorts = s.inPorts := rfl
@[simp] theorem State.setRa_pushes (s : State) (i : Nat) (r : RA) : (s.setRa i r).pushes = s.pushes := rfl
@[simp] theorem State.setRa_images (s : State) (i : Nat) (r : RA) : (s.setRa i r).images = s.images := rfl
@[simp] theorem State.setRa_elems (s : State) (i : Nat) (r : RA) : (s.setRa i r).elems = s.elems := rfl
@[simp] theorem State.setRa_scales (s : State) (i : Nat) (r : RA) : (s.setRa i r).scales = s.scales := rfl
@[simp] theorem State.setRa_islands (s : State) (i : Nat) (r : RA) : (s.setRa i r).islands = s.islands := rfl
@[simp] theorem State.setRa_inputs (s : State) (i : Nat) (r : RA) : (s.setRa i r).inputs = s.inputs := rfl
@[simp] theorem State.setRa_clock (s : State) (i : Nat) (r : RA) : (s.setRa i r).clock = s.clock := rfl
@[simp] theorem State.setRa_agenda (s : State) (i : Nat) (r : RA) : (s.setRa i r).agenda = s.agenda := rfl
@[simp] theorem State.setRa_focus (s : State) (i : Nat) (r : RA) : (s.setRa i r).focus = s.focus := rfl
@[simp] theorem State.setRa_freeCtr (s : State) (i : Nat) (r : RA) : (s.setRa i r).freeCtr = s.freeCtr := rfl
@[simp] theorem State.setRa_ctx (s : State) (i : Nat) (r : RA) (j : Nat) : (s.setRa i r).ctx j = s.ctx j := rfl
@[simp] theorem State.setRa_gang (s : State) (i : Nat) (r : RA) (j : Nat) : (s.setRa i r).gang j = s.gang j := rfl
@[simp] theorem State.setRa_launch (s : State) (i : Nat) (r : RA) (j : Nat) : (s.setRa i r).launch j = s.launch j := rfl
@[simp] theorem State.setRa_part (s : State) (i : Nat) (r : RA) (j : Nat) : (s.setRa i r).part j = s.part j := rfl
@[simp] theorem State.setRa_core (s : State) (i : Nat) (r : RA) (j : Nat) : (s.setRa i r).core j = s.core j := rfl
@[simp] theorem State.setRa_elem (s : State) (i : Nat) (r : RA) (j : Nat) : (s.setRa i r).elem j = s.elem j := rfl
@[simp] theorem State.setRa_engine (s : State) (i : Nat) (r : RA) (j : Nat) : (s.setRa i r).engine j = s.engine j := rfl
@[simp] theorem State.setRa_dirE (s : State) (i : Nat) (r : RA) (j : Nat) : (s.setRa i r).dirE j = s.dirE j := rfl
@[simp] theorem State.setRa_island (s : State) (i : Nat) (r : RA) (j : Nat) : (s.setRa i r).island j = s.island j := rfl

/-! ### setDir -/

@[simp] theorem State.setDir_dev (s : State) (k : Nat) (e : DirEnt) : (s.setDir k e).dev = s.dev := rfl
@[simp] theorem State.setDir_parts (s : State) (k : Nat) (e : DirEnt) : (s.setDir k e).parts = s.parts := rfl
@[simp] theorem State.setDir_launches (s : State) (k : Nat) (e : DirEnt) : (s.setDir k e).launches = s.launches := rfl
@[simp] theorem State.setDir_mem (s : State) (k : Nat) (e : DirEnt) : (s.setDir k e).mem = s.mem := rfl
@[simp] theorem State.setDir_poison (s : State) (k : Nat) (e : DirEnt) : (s.setDir k e).poison = s.poison := rfl
@[simp] theorem State.setDir_host (s : State) (k : Nat) (e : DirEnt) : (s.setDir k e).host = s.host := rfl
@[simp] theorem State.setDir_row (s : State) (k : Nat) (e : DirEnt) : (s.setDir k e).row = s.row := rfl
@[simp] theorem State.setDir_ras (s : State) (k : Nat) (e : DirEnt) : (s.setDir k e).ras = s.ras := rfl
@[simp] theorem State.setDir_nextRa (s : State) (k : Nat) (e : DirEnt) : (s.setDir k e).nextRa = s.nextRa := rfl
@[simp] theorem State.setDir_gangs (s : State) (k : Nat) (e : DirEnt) : (s.setDir k e).gangs = s.gangs := rfl
@[simp] theorem State.setDir_saved (s : State) (k : Nat) (e : DirEnt) : (s.setDir k e).saved = s.saved := rfl
@[simp] theorem State.setDir_ctxs (s : State) (k : Nat) (e : DirEnt) : (s.setDir k e).ctxs = s.ctxs := rfl
@[simp] theorem State.setDir_cores (s : State) (k : Nat) (e : DirEnt) : (s.setDir k e).cores = s.cores := rfl
@[simp] theorem State.setDir_bars (s : State) (k : Nat) (e : DirEnt) : (s.setDir k e).bars = s.bars := rfl
@[simp] theorem State.setDir_plans (s : State) (k : Nat) (e : DirEnt) : (s.setDir k e).plans = s.plans := rfl
@[simp] theorem State.setDir_tiles (s : State) (k : Nat) (e : DirEnt) : (s.setDir k e).tiles = s.tiles := rfl
@[simp] theorem State.setDir_stt (s : State) (k : Nat) (e : DirEnt) : (s.setDir k e).stt = s.stt := rfl
@[simp] theorem State.setDir_frames (s : State) (k : Nat) (e : DirEnt) : (s.setDir k e).frames = s.frames := rfl
@[simp] theorem State.setDir_spills (s : State) (k : Nat) (e : DirEnt) : (s.setDir k e).spills = s.spills := rfl
@[simp] theorem State.setDir_spillNo (s : State) (k : Nat) (e : DirEnt) : (s.setDir k e).spillNo = s.spillNo := rfl
@[simp] theorem State.setDir_xfers (s : State) (k : Nat) (e : DirEnt) : (s.setDir k e).xfers = s.xfers := rfl
@[simp] theorem State.setDir_tlb (s : State) (k : Nat) (e : DirEnt) : (s.setDir k e).tlb = s.tlb := rfl
@[simp] theorem State.setDir_cfg (s : State) (k : Nat) (e : DirEnt) : (s.setDir k e).cfg = s.cfg := rfl
@[simp] theorem State.setDir_ptc (s : State) (k : Nat) (e : DirEnt) : (s.setDir k e).ptc = s.ptc := rfl
@[simp] theorem State.setDir_l1d (s : State) (k : Nat) (e : DirEnt) : (s.setDir k e).l1d = s.l1d := rfl
@[simp] theorem State.setDir_owners (s : State) (k : Nat) (e : DirEnt) : (s.setDir k e).owners = s.owners := rfl
@[simp] theorem State.setDir_l2 (s : State) (k : Nat) (e : DirEnt) : (s.setDir k e).l2 = s.l2 := rfl
@[simp] theorem State.setDir_engines (s : State) (k : Nat) (e : DirEnt) : (s.setDir k e).engines = s.engines := rfl
@[simp] theorem State.setDir_exits (s : State) (k : Nat) (e : DirEnt) : (s.setDir k e).exits = s.exits := rfl
@[simp] theorem State.setDir_inPorts (s : State) (k : Nat) (e : DirEnt) : (s.setDir k e).inPorts = s.inPorts := rfl
@[simp] theorem State.setDir_pushes (s : State) (k : Nat) (e : DirEnt) : (s.setDir k e).pushes = s.pushes := rfl
@[simp] theorem State.setDir_images (s : State) (k : Nat) (e : DirEnt) : (s.setDir k e).images = s.images := rfl
@[simp] theorem State.setDir_elems (s : State) (k : Nat) (e : DirEnt) : (s.setDir k e).elems = s.elems := rfl
@[simp] theorem State.setDir_scales (s : State) (k : Nat) (e : DirEnt) : (s.setDir k e).scales = s.scales := rfl
@[simp] theorem State.setDir_islands (s : State) (k : Nat) (e : DirEnt) : (s.setDir k e).islands = s.islands := rfl
@[simp] theorem State.setDir_inputs (s : State) (k : Nat) (e : DirEnt) : (s.setDir k e).inputs = s.inputs := rfl
@[simp] theorem State.setDir_clock (s : State) (k : Nat) (e : DirEnt) : (s.setDir k e).clock = s.clock := rfl
@[simp] theorem State.setDir_agenda (s : State) (k : Nat) (e : DirEnt) : (s.setDir k e).agenda = s.agenda := rfl
@[simp] theorem State.setDir_focus (s : State) (k : Nat) (e : DirEnt) : (s.setDir k e).focus = s.focus := rfl
@[simp] theorem State.setDir_freeCtr (s : State) (k : Nat) (e : DirEnt) : (s.setDir k e).freeCtr = s.freeCtr := rfl
@[simp] theorem State.setDir_ctx (s : State) (k : Nat) (e : DirEnt) (i : Nat) : (s.setDir k e).ctx i = s.ctx i := rfl
@[simp] theorem State.setDir_gang (s : State) (k : Nat) (e : DirEnt) (i : Nat) : (s.setDir k e).gang i = s.gang i := rfl
@[simp] theorem State.setDir_launch (s : State) (k : Nat) (e : DirEnt) (i : Nat) : (s.setDir k e).launch i = s.launch i := rfl
@[simp] theorem State.setDir_part (s : State) (k : Nat) (e : DirEnt) (i : Nat) : (s.setDir k e).part i = s.part i := rfl
@[simp] theorem State.setDir_core (s : State) (k : Nat) (e : DirEnt) (i : Nat) : (s.setDir k e).core i = s.core i := rfl
@[simp] theorem State.setDir_elem (s : State) (k : Nat) (e : DirEnt) (i : Nat) : (s.setDir k e).elem i = s.elem i := rfl
@[simp] theorem State.setDir_engine (s : State) (k : Nat) (e : DirEnt) (i : Nat) : (s.setDir k e).engine i = s.engine i := rfl
@[simp] theorem State.setDir_ra (s : State) (k : Nat) (e : DirEnt) (i : Nat) : (s.setDir k e).ra i = s.ra i := rfl
@[simp] theorem State.setDir_island (s : State) (k : Nat) (e : DirEnt) (i : Nat) : (s.setDir k e).island i = s.island i := rfl

/-! ### setIsland -/

@[simp] theorem State.setIsland_dev (s : State) (k : Nat) (i : Island) : (s.setIsland k i).dev = s.dev := rfl
@[simp] theorem State.setIsland_parts (s : State) (k : Nat) (i : Island) : (s.setIsland k i).parts = s.parts := rfl
@[simp] theorem State.setIsland_launches (s : State) (k : Nat) (i : Island) : (s.setIsland k i).launches = s.launches := rfl
@[simp] theorem State.setIsland_mem (s : State) (k : Nat) (i : Island) : (s.setIsland k i).mem = s.mem := rfl
@[simp] theorem State.setIsland_poison (s : State) (k : Nat) (i : Island) : (s.setIsland k i).poison = s.poison := rfl
@[simp] theorem State.setIsland_host (s : State) (k : Nat) (i : Island) : (s.setIsland k i).host = s.host := rfl
@[simp] theorem State.setIsland_row (s : State) (k : Nat) (i : Island) : (s.setIsland k i).row = s.row := rfl
@[simp] theorem State.setIsland_ras (s : State) (k : Nat) (i : Island) : (s.setIsland k i).ras = s.ras := rfl
@[simp] theorem State.setIsland_nextRa (s : State) (k : Nat) (i : Island) : (s.setIsland k i).nextRa = s.nextRa := rfl
@[simp] theorem State.setIsland_gangs (s : State) (k : Nat) (i : Island) : (s.setIsland k i).gangs = s.gangs := rfl
@[simp] theorem State.setIsland_saved (s : State) (k : Nat) (i : Island) : (s.setIsland k i).saved = s.saved := rfl
@[simp] theorem State.setIsland_ctxs (s : State) (k : Nat) (i : Island) : (s.setIsland k i).ctxs = s.ctxs := rfl
@[simp] theorem State.setIsland_cores (s : State) (k : Nat) (i : Island) : (s.setIsland k i).cores = s.cores := rfl
@[simp] theorem State.setIsland_bars (s : State) (k : Nat) (i : Island) : (s.setIsland k i).bars = s.bars := rfl
@[simp] theorem State.setIsland_plans (s : State) (k : Nat) (i : Island) : (s.setIsland k i).plans = s.plans := rfl
@[simp] theorem State.setIsland_dir (s : State) (k : Nat) (i : Island) : (s.setIsland k i).dir = s.dir := rfl
@[simp] theorem State.setIsland_tiles (s : State) (k : Nat) (i : Island) : (s.setIsland k i).tiles = s.tiles := rfl
@[simp] theorem State.setIsland_stt (s : State) (k : Nat) (i : Island) : (s.setIsland k i).stt = s.stt := rfl
@[simp] theorem State.setIsland_frames (s : State) (k : Nat) (i : Island) : (s.setIsland k i).frames = s.frames := rfl
@[simp] theorem State.setIsland_spills (s : State) (k : Nat) (i : Island) : (s.setIsland k i).spills = s.spills := rfl
@[simp] theorem State.setIsland_spillNo (s : State) (k : Nat) (i : Island) : (s.setIsland k i).spillNo = s.spillNo := rfl
@[simp] theorem State.setIsland_xfers (s : State) (k : Nat) (i : Island) : (s.setIsland k i).xfers = s.xfers := rfl
@[simp] theorem State.setIsland_tlb (s : State) (k : Nat) (i : Island) : (s.setIsland k i).tlb = s.tlb := rfl
@[simp] theorem State.setIsland_cfg (s : State) (k : Nat) (i : Island) : (s.setIsland k i).cfg = s.cfg := rfl
@[simp] theorem State.setIsland_ptc (s : State) (k : Nat) (i : Island) : (s.setIsland k i).ptc = s.ptc := rfl
@[simp] theorem State.setIsland_l1d (s : State) (k : Nat) (i : Island) : (s.setIsland k i).l1d = s.l1d := rfl
@[simp] theorem State.setIsland_owners (s : State) (k : Nat) (i : Island) : (s.setIsland k i).owners = s.owners := rfl
@[simp] theorem State.setIsland_l2 (s : State) (k : Nat) (i : Island) : (s.setIsland k i).l2 = s.l2 := rfl
@[simp] theorem State.setIsland_engines (s : State) (k : Nat) (i : Island) : (s.setIsland k i).engines = s.engines := rfl
@[simp] theorem State.setIsland_exits (s : State) (k : Nat) (i : Island) : (s.setIsland k i).exits = s.exits := rfl
@[simp] theorem State.setIsland_inPorts (s : State) (k : Nat) (i : Island) : (s.setIsland k i).inPorts = s.inPorts := rfl
@[simp] theorem State.setIsland_pushes (s : State) (k : Nat) (i : Island) : (s.setIsland k i).pushes = s.pushes := rfl
@[simp] theorem State.setIsland_images (s : State) (k : Nat) (i : Island) : (s.setIsland k i).images = s.images := rfl
@[simp] theorem State.setIsland_elems (s : State) (k : Nat) (i : Island) : (s.setIsland k i).elems = s.elems := rfl
@[simp] theorem State.setIsland_scales (s : State) (k : Nat) (i : Island) : (s.setIsland k i).scales = s.scales := rfl
@[simp] theorem State.setIsland_inputs (s : State) (k : Nat) (i : Island) : (s.setIsland k i).inputs = s.inputs := rfl
@[simp] theorem State.setIsland_clock (s : State) (k : Nat) (i : Island) : (s.setIsland k i).clock = s.clock := rfl
@[simp] theorem State.setIsland_agenda (s : State) (k : Nat) (i : Island) : (s.setIsland k i).agenda = s.agenda := rfl
@[simp] theorem State.setIsland_focus (s : State) (k : Nat) (i : Island) : (s.setIsland k i).focus = s.focus := rfl
@[simp] theorem State.setIsland_freeCtr (s : State) (k : Nat) (i : Island) : (s.setIsland k i).freeCtr = s.freeCtr := rfl
@[simp] theorem State.setIsland_ctx (s : State) (k : Nat) (i : Island) (j : Nat) : (s.setIsland k i).ctx j = s.ctx j := rfl
@[simp] theorem State.setIsland_gang (s : State) (k : Nat) (i : Island) (j : Nat) : (s.setIsland k i).gang j = s.gang j := rfl
@[simp] theorem State.setIsland_launch (s : State) (k : Nat) (i : Island) (j : Nat) : (s.setIsland k i).launch j = s.launch j := rfl
@[simp] theorem State.setIsland_part (s : State) (k : Nat) (i : Island) (j : Nat) : (s.setIsland k i).part j = s.part j := rfl
@[simp] theorem State.setIsland_core (s : State) (k : Nat) (i : Island) (j : Nat) : (s.setIsland k i).core j = s.core j := rfl
@[simp] theorem State.setIsland_elem (s : State) (k : Nat) (i : Island) (j : Nat) : (s.setIsland k i).elem j = s.elem j := rfl
@[simp] theorem State.setIsland_engine (s : State) (k : Nat) (i : Island) (j : Nat) : (s.setIsland k i).engine j = s.engine j := rfl
@[simp] theorem State.setIsland_ra (s : State) (k : Nat) (i : Island) (j : Nat) : (s.setIsland k i).ra j = s.ra j := rfl
@[simp] theorem State.setIsland_dirE (s : State) (k : Nat) (i : Island) (j : Nat) : (s.setIsland k i).dirE j = s.dirE j := rfl

/-! ### focusOn -/

@[simp] theorem State.focusOn_dev (s : State) (f : Focus) : (s.focusOn f).dev = s.dev := rfl
@[simp] theorem State.focusOn_parts (s : State) (f : Focus) : (s.focusOn f).parts = s.parts := rfl
@[simp] theorem State.focusOn_launches (s : State) (f : Focus) : (s.focusOn f).launches = s.launches := rfl
@[simp] theorem State.focusOn_mem (s : State) (f : Focus) : (s.focusOn f).mem = s.mem := rfl
@[simp] theorem State.focusOn_poison (s : State) (f : Focus) : (s.focusOn f).poison = s.poison := rfl
@[simp] theorem State.focusOn_host (s : State) (f : Focus) : (s.focusOn f).host = s.host := rfl
@[simp] theorem State.focusOn_row (s : State) (f : Focus) : (s.focusOn f).row = s.row := rfl
@[simp] theorem State.focusOn_ras (s : State) (f : Focus) : (s.focusOn f).ras = s.ras := rfl
@[simp] theorem State.focusOn_nextRa (s : State) (f : Focus) : (s.focusOn f).nextRa = s.nextRa := rfl
@[simp] theorem State.focusOn_gangs (s : State) (f : Focus) : (s.focusOn f).gangs = s.gangs := rfl
@[simp] theorem State.focusOn_saved (s : State) (f : Focus) : (s.focusOn f).saved = s.saved := rfl
@[simp] theorem State.focusOn_ctxs (s : State) (f : Focus) : (s.focusOn f).ctxs = s.ctxs := rfl
@[simp] theorem State.focusOn_cores (s : State) (f : Focus) : (s.focusOn f).cores = s.cores := rfl
@[simp] theorem State.focusOn_bars (s : State) (f : Focus) : (s.focusOn f).bars = s.bars := rfl
@[simp] theorem State.focusOn_plans (s : State) (f : Focus) : (s.focusOn f).plans = s.plans := rfl
@[simp] theorem State.focusOn_dir (s : State) (f : Focus) : (s.focusOn f).dir = s.dir := rfl
@[simp] theorem State.focusOn_tiles (s : State) (f : Focus) : (s.focusOn f).tiles = s.tiles := rfl
@[simp] theorem State.focusOn_stt (s : State) (f : Focus) : (s.focusOn f).stt = s.stt := rfl
@[simp] theorem State.focusOn_frames (s : State) (f : Focus) : (s.focusOn f).frames = s.frames := rfl
@[simp] theorem State.focusOn_spills (s : State) (f : Focus) : (s.focusOn f).spills = s.spills := rfl
@[simp] theorem State.focusOn_spillNo (s : State) (f : Focus) : (s.focusOn f).spillNo = s.spillNo := rfl
@[simp] theorem State.focusOn_xfers (s : State) (f : Focus) : (s.focusOn f).xfers = s.xfers := rfl
@[simp] theorem State.focusOn_tlb (s : State) (f : Focus) : (s.focusOn f).tlb = s.tlb := rfl
@[simp] theorem State.focusOn_cfg (s : State) (f : Focus) : (s.focusOn f).cfg = s.cfg := rfl
@[simp] theorem State.focusOn_ptc (s : State) (f : Focus) : (s.focusOn f).ptc = s.ptc := rfl
@[simp] theorem State.focusOn_l1d (s : State) (f : Focus) : (s.focusOn f).l1d = s.l1d := rfl
@[simp] theorem State.focusOn_owners (s : State) (f : Focus) : (s.focusOn f).owners = s.owners := rfl
@[simp] theorem State.focusOn_l2 (s : State) (f : Focus) : (s.focusOn f).l2 = s.l2 := rfl
@[simp] theorem State.focusOn_engines (s : State) (f : Focus) : (s.focusOn f).engines = s.engines := rfl
@[simp] theorem State.focusOn_exits (s : State) (f : Focus) : (s.focusOn f).exits = s.exits := rfl
@[simp] theorem State.focusOn_inPorts (s : State) (f : Focus) : (s.focusOn f).inPorts = s.inPorts := rfl
@[simp] theorem State.focusOn_pushes (s : State) (f : Focus) : (s.focusOn f).pushes = s.pushes := rfl
@[simp] theorem State.focusOn_images (s : State) (f : Focus) : (s.focusOn f).images = s.images := rfl
@[simp] theorem State.focusOn_elems (s : State) (f : Focus) : (s.focusOn f).elems = s.elems := rfl
@[simp] theorem State.focusOn_scales (s : State) (f : Focus) : (s.focusOn f).scales = s.scales := rfl
@[simp] theorem State.focusOn_islands (s : State) (f : Focus) : (s.focusOn f).islands = s.islands := rfl
@[simp] theorem State.focusOn_inputs (s : State) (f : Focus) : (s.focusOn f).inputs = s.inputs := rfl
@[simp] theorem State.focusOn_clock (s : State) (f : Focus) : (s.focusOn f).clock = s.clock := rfl
@[simp] theorem State.focusOn_agenda (s : State) (f : Focus) : (s.focusOn f).agenda = s.agenda := rfl
@[simp] theorem State.focusOn_freeCtr (s : State) (f : Focus) : (s.focusOn f).freeCtr = s.freeCtr := rfl
@[simp] theorem State.focusOn_focus (s : State) (f : Focus) : (s.focusOn f).focus = f := rfl
@[simp] theorem State.focusOn_ctx (s : State) (f : Focus) (i : Nat) : (s.focusOn f).ctx i = s.ctx i := rfl
@[simp] theorem State.focusOn_gang (s : State) (f : Focus) (i : Nat) : (s.focusOn f).gang i = s.gang i := rfl
@[simp] theorem State.focusOn_launch (s : State) (f : Focus) (i : Nat) : (s.focusOn f).launch i = s.launch i := rfl
@[simp] theorem State.focusOn_part (s : State) (f : Focus) (i : Nat) : (s.focusOn f).part i = s.part i := rfl
@[simp] theorem State.focusOn_core (s : State) (f : Focus) (i : Nat) : (s.focusOn f).core i = s.core i := rfl
@[simp] theorem State.focusOn_elem (s : State) (f : Focus) (i : Nat) : (s.focusOn f).elem i = s.elem i := rfl
@[simp] theorem State.focusOn_engine (s : State) (f : Focus) (i : Nat) : (s.focusOn f).engine i = s.engine i := rfl
@[simp] theorem State.focusOn_ra (s : State) (f : Focus) (i : Nat) : (s.focusOn f).ra i = s.ra i := rfl
@[simp] theorem State.focusOn_dirE (s : State) (f : Focus) (i : Nat) : (s.focusOn f).dirE i = s.dirE i := rfl
@[simp] theorem State.focusOn_island (s : State) (f : Focus) (i : Nat) : (s.focusOn f).island i = s.island i := rfl

/-! ### A record after a write of it -/

@[simp] theorem State.setCtx_ctx_self (s : State) (k : Nat) (x : Ctx) : (s.setCtx k x).ctx k = x := tgetD_tset_same ..
theorem State.setCtx_ctx_other (s : State) {j : Nat} (k : Nat) (x : Ctx) (h : j ≠ k) : (s.setCtx k x).ctx j = s.ctx j := (tgetD_tset ..).trans (if_neg h)
@[simp] theorem State.updCtx_ctx_self (s : State) (k : Nat) (f : Ctx → Ctx) : (s.updCtx k f).ctx k = f (s.ctx k) := tgetD_tset_same ..
theorem State.updCtx_ctx_other (s : State) {j : Nat} (k : Nat) (f : Ctx → Ctx) (h : j ≠ k) : (s.updCtx k f).ctx j = s.ctx j := (tgetD_tset ..).trans (if_neg h)
@[simp] theorem State.setGang_gang_self (s : State) (g : Nat) (x : Gang) : (s.setGang g x).gang g = x := tgetD_tset_same ..
theorem State.setGang_gang_other (s : State) {j : Nat} (g : Nat) (x : Gang) (h : j ≠ g) : (s.setGang g x).gang j = s.gang j := (tgetD_tset ..).trans (if_neg h)
@[simp] theorem State.setLaunch_launch_self (s : State) (l : Nat) (x : Launch) : (s.setLaunch l x).launch l = x := tgetD_tset_same ..
theorem State.setLaunch_launch_other (s : State) {j : Nat} (l : Nat) (x : Launch) (h : j ≠ l) : (s.setLaunch l x).launch j = s.launch j := (tgetD_tset ..).trans (if_neg h)
@[simp] theorem State.updPart_part_self (s : State) (p : Nat) (f : Part → Part) : (s.updPart p f).part p = f (s.part p) := tgetD_tset_same ..
theorem State.updPart_part_other (s : State) {j : Nat} (p : Nat) (f : Part → Part) (h : j ≠ p) : (s.updPart p f).part j = s.part j := (tgetD_tset ..).trans (if_neg h)
@[simp] theorem State.updCore_core_self (s : State) (c : Nat) (f : Core → Core) : (s.updCore c f).core c = f (s.core c) := tgetD_tset_same ..
theorem State.updCore_core_other (s : State) {j : Nat} (c : Nat) (f : Core → Core) (h : j ≠ c) : (s.updCore c f).core j = s.core j := (tgetD_tset ..).trans (if_neg h)
@[simp] theorem State.setElem_elem_self (s : State) (k : Nat) (e : Elem) : (s.setElem k e).elem k = e := tgetD_tset_same ..
theorem State.setElem_elem_other (s : State) {j : Nat} (k : Nat) (e : Elem) (h : j ≠ k) : (s.setElem k e).elem j = s.elem j := (tgetD_tset ..).trans (if_neg h)
@[simp] theorem State.setEngine_engine_self (s : State) (k : Nat) (e : Engine) : (s.setEngine k e).engine k = e := tgetD_tset_same ..
theorem State.setEngine_engine_other (s : State) {j : Nat} (k : Nat) (e : Engine) (h : j ≠ k) : (s.setEngine k e).engine j = s.engine j := (tgetD_tset ..).trans (if_neg h)
@[simp] theorem State.setRa_ra_self (s : State) (i : Nat) (r : RA) : (s.setRa i r).ra i = r := tgetD_tset_same ..
theorem State.setRa_ra_other (s : State) {j : Nat} (i : Nat) (r : RA) (h : j ≠ i) : (s.setRa i r).ra j = s.ra j := (tgetD_tset ..).trans (if_neg h)
@[simp] theorem State.setDir_dirE_self (s : State) (k : Nat) (e : DirEnt) : (s.setDir k e).dirE k = e := tgetD_tset_same ..
theorem State.setDir_dirE_other (s : State) {j : Nat} (k : Nat) (e : DirEnt) (h : j ≠ k) : (s.setDir k e).dirE j = s.dirE j := (tgetD_tset ..).trans (if_neg h)
@[simp] theorem State.setIsland_island_self (s : State) (k : Nat) (i : Island) : (s.setIsland k i).island k = i := tgetD_tset_same ..
theorem State.setIsland_island_other (s : State) {j : Nat} (k : Nat) (i : Island) (h : j ≠ k) : (s.setIsland k i).island j = s.island j := (tgetD_tset ..).trans (if_neg h)

/-! ### The registers of a context -/

@[simp] theorem Ctx.rg_zero (x : Ctx) : x.rg 0 = 0 := rfl
@[simp] theorem Ctx.wg_zero (x : Ctx) (v : Word) : x.wg 0 v = x := rfl
@[simp] theorem Ctx.wp_zero (x : Ctx) (v : Bool) : x.wp 0 v = x := rfl
@[simp] theorem Ctx.rp_zero (x : Ctx) : x.rp 0 = true := rfl

theorem Ctx.rg_wg_self {x : Ctx} {d : BitVec 5} {v : Word} (h : d ≠ 0) : (x.wg d v).rg d = v := by
  unfold Ctx.wg Ctx.rg
  rw [if_neg h, if_neg h]
  exact Vector.getElem_set_self ..

theorem Ctx.rg_wg_other {x : Ctx} {d r : BitVec 5} {v : Word} (h : r ≠ d) : (x.wg d v).rg r = x.rg r := by
  have : d.toNat ≠ r.toNat := fun e => h (BitVec.eq_of_toNat_eq e.symm)
  unfold Ctx.wg Ctx.rg
  split
  · rfl
  · split
    · rfl
    · exact Vector.getElem_set_ne (by have := d.isLt; omega) (by have := r.isLt; omega) this

theorem Ctx.rg_wg (x : Ctx) (d r : BitVec 5) (v : Word) : (x.wg d v).rg r = if r = d ∧ d ≠ 0 then v else x.rg r := by
  split
  · rename_i h
    rw [h.1, Ctx.rg_wg_self h.2]
  · rename_i h
    by_cases e : r = d
    · have : d = 0 := Decidable.not_not.1 fun n => h ⟨e, n⟩
      rw [this]
      rfl
    · exact Ctx.rg_wg_other e

@[simp] theorem Ctx.rh_wh_self (x : Ctx) (d : BitVec 4) (v : Handle) : (x.wh d v).rh d = v := by simp [Ctx.wh, Ctx.rh]
theorem Ctx.rh_wh_other {x : Ctx} {d r : BitVec 4} {v : Handle} (h : r ≠ d) : (x.wh d v).rh r = x.rh r := by
  have : d.toNat ≠ r.toNat := fun e => h (BitVec.eq_of_toNat_eq e.symm)
  simp [Ctx.wh, Ctx.rh, this]

@[simp] theorem Ctx.wg_status (x : Ctx) (d : BitVec 5) (v : Word) : (x.wg d v).status = x.status := by unfold Ctx.wg; split <;> rfl
@[simp] theorem Ctx.wg_gang (x : Ctx) (d : BitVec 5) (v : Word) : (x.wg d v).gang = x.gang := by unfold Ctx.wg; split <;> rfl
@[simp] theorem Ctx.wg_rank (x : Ctx) (d : BitVec 5) (v : Word) : (x.wg d v).rank = x.rank := by unfold Ctx.wg; split <;> rfl
@[simp] theorem Ctx.wg_pc (x : Ctx) (d : BitVec 5) (v : Word) : (x.wg d v).pc = x.pc := by unfold Ctx.wg; split <;> rfl
@[simp] theorem Ctx.wg_p (x : Ctx) (d : BitVec 5) (v : Word) : (x.wg d v).p = x.p := by unfold Ctx.wg; split <;> rfl
@[simp] theorem Ctx.wg_h (x : Ctx) (d : BitVec 5) (v : Word) : (x.wg d v).h = x.h := by unfold Ctx.wg; split <;> rfl
@[simp] theorem Ctx.wg_trapCause (x : Ctx) (d : BitVec 5) (v : Word) : (x.wg d v).trapCause = x.trapCause := by unfold Ctx.wg; split <;> rfl
@[simp] theorem Ctx.wg_trapPc (x : Ctx) (d : BitVec 5) (v : Word) : (x.wg d v).trapPc = x.trapPc := by unfold Ctx.wg; split <;> rfl
@[simp] theorem Ctx.wg_trapAddr (x : Ctx) (d : BitVec 5) (v : Word) : (x.wg d v).trapAddr = x.trapAddr := by unfold Ctx.wg; split <;> rfl
@[simp] theorem Ctx.wg_trapVec (x : Ctx) (d : BitVec 5) (v : Word) : (x.wg d v).trapVec = x.trapVec := by unfold Ctx.wg; split <;> rfl
@[simp] theorem Ctx.wg_fxFlags (x : Ctx) (d : BitVec 5) (v : Word) : (x.wg d v).fxFlags = x.fxFlags := by unfold Ctx.wg; split <;> rfl
@[simp] theorem Ctx.wg_fxMode (x : Ctx) (d : BitVec 5) (v : Word) : (x.wg d v).fxMode = x.fxMode := by unfold Ctx.wg; split <;> rfl
@[simp] theorem Ctx.wg_handler (x : Ctx) (d : BitVec 5) (v : Word) : (x.wg d v).handler = x.handler := by unfold Ctx.wg; split <;> rfl
@[simp] theorem Ctx.wg_event (x : Ctx) (d : BitVec 5) (v : Word) : (x.wg d v).event = x.event := by unfold Ctx.wg; split <;> rfl
@[simp] theorem Ctx.wg_log (x : Ctx) (d : BitVec 5) (v : Word) : (x.wg d v).log = x.log := by unfold Ctx.wg; split <;> rfl
@[simp] theorem Ctx.wg_slog (x : Ctx) (d : BitVec 5) (v : Word) : (x.wg d v).slog = x.slog := by unfold Ctx.wg; split <;> rfl
@[simp] theorem Ctx.wg_preReq (x : Ctx) (d : BitVec 5) (v : Word) : (x.wg d v).preReq = x.preReq := by unfold Ctx.wg; split <;> rfl
@[simp] theorem Ctx.wg_quads (x : Ctx) (d : BitVec 5) (v : Word) : (x.wg d v).quads = x.quads := by unfold Ctx.wg; split <;> rfl
@[simp] theorem Ctx.wg_lastLoad (x : Ctx) (d : BitVec 5) (v : Word) : (x.wg d v).lastLoad = x.lastLoad := by unfold Ctx.wg; split <;> rfl
@[simp] theorem Ctx.wg_yieldUntil (x : Ctx) (d : BitVec 5) (v : Word) : (x.wg d v).yieldUntil = x.yieldUntil := by unfold Ctx.wg; split <;> rfl
@[simp] theorem Ctx.wg_yieldTurn (x : Ctx) (d : BitVec 5) (v : Word) : (x.wg d v).yieldTurn = x.yieldTurn := by unfold Ctx.wg; split <;> rfl
@[simp] theorem Ctx.wg_wait (x : Ctx) (d : BitVec 5) (v : Word) : (x.wg d v).wait = x.wait := by unfold Ctx.wg; split <;> rfl
@[simp] theorem Ctx.wg_sysc (x : Ctx) (d : BitVec 5) (v : Word) : (x.wg d v).sysc = x.sysc := by unfold Ctx.wg; split <;> rfl
@[simp] theorem Ctx.wg_issued (x : Ctx) (d : BitVec 5) (v : Word) : (x.wg d v).issued = x.issued := by unfold Ctx.wg; split <;> rfl
@[simp] theorem Ctx.wp_status (x : Ctx) (d : BitVec 3) (v : Bool) : (x.wp d v).status = x.status := by unfold Ctx.wp; split <;> rfl
@[simp] theorem Ctx.wp_gang (x : Ctx) (d : BitVec 3) (v : Bool) : (x.wp d v).gang = x.gang := by unfold Ctx.wp; split <;> rfl
@[simp] theorem Ctx.wp_rank (x : Ctx) (d : BitVec 3) (v : Bool) : (x.wp d v).rank = x.rank := by unfold Ctx.wp; split <;> rfl
@[simp] theorem Ctx.wp_pc (x : Ctx) (d : BitVec 3) (v : Bool) : (x.wp d v).pc = x.pc := by unfold Ctx.wp; split <;> rfl
@[simp] theorem Ctx.wp_g (x : Ctx) (d : BitVec 3) (v : Bool) : (x.wp d v).g = x.g := by unfold Ctx.wp; split <;> rfl
@[simp] theorem Ctx.wp_h (x : Ctx) (d : BitVec 3) (v : Bool) : (x.wp d v).h = x.h := by unfold Ctx.wp; split <;> rfl
@[simp] theorem Ctx.wp_trapCause (x : Ctx) (d : BitVec 3) (v : Bool) : (x.wp d v).trapCause = x.trapCause := by unfold Ctx.wp; split <;> rfl
@[simp] theorem Ctx.wp_trapPc (x : Ctx) (d : BitVec 3) (v : Bool) : (x.wp d v).trapPc = x.trapPc := by unfold Ctx.wp; split <;> rfl
@[simp] theorem Ctx.wp_trapAddr (x : Ctx) (d : BitVec 3) (v : Bool) : (x.wp d v).trapAddr = x.trapAddr := by unfold Ctx.wp; split <;> rfl
@[simp] theorem Ctx.wp_trapVec (x : Ctx) (d : BitVec 3) (v : Bool) : (x.wp d v).trapVec = x.trapVec := by unfold Ctx.wp; split <;> rfl
@[simp] theorem Ctx.wp_fxFlags (x : Ctx) (d : BitVec 3) (v : Bool) : (x.wp d v).fxFlags = x.fxFlags := by unfold Ctx.wp; split <;> rfl
@[simp] theorem Ctx.wp_fxMode (x : Ctx) (d : BitVec 3) (v : Bool) : (x.wp d v).fxMode = x.fxMode := by unfold Ctx.wp; split <;> rfl
@[simp] theorem Ctx.wp_handler (x : Ctx) (d : BitVec 3) (v : Bool) : (x.wp d v).handler = x.handler := by unfold Ctx.wp; split <;> rfl
@[simp] theorem Ctx.wp_event (x : Ctx) (d : BitVec 3) (v : Bool) : (x.wp d v).event = x.event := by unfold Ctx.wp; split <;> rfl
@[simp] theorem Ctx.wp_log (x : Ctx) (d : BitVec 3) (v : Bool) : (x.wp d v).log = x.log := by unfold Ctx.wp; split <;> rfl
@[simp] theorem Ctx.wp_slog (x : Ctx) (d : BitVec 3) (v : Bool) : (x.wp d v).slog = x.slog := by unfold Ctx.wp; split <;> rfl
@[simp] theorem Ctx.wp_preReq (x : Ctx) (d : BitVec 3) (v : Bool) : (x.wp d v).preReq = x.preReq := by unfold Ctx.wp; split <;> rfl
@[simp] theorem Ctx.wp_quads (x : Ctx) (d : BitVec 3) (v : Bool) : (x.wp d v).quads = x.quads := by unfold Ctx.wp; split <;> rfl
@[simp] theorem Ctx.wp_lastLoad (x : Ctx) (d : BitVec 3) (v : Bool) : (x.wp d v).lastLoad = x.lastLoad := by unfold Ctx.wp; split <;> rfl
@[simp] theorem Ctx.wp_yieldUntil (x : Ctx) (d : BitVec 3) (v : Bool) : (x.wp d v).yieldUntil = x.yieldUntil := by unfold Ctx.wp; split <;> rfl
@[simp] theorem Ctx.wp_yieldTurn (x : Ctx) (d : BitVec 3) (v : Bool) : (x.wp d v).yieldTurn = x.yieldTurn := by unfold Ctx.wp; split <;> rfl
@[simp] theorem Ctx.wp_wait (x : Ctx) (d : BitVec 3) (v : Bool) : (x.wp d v).wait = x.wait := by unfold Ctx.wp; split <;> rfl
@[simp] theorem Ctx.wp_sysc (x : Ctx) (d : BitVec 3) (v : Bool) : (x.wp d v).sysc = x.sysc := by unfold Ctx.wp; split <;> rfl
@[simp] theorem Ctx.wp_issued (x : Ctx) (d : BitVec 3) (v : Bool) : (x.wp d v).issued = x.issued := by unfold Ctx.wp; split <;> rfl
@[simp] theorem Ctx.wh_status (x : Ctx) (d : BitVec 4) (v : Handle) : (x.wh d v).status = x.status := rfl
@[simp] theorem Ctx.wh_gang (x : Ctx) (d : BitVec 4) (v : Handle) : (x.wh d v).gang = x.gang := rfl
@[simp] theorem Ctx.wh_rank (x : Ctx) (d : BitVec 4) (v : Handle) : (x.wh d v).rank = x.rank := rfl
@[simp] theorem Ctx.wh_pc (x : Ctx) (d : BitVec 4) (v : Handle) : (x.wh d v).pc = x.pc := rfl
@[simp] theorem Ctx.wh_g (x : Ctx) (d : BitVec 4) (v : Handle) : (x.wh d v).g = x.g := rfl
@[simp] theorem Ctx.wh_p (x : Ctx) (d : BitVec 4) (v : Handle) : (x.wh d v).p = x.p := rfl
@[simp] theorem Ctx.wh_trapCause (x : Ctx) (d : BitVec 4) (v : Handle) : (x.wh d v).trapCause = x.trapCause := rfl
@[simp] theorem Ctx.wh_trapPc (x : Ctx) (d : BitVec 4) (v : Handle) : (x.wh d v).trapPc = x.trapPc := rfl
@[simp] theorem Ctx.wh_trapAddr (x : Ctx) (d : BitVec 4) (v : Handle) : (x.wh d v).trapAddr = x.trapAddr := rfl
@[simp] theorem Ctx.wh_trapVec (x : Ctx) (d : BitVec 4) (v : Handle) : (x.wh d v).trapVec = x.trapVec := rfl
@[simp] theorem Ctx.wh_fxFlags (x : Ctx) (d : BitVec 4) (v : Handle) : (x.wh d v).fxFlags = x.fxFlags := rfl
@[simp] theorem Ctx.wh_fxMode (x : Ctx) (d : BitVec 4) (v : Handle) : (x.wh d v).fxMode = x.fxMode := rfl
@[simp] theorem Ctx.wh_handler (x : Ctx) (d : BitVec 4) (v : Handle) : (x.wh d v).handler = x.handler := rfl
@[simp] theorem Ctx.wh_event (x : Ctx) (d : BitVec 4) (v : Handle) : (x.wh d v).event = x.event := rfl
@[simp] theorem Ctx.wh_log (x : Ctx) (d : BitVec 4) (v : Handle) : (x.wh d v).log = x.log := rfl
@[simp] theorem Ctx.wh_slog (x : Ctx) (d : BitVec 4) (v : Handle) : (x.wh d v).slog = x.slog := rfl
@[simp] theorem Ctx.wh_preReq (x : Ctx) (d : BitVec 4) (v : Handle) : (x.wh d v).preReq = x.preReq := rfl
@[simp] theorem Ctx.wh_quads (x : Ctx) (d : BitVec 4) (v : Handle) : (x.wh d v).quads = x.quads := rfl
@[simp] theorem Ctx.wh_lastLoad (x : Ctx) (d : BitVec 4) (v : Handle) : (x.wh d v).lastLoad = x.lastLoad := rfl
@[simp] theorem Ctx.wh_yieldUntil (x : Ctx) (d : BitVec 4) (v : Handle) : (x.wh d v).yieldUntil = x.yieldUntil := rfl
@[simp] theorem Ctx.wh_yieldTurn (x : Ctx) (d : BitVec 4) (v : Handle) : (x.wh d v).yieldTurn = x.yieldTurn := rfl
@[simp] theorem Ctx.wh_wait (x : Ctx) (d : BitVec 4) (v : Handle) : (x.wh d v).wait = x.wait := rfl
@[simp] theorem Ctx.wh_sysc (x : Ctx) (d : BitVec 4) (v : Handle) : (x.wh d v).sysc = x.sysc := rfl
@[simp] theorem Ctx.wh_issued (x : Ctx) (d : BitVec 4) (v : Handle) : (x.wh d v).issued = x.issued := rfl
@[simp] theorem Ctx.goOn_status (x : Ctx) (pc : Word) : (x.goOn pc).status = x.status := rfl
@[simp] theorem Ctx.goOn_gang (x : Ctx) (pc : Word) : (x.goOn pc).gang = x.gang := rfl
@[simp] theorem Ctx.goOn_rank (x : Ctx) (pc : Word) : (x.goOn pc).rank = x.rank := rfl
@[simp] theorem Ctx.goOn_pc (x : Ctx) (pc : Word) : (x.goOn pc).pc = pc := rfl
@[simp] theorem Ctx.goOn_g (x : Ctx) (pc : Word) : (x.goOn pc).g = x.g := rfl
@[simp] theorem Ctx.goOn_p (x : Ctx) (pc : Word) : (x.goOn pc).p = x.p := rfl
@[simp] theorem Ctx.goOn_h (x : Ctx) (pc : Word) : (x.goOn pc).h = x.h := rfl
@[simp] theorem Ctx.goOn_trapCause (x : Ctx) (pc : Word) : (x.goOn pc).trapCause = x.trapCause := rfl
@[simp] theorem Ctx.goOn_trapPc (x : Ctx) (pc : Word) : (x.goOn pc).trapPc = x.trapPc := rfl
@[simp] theorem Ctx.goOn_trapAddr (x : Ctx) (pc : Word) : (x.goOn pc).trapAddr = x.trapAddr := rfl
@[simp] theorem Ctx.goOn_trapVec (x : Ctx) (pc : Word) : (x.goOn pc).trapVec = x.trapVec := rfl
@[simp] theorem Ctx.goOn_fxFlags (x : Ctx) (pc : Word) : (x.goOn pc).fxFlags = x.fxFlags := rfl
@[simp] theorem Ctx.goOn_fxMode (x : Ctx) (pc : Word) : (x.goOn pc).fxMode = x.fxMode := rfl
@[simp] theorem Ctx.goOn_handler (x : Ctx) (pc : Word) : (x.goOn pc).handler = x.handler := rfl
@[simp] theorem Ctx.goOn_event (x : Ctx) (pc : Word) : (x.goOn pc).event = x.event := rfl
@[simp] theorem Ctx.goOn_log (x : Ctx) (pc : Word) : (x.goOn pc).log = x.log := rfl
@[simp] theorem Ctx.goOn_slog (x : Ctx) (pc : Word) : (x.goOn pc).slog = x.slog := rfl
@[simp] theorem Ctx.goOn_preReq (x : Ctx) (pc : Word) : (x.goOn pc).preReq = x.preReq := rfl
@[simp] theorem Ctx.goOn_quads (x : Ctx) (pc : Word) : (x.goOn pc).quads = x.quads := rfl
@[simp] theorem Ctx.goOn_lastLoad (x : Ctx) (pc : Word) : (x.goOn pc).lastLoad = x.lastLoad := rfl
@[simp] theorem Ctx.goOn_yieldUntil (x : Ctx) (pc : Word) : (x.goOn pc).yieldUntil = x.yieldUntil := rfl
@[simp] theorem Ctx.goOn_yieldTurn (x : Ctx) (pc : Word) : (x.goOn pc).yieldTurn = x.yieldTurn := rfl
@[simp] theorem Ctx.goOn_wait (x : Ctx) (pc : Word) : (x.goOn pc).wait = none := rfl
@[simp] theorem Ctx.goOn_sysc (x : Ctx) (pc : Word) : (x.goOn pc).sysc = x.sysc := rfl
@[simp] theorem Ctx.goOn_issued (x : Ctx) (pc : Word) : (x.goOn pc).issued = true := rfl

end Sys2Proof.Machine
end

