-- ==== Sys2Proof/Laws/Ops.lean ====
section
/-! SUPPORT. Everything the shared frames can do: what an instruction of the CP, an op of an element and an op of a trigger
element answer, what taking an exception does, and the turn of a context. -/

namespace Sys2Proof.Machine
open Sys2Proof

/-! ### The frame of an instruction of the CP -/

/-- An instruction whose guard holds has its effect (R10). -/
theorem cpLen_issues {s : State} {k len : Nat} {c : Guard} {body : Nat → Ctx → Res} (h : s.issues k c) :
    s.cpLen len c body = .next ((body k (s.ctx k)).finish s k (s.ctx k).pc len) := by
  unfold State.cpLen
  rw [h.1]
  exact if_pos h.2

/-- An instruction whose guard fails goes on past itself (R10). -/
theorem cpLen_skips {s : State} {k len : Nat} {c : Guard} {body : Nat → Ctx → Res} (hf : s.focus = .ctx k)
    (h : (s.ctx k).guardHolds c = false) : s.cpLen len c body = .next (s.goesTo k ((s.ctx k).pc + BitVec.ofNat 64 len)) := by
  unfold State.cpLen
  rw [hf]
  exact if_neg (by simp [h])

theorem cp_issues {s : State} {k : Nat} {c : Guard} {body : Nat → Ctx → Res} (h : s.issues k c) :
    s.cp c body = .next ((body k (s.ctx k)).finish s k (s.ctx k).pc 4) := cpLen_issues h

theorem cp_skips {s : State} {k : Nat} {c : Guard} {body : Nat → Ctx → Res} (hf : s.focus = .ctx k)
    (h : (s.ctx k).guardHolds c = false) : s.cp c body = .next (s.goesTo k ((s.ctx k).pc + 4)) := cpLen_skips hf h

/-- Everything the frame can do. -/
theorem cpLen_cases {s t : State} {len : Nat} {c : Guard} {body : Nat → Ctx → Res} (h : s.cpLen len c body = .next t) :
    ∃ k, s.focus = .ctx k ∧
      (((s.ctx k).guardHolds c = true ∧ t = (body k (s.ctx k)).finish s k (s.ctx k).pc len) ∨
        ((s.ctx k).guardHolds c = false ∧ t = s.goesTo k ((s.ctx k).pc + BitVec.ofNat 64 len))) := by
  unfold State.cpLen at h
  split at h
  · rename_i k hf
    refine ⟨k, hf, ?_⟩
    dsimp only at h
    split at h
    · cases h
      exact .inl ⟨‹_›, rfl⟩
    · cases h
      exact .inr ⟨Bool.eq_false_iff.2 ‹_›, rfl⟩
  · cases h

@[simp] theorem finish_done (t s : State) (k len : Nat) (pc : Word) :
    (Res.done t).finish s k pc len = t.goesTo k (pc + BitVec.ofNat 64 len) := rfl
@[simp] theorem finish_jump (t s : State) (k len : Nat) (pc a : Word) : (Res.jump t a).finish s k pc len = t.goesTo k a := rfl
@[simp] theorem finish_wait (t s : State) (k len : Nat) (pc : Word) (w : WaitWhy) :
    (Res.wait t w).finish s k pc len = t.updCtx k (fun x => x.waiting w s.clock) := rfl
@[simp] theorem finish_trap (s : State) (k len : Nat) (pc : Word) (t : Trap) : (Res.trap t).finish s k pc len = s.takeTrap k t := rfl
@[simp] theorem finish_stop (t s : State) (k len : Nat) (pc : Word) : (Res.stop t).finish s k pc len = t := rfl

theorem finish_setsG (s : State) (k : Nat) (d : BitVec 5) (v : Word) :
    (s.setsG k d v).finish s k (s.ctx k).pc 4 = s.wroteG k d v := rfl
theorem finish_setsP (s : State) (k : Nat) (d : BitVec 3) (v : Bool) :
    (s.setsP k d v).finish s k (s.ctx k).pc 4 = s.wroteP k d v := rfl

@[simp] theorem goesTo_ctx_self (t : State) (k : Nat) (pc : Word) : (t.goesTo k pc).ctx k = (t.ctx k).goOn pc :=
  State.updCtx_ctx_self ..
theorem goesTo_ctx_other {t : State} {k j : Nat} {pc : Word} (h : j ≠ k) : (t.goesTo k pc).ctx j = t.ctx j :=
  State.updCtx_ctx_other _ _ _ h

/-- What writing one g register leaves of its context (R199). -/
theorem wroteG_ctx_self (s : State) (k : Nat) (d : BitVec 5) (v : Word) :
    (s.wroteG k d v).ctx k = ((s.ctx k).wg d v).goOn ((s.ctx k).pc + 4) := by
  unfold State.wroteG
  rw [goesTo_ctx_self, State.updCtx_ctx_self]

theorem wroteG_ctx_other {s : State} {k j : Nat} {d : BitVec 5} {v : Word} (h : j ≠ k) : (s.wroteG k d v).ctx j = s.ctx j := by
  unfold State.wroteG
  rw [goesTo_ctx_other h, State.updCtx_ctx_other _ _ _ h]

theorem wroteP_ctx_self (s : State) (k : Nat) (d : BitVec 3) (v : Bool) :
    (s.wroteP k d v).ctx k = ((s.ctx k).wp d v).goOn ((s.ctx k).pc + 4) := by
  unfold State.wroteP
  rw [goesTo_ctx_self, State.updCtx_ctx_self]

theorem wroteP_ctx_other {s : State} {k j : Nat} {d : BitVec 3} {v : Bool} (h : j ≠ k) : (s.wroteP k d v).ctx j = s.ctx j := by
  unfold State.wroteP
  rw [goesTo_ctx_other h, State.updCtx_ctx_other _ _ _ h]

/-! ### The frames of the elements -/

/-- An element whose operands and destinations are ready fires (R116). -/
theorem element_fires {s : State} {k code : Nat} {t : Site} {w : ElWord} {f : Site → List Dir → List (Dir × BitVec 3) → State}
    {deq : List Dir} {outs : List (Dir × BitVec 3)} (h : s.acts k t) (hr : s.ready t code w = .go deq outs) :
    s.element code w f = .next (f t deq outs) := by
  obtain ⟨hf, ht, he, hc⟩ := h
  unfold State.element
  simp [hf, ht, he, hc, hr]

/-- An element whose operands are not there waits for them (R116). -/
theorem element_waits_operand {s : State} {k code : Nat} {t : Site} {w : ElWord}
    {f : Site → List Dir → List (Dir × BitVec 3) → State} (h : s.acts k t) (hr : s.ready t code w = .operand) :
    s.element code w f = .next (s.stallAt k false) := by
  obtain ⟨hf, ht, he, hc⟩ := h
  unfold State.element
  simp [hf, ht, he, hc, hr]

/-- An element whose destinations are full waits for room (R116). -/
theorem element_waits_space {s : State} {k code : Nat} {t : Site} {w : ElWord}
    {f : Site → List Dir → List (Dir × BitVec 3) → State} (h : s.acts k t) (hr : s.ready t code w = .space) :
    s.element code w f = .next (s.stallAt k true) := by
  obtain ⟨hf, ht, he, hc⟩ := h
  unfold State.element
  simp [hf, ht, he, hc, hr]

/-- A trigger instruction whose conditions do not hold is not issued (R117). -/
theorem trigger_waits_operand {s : State} {k op : Nat} {t : Site} {w : TrWord} {f : Site → Tok → State} (h : s.acts k t)
    (hw : t.e.trigHolds (s.cycE k) w = false) : s.trigger op w f = .next (s.stallAt k false) := by
  obtain ⟨hf, ht, he, hc⟩ := h
  unfold State.trigger
  simp [hf, ht, he, hc, hw]

/-- A trigger instruction whose side effect has no room is not issued (R117). -/
theorem trigger_waits_space {s : State} {k op : Nat} {t : Site} {w : TrWord} {f : Site → Tok → State} (h : s.acts k t)
    (hw : t.e.trigHolds (s.cycE k) w = true) (hr : s.trigRoom t op w = false) : s.trigger op w f = .next (s.stallAt k true) := by
  obtain ⟨hf, ht, he, hc⟩ := h
  unfold State.trigger
  simp [hf, ht, he, hc, hw, hr]

/-! ### Taking an exception -/

/-- A trap that is no fatal error, with a vector and outside the handler, is recorded and enters the handler (R310). -/
theorem takeTrap_vectors {s : State} {k : Nat} {t : Trap} (h : t.code ≠ 0x0B) (hv : ((s.ctx k).recordTrap t).vectors = true) :
    s.takeTrap k t = s.setCtx k { (s.ctx k).recordTrap t with
      handler := true, pc := handlerPc ((s.ctx k).recordTrap t).trapVec } := by
  unfold State.takeTrap
  simp [h, hv]

/-- A trap that is no fatal error and does not vector reduces the application by XFAIL with its code (R310). -/
theorem takeTrap_fails {s : State} {k : Nat} {t : Trap} (h : t.code ≠ 0x0B) (hv : ((s.ctx k).recordTrap t).vectors = false) :
    s.takeTrap k t = (s.setCtx k ((s.ctx k).recordTrap t)).failGang k t.code := by
  unfold State.takeTrap
  simp [h, hv]

/-- ECC_FATAL is recorded and ends its gang (R311). -/
theorem takeTrap_fatal {s : State} {k : Nat} {t : Trap} (h : t.code = 0x0B) :
    s.takeTrap k t = (s.setCtx k ((s.ctx k).recordTrap t)).eccFatal ((s.ctx k).recordTrap t).gang := by
  unfold State.takeTrap
  simp [h]

/-- What `lowestFree` answers is free, and none is answered only where none is free. -/
theorem lowestFree_some {α : Type} {t : Tab α} {base : Nat} : ∀ {f i m : Nat}, lowestFree t base i f = some m →
    i ≤ m ∧ m < i + f ∧ tget? t (base + m) = none
  | 0, _, _, h => by cases h
  | f + 1, i, m, h => by
    unfold lowestFree at h
    split at h
    · next g =>
      cases h
      exact ⟨Nat.le_refl _, by omega, Option.isNone_iff_eq_none.1 g⟩
    · have := lowestFree_some h
      exact ⟨by omega, by omega, this.2.2⟩

theorem lowestFree_none {α : Type} {t : Tab α} {base : Nat} : ∀ {f i m : Nat}, lowestFree t base i f = none → i ≤ m →
    m < i + f → tget? t (base + m) ≠ none
  | 0, _, _, _, _, _ => by omega
  | f + 1, i, m, h, hi, hm => by
    unfold lowestFree at h
    split at h
    · cases h
    · next g =>
      rcases Nat.eq_or_lt_of_le hi with e | e
      · subst e; intro c; exact g (Option.isNone_iff_eq_none.2 c)
      · exact lowestFree_none h e (by omega)

/-- `freePlan` answers a number below 8,192 that is free, or that of a plan released and through its runs (R251). -/
theorem freePlan_some {s : State} {part m : Nat} (h : s.freePlan part = some m) :
    m < 8192 ∧ (tget? s.plans (part * 8192 + m) = none ∨
      ∃ e ∈ s.plans, e.1 / 8192 = part ∧ m = e.1 % 8192 ∧ e.2.released = true ∧ e.2.done = e.2.fires) := by
  unfold State.freePlan at h
  simp only [Option.or_eq_some_iff] at h
  have hs : (Config.freeWord s.freeCtr).toNat % 8192 < 8192 := Nat.mod_lt _ (by omega)
  rcases h with (h | ⟨-, h⟩) | ⟨-, h⟩
  · have := lowestFree_some h
    exact ⟨by omega, .inl this.2.2⟩
  · have := lowestFree_some h
    exact ⟨by omega, .inl this.2.2⟩
  · obtain ⟨e, he, rfl⟩ := Option.map_eq_some_iff.1 h
    have q := List.find?_some he
    simp only [Bool.and_eq_true, beq_iff_eq] at q
    exact ⟨Nat.mod_lt _ (by omega), .inr ⟨e, List.mem_of_find?_eq_some he, q.1.1, rfl, q.1.2, q.2⟩⟩

theorem freePlan_none {s : State} {part m : Nat} (h : s.freePlan part = none) (hm : m < 8192) :
    tget? s.plans (part * 8192 + m) ≠ none := by
  unfold State.freePlan at h
  simp only [Option.or_eq_none_iff] at h
  have hs : (Config.freeWord s.freeCtr).toNat % 8192 < 8192 := Nat.mod_lt _ (by omega)
  by_cases c : (Config.freeWord s.freeCtr).toNat % 8192 ≤ m
  · exact lowestFree_none h.1.1 c (by omega)
  · exact lowestFree_none h.1.2 (Nat.zero_le _) (by omega)

/-! ### Frames -/

theorem foldl_count {α : Type} (p : α → Prop) [DecidablePred p] (l : List α) (n : Nat) :
    l.foldl (fun n e => if p e then n + 1 else n) n = n + (l.filter fun e => decide (p e)).length := by
  induction l generalizing n with
  | nil => rfl
  | cons e r ih =>
    by_cases h : p e
    · simp [h, ih]; omega
    · simp [h, ih]

/-- `usedFrames` counts the entries of a core. -/
theorem usedFrames_eq (s : State) (core : Nat) :
    s.usedFrames core = (s.frames.filter fun e => decide (e.1 / 4096 = core)).length := by
  unfold State.usedFrames
  rw [foldl_count fun e : Nat × Frame => e.1 / 4096 = core, Nat.zero_add]

/-- A table that has every key of a range has as many entries there. -/
theorem le_countP_of_tget {α : Type} (t : Tab α) (base : Nat) :
    ∀ n, (∀ m < n, tget? t (base + m) ≠ none) → n ≤ t.countP fun e => decide (base ≤ e.1 ∧ e.1 < base + n)
  | 0, _ => Nat.zero_le _
  | n + 1, h => by
    have split : t.countP (fun e => decide (base ≤ e.1 ∧ e.1 < base + (n + 1))) =
        t.countP (fun e => decide (base ≤ e.1 ∧ e.1 < base + n)) + t.countP fun e => decide (e.1 = base + n) := by
      clear h
      induction t with
      | nil => rfl
      | cons e r ih =>
        simp only [List.countP_cons, ih, decide_eq_true_eq]
        split <;> split <;> split <;> omega
    obtain ⟨v, hv⟩ := Option.ne_none_iff_exists'.1 (h n (by omega))
    have pos : 0 < t.countP fun e => decide (e.1 = base + n) := List.countP_pos_iff.2 ⟨_, mem_of_tget hv, by simp⟩
    have := le_countP_of_tget t base n fun m hm => h m (by omega)
    omega

/-- A core that has fewer than 4,096 frames in use has a free one (R83). -/
theorem freeFrame_of_usedFrames {s : State} {core : Nat} (h : s.usedFrames core < 4096) : ∃ f < 4096, s.freeFrame core = some f := by
  cases g : s.freeFrame core with
  | some f => exact ⟨f, by have := lowestFree_some g; omega, rfl⟩
  | none =>
    exfalso
    rw [usedFrames_eq, ← List.countP_eq_length_filter] at h
    have := le_countP_of_tget s.frames (core * 4096) 4096 fun m hm => lowestFree_none g (Nat.zero_le m) (by omega)
    have := List.countP_mono_left (l := s.frames) (p := fun e => decide (core * 4096 ≤ e.1 ∧ e.1 < core * 4096 + 4096))
      (q := fun e => decide (e.1 / 4096 = core)) fun e _ he => by simp only [decide_eq_true_eq] at he ⊢; omega
    omega

/-- A range with no free key has no lowest free one. -/
theorem lowestFree_full {α : Type} {t : Tab α} {base : Nat} :
    ∀ (f i : Nat), (∀ j, i ≤ j → j < i + f → tget? t (base + j) ≠ none) → lowestFree t base i f = none
  | 0, _, _ => rfl
  | f + 1, i, h => by
    rw [lowestFree, if_neg (by simpa using h i (Nat.le_refl i) (by omega))]
    exact lowestFree_full f (i + 1) fun j hj hk => h j (by omega) (by omega)

theorem tget_ne_none_of_mem {α : Type} {t : Tab α} {k : Nat} {v : α} (h : (k, v) ∈ t) : tget? t k ≠ none := by
  induction t with
  | nil => cases h
  | cons e r ih =>
    rw [tget_cons]
    split
    · simp
    · rename_i ne
      refine ih ((List.mem_cons.1 h).resolve_left fun g => ne ?_)
      rw [← g]

/-- An entry more or an entry replaced. -/
theorem length_filter_tset_le {α : Type} (t : Tab α) (k : Nat) (v : α) (p : Nat → Bool) :
    ((tset t k v).filter fun e => p e.1).length ≤ (t.filter fun e => p e.1).length + 1 := by
  induction t with
  | nil => by_cases h : p k <;> simp [tset, h]
  | cons e r ih =>
    unfold tset
    split
    · by_cases h : p k <;> simp [h]
    · split
      · rename_i h; subst h
        by_cases h : p e.1 <;> simp [h]
      · by_cases h : p e.1 <;> simp [h] <;> omega

/-- A frame given to a page takes one more of its core's at most (R83). -/
theorem usedFrames_tset_le (s : State) (core k : Nat) (f : Frame) :
    ({ s with frames := tset s.frames k f } : State).usedFrames core ≤ s.usedFrames core + 1 := by
  simp only [usedFrames_eq]
  exact length_filter_tset_le s.frames k f fun j => decide (j / 4096 = core)

/-! ### The turn of a context (R190, R233, R309) -/

/-- A turn of a context whose instruction no hold stalls issues it. -/
theorem takeIssue_eq {s : State} {core ctx : Nat} (h : s.readHeld core ctx = false) : s.takeIssue core ctx = s.issue core ctx := by
  unfold State.takeIssue
  simp only [h]
  split
  · rename_i h'; rw [h']; rfl
  · rfl

/-- What a turn that a hold stalls does: the wait of the instruction, and the turn is not taken (R190). -/
theorem takeIssue_held {s : State} {core ctx : Nat} (h : s.readHeld core ctx = true) :
    ∃ s1, s.issue core ctx = .next s1 ∧ (s1.ctx (core * 8 + ctx)).heldWait = true
      ∧ s.takeIssue core ctx = .next { s1 with cores := s.cores } := by
  have h' := h
  unfold State.readHeld at h'
  simp only [Bool.and_eq_true] at h'
  unfold State.takeIssue
  match he : s.issue core ctx with
  | .next s1 => exact ⟨s1, rfl, by simpa [he] using h'.2, by simp [h]⟩
  | .fault f => simp [he] at h'
  | .refused r => simp [he] at h'

end Sys2Proof.Machine
end

