-- ==== Sys2Proof/Tests/Slice0.lean ====
section
/-! SUPPORT. The model's own tests: ill-formed terms, words and results of the spec's worked examples, and for each statement
a state and operands that meet its hypotheses. -/

namespace Sys2Proof.Tests
open Sys2Proof Sys2Proof.Machine

-- One test after another: a thread for each kernel evaluation would take more memory than the check has.
set_option Elab.async false

/-- The guard 0000. -/
def no : Guard := .always

/-- An element word whose fields are all unused ones. -/
def blankEl : ElWord := ⟨7, 7, 7, 0, 0, 0, 0, 0, 0, 0, 0, 0, 0⟩
/-- A trigger word that names nothing. -/
def blankTr : TrWord := ⟨0, 0, 0, 0, 0, false, false, 0, false, 0, 0, 0⟩

/-! ### Ill-formed terms: one for each check -/

theorem test_illFormed_cp : ∀ i ∈ [Instr.add ⟨true, 0⟩ false 1 2 3, .sext no false 1 2 3, .zext no true 1 2 31, .cmp no false 1 2 3 6,
    .cmpi no 1 7 2 0, .fcmp no 1 2 3 6, .fcvt no 1 2 10 false 9 0, .fcvt no 1 2 9 false 10 0, .fcvt no 1 2 5 true 4 0,
    .fcvt no 1 2 0 false 1 1, .loop no 0 3, .fnc no 3 0, .fnc no 0 6, .aadd no 1 2 3 6, .gets no 1 34, .sets no 1 34,
    .talloc no 1 2 3 11 false, .tld no 1 2 3 5 false 0, .tld no 1 2 3 0 false 3, .tst no 1 2 3 1 0, .tst no 1 2 3 0 3,
    .trred no 1 2 1 0, .trred no 1 2 0 6, .swait no 0 6, .sbind no 0 1 2, .gload no 6 1, .gpatch no 0 1, .gseed no 3 1 2],
    i.wellFormed = false := by decide

theorem test_illFormed_element : ∀ i ∈ [Instr.eAdd { blankEl with a := 7, b := 3 }, .eAdd { blankEl with a := 0, b := 3, p := 0 },
    .eAdd { blankEl with a := 0, b := 3, cond := 1 }, .eAdd { blankEl with a := 0, b := 3, aux := 1 },
    .eAdd { blankEl with a := 0, b := 3, imm := 5 }, .eAdd { blankEl with a := 4, b := 4 }, .eSteer { blankEl with a := 0, p := 1 },
    .eAdd { blankEl with a := 0, b := 3, dN := 6 }, .eAdd { blankEl with a := 0, b := 3, tagMode := 2, tag := 31 },
    .eLd { blankEl with a := 0, cond := 3, aux := 0x10 }, .eTagchk { blankEl with a := 0, imm := 31 },
    .eSink { blankEl with a := 0, dE := 1 }], i.wellFormed = false := by decide

theorem test_illFormed_trigger : ∀ i ∈ [Instr.tDeq { blankTr with deq := 8 }, .tMov { blankTr with operand := 8, head := 8 },
    .tHalt { blankTr with operand := 1 }, .tMma { blankTr with head := 0 }], i.wellFormed = false := by decide

theorem test_wellFormed : ∀ i ∈ [Instr.add no true 3 4 5, .loop no 6 3, .fcvt no 3 4 9 true 5 0, .trred no 1 2 2 2,
    .gload no 15 1, .eAdd { blankEl with a := 0, b := 3, dE := 1 }, .tHalt blankTr], i.wellFormed = true := by decide

/-! ### Words of the spec's worked examples -/

theorem test_word_integer : decodeTableWord 32 0x04032160 = some (.add no true 3 4 5) ∧
    decodeTableWord 32 0x0403215A = some (.sel no 3 4 5 2) ∧ decodeTableWord 32 0x18022142 = some (.cmp no false 2 4 5 2) := by decide

theorem test_word_immediate : decodeTableWord 32 0x1A048402 = some (.cmpi no 1 1 1 2) ∧
    decodeTableWord 64 0x1234567814040000 = some (.ldi no 4 0x12345678) := by decide

/-- R201 and the guard fields: ?!p1 ADDI g5, g5, -1. -/
theorem test_word_guarded : decodeTableWord 32 (0x03 * 2 ^ 25 + 9 * 2 ^ 21 + 5 * 2 ^ 16 + 5 * 2 ^ 11 + 0x7FF) =
    some (.addi ⟨true, 1⟩ 5 5 0x7FF) := by decide

theorem test_word_conversion : decodeTableWord 32 0x220324D4 = some (.fcvt no 3 4 9 true 5 0) ∧
    decodeTableWord 32 0x24032011 = some (.ftoi no 3 4 false 2 1) ∧ decodeTableWord 32 0x24032015 = none ∧
    decodeTableWord 32 0x24032091 = none := by decide

theorem test_word_control : decodeTableWord 32 0x32000005 = some (.brl no 5) ∧ decodeTableWord 32 0x3400F800 = some (.jmp no 31 0) ∧
    decodeTableWord 32 0x38003003 = some (.loop no 6 3) ∧ decodeTableWord 32 0x3401F800 = none := by decide

theorem test_word_memory : decodeTableWord 32 0x400717FE = some (.ld no 7 2 3 (-2)) ∧ decodeTableWord 32 0x4E00000C = some (.fnc no 1 4) ∧
    decodeTableWord 32 0x50032160 = some (.aadd no 3 4 5 4) ∧ decodeTableWord 32 0x5007126E = some (.acas no 7 2 9 5) := by decide

theorem test_word_system : decodeTableWord 32 0x58051801 = some (.bara no 5 3) ∧ decodeTableWord 32 0x60140008 = some (.gets no 20 8) ∧
    decodeTableWord 32 0x68000042 = some (.trap no 0x42) := by decide

/-- R236, R243, R247, R253, R259: one word of each of the families of tiles, expressions, the tree, streams and the grid. -/
theorem test_word_units : ∀ p ∈ [(0x38 * 2 ^ 25 + 3 * 2 ^ 16 + 4 * 2 ^ 11 + 5 * 2 ^ 6 + 10, Instr.talloc no 3 4 5 2 true),
    (0x4B * 2 ^ 25 + 2 * 2 ^ 16 + 7 * 2 ^ 11 + 1, .xargH no 2 7), (0x58 * 2 ^ 25 + 1 * 2 ^ 16 + 2 * 2 ^ 11 + 3 * 2 ^ 6 + 8, .trbcH no 1 2 3),
    (0x5F * 2 ^ 25 + 3 * 2 ^ 11, .cdrop no 3), (0x64 * 2 ^ 25 + 5 * 2 ^ 16 + 1 * 2 ^ 11 + 1 * 2 ^ 6 + 2, .sagenPantry no 5 33),
    (0x78 * 2 ^ 25 + 6 * 2 ^ 16 + 5 * 2 ^ 11 + 1, .gstallFlags no 6 5)], decodeTableWord 32 p.1 = some p.2 := by decide

theorem test_word_element :
    decodeElem 0x2CE0040000003F00 = some (.eFfma ⟨3, 4, 0, 0, 1, 0, 0, 0, 0, 0, 0, 0, 0x3F00⟩) ∧
    decodeElem 0x42C2100002120000 = some (.eSt ⟨3, 0, 2, 0, 4, 0, 0, 0, 0, 0, 2, 0x12, 0⟩) ∧
    decodeElem 0x46BF240FC0000000 = some (.eOrdf ⟨2, 7, 7, 1, 1, 0, 0, 31, 2, 0, 0, 0, 0⟩) ∧
    (Instr.eFfma ⟨3, 4, 0, 0, 1, 0, 0, 0, 0, 0, 1, 0, 0x3F00⟩).wellFormed = false := by decide

/-- The trigger line of the notation: head S, tag 5 on S, op 0x0E, dequeue S, operand 3. -/
theorem test_word_trigger : decodeTrig 0x80001168E0020003 = some (.tMov ⟨0, 0, 2, 5, 2, true, false, 0, false, 0, 2, 3⟩) ∧
    decodeTrig 0x00001168E0020003 = none := by decide

/-! ### Results of the spec's worked examples -/

/-- A gang of two on cores 0 and 1 that runs operator 1 of launch slot 0. -/
def gang1 (fx : Bool) : Gang :=
  { part := 0, slot := 0, op := 1, ra := 1, effects := fx, members := [0, 8], colls := [none, none], ncoll := [0, 0]
    commits := [false, false], started := true }

/-- A running member with registers. -/
def member (l : List (BitVec 5 × Word)) : Ctx :=
  l.foldl (fun x e => x.wg e.1 e.2) { status := .running, gang := 1, pc := 0x100, quads := [0] }

/-- One partition of one cluster, one launch, one application `(7 λx 3).(4, 5)` whose gang runs: context 0 acts. The TLB of core 0
maps the page at 0x10000 to the pinned aperture, that at 0x20000 to the trigger of plan 5. -/
def on (x : Ctx) (fx : Bool := true) : State :=
  { parts := [(0, { clusters := 1, ports := 2, map := [0], split := [(0, 0x804)] })], launches := [(0, { state := 2, nextPage := 9, root := some (2 ^ 51 + 0x8000) })]
    gangs := [(1, gang1 fx)], ras := [(1, { part := 0, slot := 0, cell := 8, agePass := 1, ageCell := 8, st := .placed 1 })], nextRa := 2
    ctxs := [(0, x), (8, { x with rank := 1 })], focus := .ctx 0, clock := 100000
    row := [(8, ⟨0x3000000000000000, 0⟩), (10, ⟨0x6000000700000003, 0⟩), (12, ⟨0x4000000000000000, 0⟩), (14, ⟨0x1000000000000000, 0⟩),
      (16, ⟨0x7000000000000007, 0⟩), (18, ⟨0x9000000000000009, 0⟩), (20, ⟨0x2000000000000000, 0⟩), (22, ⟨0x5000000000000000, 0⟩)]
    tlb := [⟨0, 0, 0, 1, 16, 2 ^ 51, true, 0, true⟩, ⟨0, 0, 0, 2, 16, 2 ^ 51 + 2 ^ 32, true, 0, true⟩] }

theorem on_issues (x : Ctx) (fx : Bool) : (on x fx).issues 0 no := ⟨rfl, rfl⟩

/-- The context after an instruction. -/
def after (i : Instr) (s : State) : Ctx := match exec i s with | .next t => t.ctx 0 | _ => {}
/-- g3 after an instruction of the context with registers, and its flags. -/
def g3 (i : Instr) (l : List (BitVec 5 × Word)) : Word × BitVec 5 := let x := after i (on (member l)); (x.rg 3, x.fxFlags)

theorem test_mul_w : g3 (.mul no true 3 4 4) [(4, 0x80000001)] = (1, 0) ∧ g3 (.mulhz no false 3 4 4) [(4, 0x80000001)] = (0, 0) := by decide

theorem test_integer_corners : g3 (.div no false 3 4 5) [(4, 7)] = (-1, 0) ∧ g3 (.divz no true 3 4 5) [(4, 7)] = (-1, 0) ∧
    g3 (.div no true 3 4 5) [(4, 0x80000000), (5, -1)] = (0xFFFFFFFF80000000, 0) ∧ g3 (.rem no false 3 4 5) [(4, -7), (5, 2)] = (-1, 0) ∧
    g3 (.sar no true 3 4 5) [(4, 0x80000000), (5, 33)] = (0xFFFFFFFFC0000000, 0) ∧ g3 (.clz no true 3 4) [(4, 0)] = (32, 0) := by decide

/-- R160: 300.0, 460.0, 470.0 to E4M3, with and without saturation, and 60000.0 to E5M2. -/
theorem test_fcvt_fp8 : g3 (.fcvt no 3 4 9 false 5 0) [(4, 0x43960000)] = (0x79, 16) ∧ g3 (.fcvt no 3 4 9 false 5 0) [(4, 0x43E60000)] = (0x7E, 16) ∧
    g3 (.fcvt no 3 4 9 false 5 0) [(4, 0x43EB0000)] = (0x7F, 20) ∧ g3 (.fcvt no 3 4 9 true 5 0) [(4, 0x43EB0000)] = (0x7E, 20) ∧
    g3 (.fcvt no 3 4 9 false 6 0) [(4, 0x476A6000)] = (0x7B, 16) ∧ g3 (.fcvt no 3 4 9 false 6 0) [(4, 0xFFC00001)] = (0x7E, 0) := by decide +kernel

/-- R161: 2.5, -2.5 under RU, 3.0e9, and -1.5 and -0.4 to unsigned. -/
theorem test_ftoi : g3 (.ftoi no 3 4 false 2 0) [(4, 0x40200000)] = (2, 16) ∧ g3 (.ftoi no 3 4 false 2 2) [(4, 0xC0200000)] = (-2, 16) ∧
    g3 (.ftoi no 3 4 false 2 0) [(4, 0x4F32D05E)] = (2147483647, 1) ∧ g3 (.ftoi no 3 4 true 2 0) [(4, 0xBFC00000)] = (0, 1) ∧
    g3 (.ftoi no 3 4 true 2 0) [(4, 0xBECCCCCD)] = (0, 16) := by decide +kernel

/-- R168 to R171: EXP2 of 1.5, -3.0 and -149.5, LOG2 of 0.25 and -0.0, RCP of -0.25. -/
theorem test_functions : g3 (.fexp2 no 3 4) [(4, 0x3FC00000)] = (0x403504F3, 16) ∧ g3 (.fexp2 no 3 4) [(4, 0xC0400000)] = (0x3E000000, 0) ∧
    g3 (.fexp2 no 3 4) [(4, 0xC3158000)] = (1, 24) ∧ g3 (.flog2 no 3 4) [(4, 0x3E800000)] = (0xC0000000, 0) ∧
    g3 (.flog2 no 3 4) [(4, 0x80000000)] = (0xFF800000, 2) ∧ g3 (.frcp no 3 4) [(4, 0xBE800000)] = (0xC0800000, 0) := by decide +kernel

/-- R164: code 12 with b = 127 and S = 0.5. -/
theorem test_nq4_value : (nq4Value 12 127 0x3F000000).1 = 0x3DD40000 := by decide +kernel

/-- The walk of the spec: a root table at DPA 0x4000000000 and its four entries, through route table entry 0. -/
def walks : State :=
  { on (member []) with
    dev := { ports := [(1, ⟨true, false, false⟩)] }
    parts := [(0, { clusters := 1, ports := 2, routes := [(0, 0x8008000000000002)] })]
    launches := [(0, { state := 2, root := some 0x4000000000 })]
    mem := [(0x40000007F0, 0x0000004000001001), (0x4000001800, 0x0000004000002001), (0x40000028D0, 0x0000004000003001),
      (0x4000003028, 0x0000005200030007)].foldl (fun m e => mwrite m (2 ^ 52 + e.1) 8 e.2) [] }

theorem test_walk : (match walks.translate 0 0 0x7F4023456789 false with
    | .ok (t, x) => (x, mread t.mem (2 ^ 52 + 0x4000003028) 8)
    | .error _ => (⟨0, .trig 0, 0⟩, 0)) = (⟨0x5200036789, .mem (2 ^ 52 + 0x5200036789), 0⟩, 0x0000005200030027) := by decide +kernel

/-- MISALIGN comes before DVA_FAULT: LD.w g3, [g9+2] with g9 = 0x1001. -/
theorem test_misalign_first : let x := after (.ld no 3 9 2 2) (on (member [(9, 0x1001)]))
    (x.trapCause, x.trapAddr, x.trapPc) = (3, 0x1009, 0x100) := by decide

/-- What holds of the next state of an instruction. -/
def nextIs (i : Instr) (s : State) (f : State → Bool) : Bool := match exec i s with | .next t => f t | _ => false

/-- TRAP 0x42 without a handler: the application fails with ERR of code 9 in the low half. -/
theorem test_unhandled_trap : nextIs (.trap no 0x42) (on (member [])) (fun t => (t.ra 1).result == [0xB000000000000009] &&
    (t.ra 1).st == .accepted && (t.ctx 0).status == .committed) := by decide

theorem test_handled_trap : let x := after (.trap no 0x42) (on { member [] with trapVec := 0x41 })
    (x.trapCause, x.trapPc, x.trapAddr, x.handler, x.pc) = (0x420009, 0x100, 0, true, 0x40) := by decide

/-! ### The hypotheses of the statements, met -/

/-- What holds of an answer. -/
def good {ε α : Type} (r : Except ε α) (f : α → Bool) : Bool := match r with | .ok a => f a | .error _ => false
/-- What holds of an error. -/
def bad {ε α : Type} (r : Except ε α) (f : ε → Bool) : Bool := match r with | .ok _ => false | .error e => f e
/-- The DVA of core 0 reaches a place of the DPA and of the part. -/
def reaches (s : State) (dva : Word) (write : Bool) (dpa : Nat) (at_ : Target) : Bool :=
  good (s.translate 0 0 dva write) fun r => r.2 == ⟨dpa, at_, 0⟩

/-- O1: a guard that fails, and the reserved guard. -/
theorem test_meets_FailedGuardHasNoEffect : (Instr.nop ⟨false, 1⟩).guard? = some ⟨false, 1⟩ ∧ (on (member [])).focus = .ctx 0 ∧
    ((on (member [])).ctx 0).guardHolds ⟨false, 1⟩ = false ∧ (0xFF1FFFFF#32).extractLsb' 21 4 = 8#4 := by decide

/-- The statements whose one hypothesis is that the instruction issues: IntegerArithmeticAndLogic, IntegerShiftsAndSelections,
SelectionAndImmediates, PredicateOperations, Comparisons, BranchesAndLoops, ResultLogAppends. -/
theorem test_meets_issues : (on (member [(4, 7)])).issues 0 no ∧ (2#5).toNat < 3 ∧ (1#3) ≠ 0 ∧ (1#5) ≠ 0 := ⟨on_issues _ _, by decide⟩

theorem test_meets_PredicateOperations : (1#3 ≠ 0 ∧ 2#3 ≠ 1#3) ∧ (0x1E000004#32).extractLsb' 25 7 = 0x0F#7 ∧
    4 ≤ ((0x1E000004#32).extractLsb' 0 6).toNat ∧ (0x1E080000#32).extractLsb' 19 2 ≠ 0 ∧ (0x1E004000#32).extractLsb' 14 2 ≠ 0 ∧
    (0x1E000200#32).extractLsb' 9 2 ≠ 0 ∧ (0x1E000043#32).extractLsb' 0 6 = 3#6 ∧ (0x1E000043#32).extractLsb' 6 5 ≠ 0 := by decide

theorem test_meets_Comparisons : (5#3).toNat < 6 ∧ isNaN (v32 0x7FC00000) = true ∧ isNaN (v32 0x7F800000) = false ∧
    isNaN (v32 0x80000000) = false := by decide

theorem test_meets_FloatOperationsComplete : v32 0x7F800001 = .nan true ∧ v32 0x7FC00000 = .nan false ∧
    (on (member [(4, 0x7F800001)])).issues 0 no := ⟨by decide, by decide, on_issues _ _⟩

/-- Finite operands 1.5 and 0.25, and 2 for FMA: no sum is zero. -/
theorem test_meets_FloatOperations_finite : v32 0x3FC00000 = .fin false 12582912 (-23) ∧ v32 0x3E800000 = .fin false 8388608 (-25) ∧
    v32 0x40000000 = .fin false 8388608 (-22) ∧ (12582912 : Int) * 2 ^ 2 - 8388608 ≠ 0 := by decide +kernel

theorem test_meets_ConversionsComplete : fcvtOk 9 true 5 3 = true ∧ fcvtOk 0 false 9 0 = true ∧ isNaN (v32 0xFFC00000) = true ∧
    isInf (v32 0xFF800000) = true ∧ signOf (v32 0xFF800000) = true ∧ isInf (v32 0x7F800000) = true := by decide

/-- A float to a float format, to itself and to an integer format, an integer to a float format and to an integer format at both ends of
its range. -/
theorem test_meets_Conversions_formats : fcvtOk 9 false 5 0 = true ∧ (floatFmt 9).isSome = true ∧ (floatFmt 5).map (·.value 0x38) = some (.fin false 8 (-3)) ∧
    fcvtOk 9 false 9 0 = true ∧ fcvtOk 9 false 0 0 = true ∧ intFmt 0 = some (8, true) ∧ fcvtOk 0 false 9 0 = true ∧ fcvtOk 1 false 0 0 = true ∧
    intFmt 1 = some (16, true) ∧ intOf 16 true 0x7F = (intRange 8 true).2 ∧ intOf 16 true 0xFF80 = (intRange 8 true).1 ∧
    v32 0x40200000 = .fin false 10485760 (-22) := by decide +kernel

/-- BranchesAndLoops: a LOOP word with a = 0. -/
theorem test_meets_BranchesAndLoops : (0x38000007#32).extractLsb' 25 7 = 0x1C#7 ∧ (0x38000007#32).extractLsb' 11 5 = 0#5 ∧
    decodeOr 0x38000007 0 = .illegalEncoding 0 := by decide +kernel

theorem test_meets_Jumps : ((on (member [])).ctx 0).pc &&& 3#64 = 0 ∧ (⟨true, 7⟩ : Guard) ≠ ⟨true, 0⟩ ∧
    (0x3401F800#32).extractLsb' 25 7 = 0x1A#7 ∧ (0x3401F800#32).extractLsb' 16 5 ≠ 0 ∧ (0x37FFFFFF#32).extractLsb' 25 7 = 0x1B#7 := by decide

theorem test_meets_ZeroRegisters : (31#5) ≠ 0 ∧ (30#5) ≠ 31 ∧ (7#3) ≠ 0 ∧ (6#3) ≠ 7 ∧ (15#4) ≠ 0 := by decide

theorem test_meets_RegisterInstructionsFrame : nextIs (.pnot no 2 3) (on (member [])) (fun _ => (Instr.pnot no 2 3).onlyP?.isSome) = true ∧
    nextIs (.fadd no 1 2 3) (on (member [])) (fun _ => (Instr.fadd no 1 2 3).onlyG?.isSome) = true := by decide +kernel

/-- LoadsComplete, EffectsStoresPerform, AtomicsReadModifyWrite, PrefetchCleanAndFence: the last 8 bytes of a page. -/
theorem test_meets_accesses : let s := on (member [(9, 0x1FFF8), (4, 0x10000)])
    s.issues 0 no ∧ s.effects 0 = true ∧ s.mem.wf = true ∧
    (∀ w, reaches s 0x1FFF8 w (2 ^ 51 + 0xFFF8) (.mem (4096 * 2 ^ 52 + 0xFFF8)) = true) ∧ (0x1FFF8#64).toNat % 8 = 0 ∧
    s.poison = [] ∧ (4096 * 2 ^ 52 + 0xFFF8) % 8 = 0 := ⟨on_issues _ _, by decide⟩

/-- RestartableStoresAreLogged: room for a line, and none where 4,096 lines are in use. -/
theorem test_meets_RestartableStores : let s := on (member [(9, 0x10000)]) false
    let full := { s with ctxs := tset s.ctxs 1 { slog := List.replicate 4096 ⟨0, 0, [], [], false, false⟩ } }
    s.effects 0 = false ∧ reaches s 0x10000 true (2 ^ 51) (.mem (4096 * 2 ^ 52)) = true ∧ s.logLines 0 < 4096 ∧
    s.logRoom 0 (s.logSince none) = true ∧ full.logRoom 0 (full.logSince none) = false ∧ full.effects 0 = false ∧ reaches full 0x10000 true (2 ^ 51) (.mem (4096 * 2 ^ 52)) = true ∧
    ¬ full.logLines 0 < 4096 ∧ (full.ctx 0).slog = [] := by decide +kernel

/-- AccessesTrap: the last aligned and the first misaligned address, no translation, the trigger aperture, poison. -/
theorem test_meets_AccessesTrap : let s := on (member [])
    (0x10001#64).toNat % 2 ≠ 0 ∧ (0x10004#64).toNat % 8 ≠ 0 ∧ bad (s.translate 0 0 0x30000 false) (fun k => k == 1) = true ∧
    bad (s.translate 0 0 0x1000000000000 false) (fun k => k == 7) = true ∧ reaches s 0x20028 true (2 ^ 51 + 2 ^ 32 + 40) (.trig 5) = true ∧
    reaches { s with poison := [4096 * 2 ^ 46] } 0x10000 false (2 ^ 51) (.mem (4096 * 2 ^ 52)) = true ∧
    reaches { s with tlb := [⟨0, 0, 0, 4, 16, 2 ^ 51 + 0x400000, true, 0, true⟩] } 0x40000 true (2 ^ 51 + 0x400000) .hole = true := by decide +kernel

/-- A walk that finds its leaf, one that finds none, a DVA that is not canonical, a launch without a table. -/
theorem test_meets_Walk : good (walks.walk 0 0 0x7F4023456789 true) (fun _ => walks.mem.wf) = true ∧
    bad (walks.walk 0 0 0 false) (fun k => k == 1) = true ∧ (0x1000000000000#64).extractLsb' 48 16 ≠ 0 ∧
    ((on (member [])).launch 1).root = none := by decide +kernel

/-- TrapEntry: with and without a handler, within one, an uncorrectable error of a restartable and of an effects gang, and
two unhandled traps of one tick. -/
theorem test_meets_TrapEntry : let s := on (member []) false
    (tget? s.gangs (s.ctx 0).gang).isSome = true ∧ (s.ra 1).st ≠ .accepted ∧ 0 ∈ (s.gang 1).members ∧ (s.gang 1).effects = false ∧
    (s.ra 1).eccStrikes = 0 ∧ ({ member [] with trapVec := 1 } : Ctx).trapVec.getLsbD 0 = true ∧ (s.ctx 0).trapVec.getLsbD 0 = false ∧
    ((s.takeTrap 8 ⟨9, 1, 0⟩).ra 1).failed = true ∧ ((s.takeTrap 8 ⟨9, 1, 0⟩).ra 1).failAt = s.treeNow 0 ∧
    (s.gang 1).ending = none ∧ ((on (member [])).gang 1).effects = true ∧ (on (member [])).storesPending 1 = false ∧
    ((s.takeTrap 8 ⟨9, 1, 0⟩).ra 1).failRank = 1 ∧ (s.ctx 0).rank < 1 := by decide +kernel

/-- TrapAndReturn: within a handler, with the trapping word one of two words, one of one word, and outside the code. -/
theorem test_meets_TrapAndReturn : let s := { on { member [] with handler := true, trapPc := 4 } with
      launches := [(0, { state := 2, pantry := { ops := [(1, { code := [0x30000000, 0x14040000, 5] })] } })] }
    (s.ctx 0).handler = true ∧ (s.oper 0).word? 4 = some 0x14040000 ∧ (0x14040000#32).extractLsb' 25 7 = 0x0A#7 ∧
    (s.oper 0).word? 0 = some 0x30000000 ∧ (s.oper 0).word? 12 = none := by decide +kernel

/-- SystemRegisterReads and SystemRegisterWrites: the last register, a held application, the last field bits. -/
theorem test_meets_SystemRegisters : (33#11).toNat < 34 ∧
    ({ on (member []) with ras := [(1, { part := 0, slot := 0, cell := 8, agePass := 1, ageCell := 8, st := .placed 1, heldUntil := 200000 })] } : State).raHeld 1 = true ∧
    (on (member [])).raHeld 1 = false ∧ (0xFF00FF#64) &&& ~~~0xFF00FF#64 = 0 ∧ (0x100#64) &&& ~~~0xFF00FF#64 ≠ 0 ∧
    (0x1FFFD#64) &&& ~~~0x1FFFD#64 = 0 ∧ (2#64) &&& ~~~0x1FFFD#64 ≠ 0 ∧ (31#64) >>> 5 = 0 ∧ (32#64) >>> 5 ≠ 0 ∧ (3#64) >>> 2 = 0 ∧ ¬ (8 ≤ (7#11).toNat ∧ (7#11).toNat ≤ 13) ∧ ¬ (8 ≤ (14#11).toNat ∧ (14#11).toNat ≤ 13) ∧
    (4#64) >>> 2 ≠ 0 := by decide +kernel

theorem test_meets_MonitorCalls : let s := on { member [] with sysc := some 2047 }
    (s.ctx 0).status = .running ∧ (s.ctx 0).sysc = some 2047 ∧ (∀ e ∈ ([(1, 5), (7, 9)] : List (Nat × Word)), 1 ≤ e.1 ∧ e.1 ≤ 7) ∧ ((on (member [])).ctx 0).sysc = none := by
  decide

/-- WaitForEventAndYield: the first cycle in which the wait is over and the one before, and a YIELD that is over. -/
theorem test_meets_WaitForEventAndYield : let s := { on { member [] with pc := 0, wait := some ⟨.other, 100000 - 2700⟩, yieldUntil := 100000 } with
      launches := [(0, { state := 2, pantry := { ops := [(1, { code := [0x6A030001] })] } })] }
    (s.ctx 0).event = false ∧ 100000 - 2700 + 2700 * (1#11).toNat ≤ s.clock ∧ ¬ 100000 - 2699 + 2700 * (1#11).toNat ≤ s.clock ∧
    (s.oper 0).word? (s.ctx 0).pc = some 0x6A030001 ∧ (0x6A030001#32).extractLsb' 25 7 = 0x35#7 ∧ (0x6A030001#32).extractLsb' 16 5 = 3 ∧
    0 < (s.ctx 0).yieldUntil ∧ (s.ctx 0).yieldUntil ≤ s.cyc (0 / 8) := by decide +kernel

/-- NamedBarriers: the counts 0, 1, 63 and 64, a free barrier, one of the gang about to complete, one of another gang. -/
theorem test_meets_NamedBarriers : let s := { on (member [(4, 63), (5, 64), (6, 1)]) with
      bars := [(3, ⟨some 1, 2, 1, false⟩), (4, ⟨some 2, 1, 0, true⟩)] }
    ((s.ctx 0).rg 0).toNat = 0 ∧ ((s.ctx 0).rg 6).toNat = 1 ∧ ((s.ctx 0).rg 4).toNat = 63 ∧ ((s.ctx 0).rg 5).toNat = 64 ∧
    (s.bar 31).gang = none ∧ (s.bar 3).gang = some (s.ctx 0).gang ∧ (s.bar 3).arrivals + 1 = (s.bar 3).expected ∧ (s.bar 4).gang = some 2 := by
  decide +kernel

/-! Tiles, the expression, gangs and plans. -/

/-- Context 0 with handle 2 bound to the tile at page 3, of pages in frames of core 0, and h3 unbound. -/
def tiled (fmt rows cols : Nat) (st : TileSt) (sealed : Bool) (l : List (BitVec 5 × Word)) : State :=
  let x := (member l).wh 2 ⟨true, tileAtom fmt rows cols (!sealed) false 3, false, 0, 0, BitVec.ofNat 7 (cols - 1)⟩
  let n := tilePages fmt rows cols
  { on x with
    tiles := [(3, ⟨fmt, rows, cols, st, 0, 0⟩)]
    dir := (List.range n).map fun i => (3 + i, { sealed := sealed, head := i == 0, loc := .scratch 0 i, pages := n, owner := 1, copies := if sealed then 1 else 0 })
    stt := (List.range n).map fun i => (3 + i, { sealed := sealed, openHere := !sealed, remote := false, core := 0, frame := i })
    frames := (List.range n).map fun i => (i, .page (3 + i) []) }

/-- A page access that succeeds. -/
def opens (r : PageRes) : Bool := match r with | .ok _ => true | _ => false

theorem tiled_issues (fmt rows cols : Nat) (st : TileSt) (b : Bool) (l : List (BitVec 5 × Word)) : (tiled fmt rows cols st b l).issues 0 no := ⟨rfl, rfl⟩

/-- TileAllocation: 128 by 128 and shapes just outside, an nq4 tile, page tables full and not, no page left. -/
theorem test_meets_TileAllocation : let s := on (member [(4, 128), (5, 129), (6, 1)])
    (10#4).toNat < 11 ∧ ((s.ctx 0).rg 4).toNat ≤ 128 ∧ ¬ ((s.ctx 0).rg 5).toNat ≤ 128 ∧ ¬ 1 ≤ ((s.ctx 0).rg 0).toNat ∧
    s.pinnedFrames 0 + 5 ≤ 2048 ∧ s.usedFrames 0 + (s.core 0).framesHeld + 5 ≤ 4096 ∧ (s.launch 0).nextPage + 5 ≤ 2 ^ 37 ∧
    (s.newPages (pageKey 0 9) 1 0 0 5 0 5).isSome = true ∧ (s.newPages (pageKey 0 9) 1 0 0 32 0 32).isSome = true := by decide +kernel

/-- The frames of core 0 when 2,048 of them are pinned, and all of them. -/
theorem test_meets_TileAllocation_full : let s := { on (member []) with frames := (List.range 2048).map fun i => (i, .page (100 + i) [0]) }
    let t := { on (member []) with frames := (List.range 4096).map fun i => (i, .page (100 + i) []) }
    2048 < s.pinnedFrames 0 + 1 ∧ s.usedFrames 0 + (s.core 0).framesHeld + 1 ≤ 4096 ∧ t.pinnedFrames 0 + 1 ≤ 2048 ∧
    4096 < t.usedFrames 0 + (t.core 0).framesHeld + 1 := by decide +kernel

/-- TileHandleTraps, TileViewsShapesAndStates, TilePlacementAdvice: an unbound handle, a freed tile, tiles in each state. -/
theorem test_meets_TileHandles : ∀ st ∈ [TileSt.empty, .ready, .draining],
    let s := tiled 2 4 4 st false []
    ((s.ctx 0).rh 3).bound = false ∧ ((s.ctx 0).rh 2).bound = true ∧ s.tile? 3 = some ⟨2, 4, 4, st, 0, 0⟩ ∧
    ({ s with tiles := [] } : State).tile? 3 = none ∧ pageKey (s.launchOf 0) (((s.ctx 0).rh 2).atom.extractLsb' 0 37).toNat = 3 ∧
    (s.dirE 3).sealed = false ∧ ((s.ctx 0).rh 2).atom.getLsbD 40 = true ∧ ((s.ctx 0).rh 2).view = false ∧ (s.dirE 3).owner = (s.ctx 0).gang ∧
    (({ s.ctx 0 with h := (s.ctx 0).h.set 2 { (s.ctx 0).rh 2 with view := true, atom := 0 } } : Ctx).rh 2).atom.getLsbD 40 = false ∧
    ((tiled 2 4 4 st true []).dirE 3).sealed = true := by decide +kernel

/-- A view of the last element, and one that passes the last row. -/
theorem test_meets_TileViews : let x := (tiled 2 4 4 .ready true [(4, 0x0000000000000303)]).ctx 0
    x.rg 4 &&& ~~~0x7F7F7F7F#64 = 0 ∧ ((x.rg 4).extractLsb' 8 7).toNat + (((x.rg 4).extractLsb' 16 7).toNat + 1) = ((x.rh 2).atom.extractLsb' 48 7).toNat + 1 ∧
    ((x.rg 4).extractLsb' 0 7).toNat + (((x.rg 4).extractLsb' 24 7).toNat + 1) = ((x.rh 2).atom.extractLsb' 41 7).toNat + 1 := by decide +kernel

/-- TileLoadsAndStores: the last element of a 4 by 4 tile of int32, a column beyond it, the page in the STT. -/
theorem test_meets_TileLoadsAndStores : let s := tiled 2 4 4 .ready false [(4, 0x00030003), (5, 0x00030004)]
    let e := tiled 2 4 4 .empty false [(4, 0x00030003)]
    (s.ctx 0).rg 4 &&& ~~~0x7F007F#64 = 0 ∧ (((s.ctx 0).rg 4).extractLsb' 16 7).toNat = (((s.ctx 0).rh 2).atom.extractLsb' 48 7).toNat ∧
    (((s.ctx 0).rg 4).extractLsb' 0 7).toNat = (((s.ctx 0).rh 2).atom.extractLsb' 41 7).toNat ∧ 2 ^ (2#2).toNat = fmtSize 2 ∧
    ¬ (((s.ctx 0).rg 5).extractLsb' 0 7).toNat ≤ (((s.ctx 0).rh 2).atom.extractLsb' 41 7).toNat ∧
    opens (s.pageAccess 0 3 1 false) = true ∧ opens (e.pageAccess 0 3 1 true) = true ∧ (e.dirE 3).data.wf = true ∧
    e.tile? 3 = some ⟨2, 4, 4, .empty, 0, 0⟩ := by decide +kernel

/-- Nq4TileElements: the last element, the superblock scale's index, the five pages of a READY and of an EMPTY tile. -/
theorem test_meets_Nq4TileElements : ∀ st ∈ [TileSt.ready, .empty],
    let s := tiled 10 128 128 st false [(4, 0x007F007F)]
    ((s.ctx 0).rh 2).bound = true ∧ s.tile? 3 = some ⟨10, 128, 128, st, 0, 0⟩ ∧ ((s.ctx 0).rh 2).atom.extractLsb' 41 14 = 0x3FFF#14 ∧
    (s.ctx 0).rg 4 &&& ~~~0x7F007F#64 = 0 ∧ (s.ctx 0).rg 0 = 0 ∧ (s.dirE 3).sealed = false ∧ (s.dirE 3).owner = (s.ctx 0).gang ∧
    ((s.ctx 0).rh 2).atom.getLsbD 40 = true ∧
    (∀ p < 5, (match tget? s.stt (sttKey 0 (3 + p)) with | some e => e.sealed | none => true) = false ∧ (s.dirE (3 + p)).owner = 1 ∧
      (s.dirE (3 + p)).data.wf = true) := by decide +kernel

/-- TilePlacementAdvice: a tile that is not in a pinned frame, 2,048 pinned frames with it and one more. -/
theorem test_meets_TilePlacementAdvice : let s := tiled 2 4 4 .ready true []
    let t := { s with frames := s.frames ++ (List.range 2047).map fun i => (1 + i, Frame.page (100 + i) [0]) }
    let u := { s with frames := s.frames ++ (List.range 2048).map fun i => (1 + i, Frame.page (100 + i) [0]) }
    t.pinnedFrames 0 + 1 ≤ 2048 ∧ 2048 < u.pinnedFrames 0 + 1 ∧ opens (t.pagesAccess 0 [3] 1 false) = true ∧
    (s.dirE 3).sealed = true ∧ (∀ j, j ≠ 2 → ((s.ctx 0).rh j).bound = false) := by decide +kernel

/-- OperandReads: an nq4 atom of another shape, the application held, an index of a TILE atom, an index at the length, a copy of everything and of one more. -/
theorem test_meets_OperandReads : let s := on (member [(4, 2), (5, 5), (6, 4)])
    s.raHeld 1 = false ∧ (s.operandSyms 1).getD 2 0 >>> 60 = 9 ∧ (0x9500000000000003#64).extractLsb' 55 5 = 10 ∧ (0x9500000000000003#64).extractLsb' 41 14 ≠ 0x3FFF#14 ∧
    (0x9500000000000003#64) >>> 60 = 9 ∧ ¬ ((0x9000000000000009#64).extractLsb' 55 5 = 10) ∧ (s.operandSyms 1).getD 0 0 >>> 60 ≠ 9 ∧
    ({ s with ras := [(1, { s.ra 1 with heldUntil := 200000 })] } : State).raHeld 1 = true ∧ (s.operandSyms 1).length < 0 + 5 ∧
    0 + 4 ≤ (s.operandSyms 1).length ∧ (s.ctx 0).log.length + 1024 ≤ 1024 ∧ 1024 < (s.ctx 0).log.length + 1025 := by
  decide +kernel

theorem test_meets_ResultLogAppends : let s := tiled 2 4 4 .ready true []
    ((s.ctx 0).rh 2).bound = true ∧ s.tile? 3 = some ⟨2, 4, 4, .ready, 0, 0⟩ := by decide +kernel

/-- CommitAbortAndXfail: the other member still to commit, both committed with a whole and with a malformed result. -/
theorem test_meets_CommitAbortAndXfail : let s := on { member [] with log := [⟨0x7000000000000007, false⟩], trapVec := 1 }
    let g := s.gang 1
    let last := { s with gangs := [(1, { g with commits := [false, true] })], ctxs := tset s.ctxs 8 {} }
    let cut := { last with ctxs := tset last.ctxs 8 { log := [⟨0x2000000000000000, false⟩] } }
    (∀ r < 2, g.ncoll.getD r 0 ≤ g.ncoll.getD 0 0 ∨ g.colls.getD r none = none) ∧ (s.ctx 0).rank < g.commits.length ∧
    ((List.range 2).all fun r => r == 0 || g.commits.getD r false) = false ∧
    ((List.range 2).all fun r => r == 0 || (last.gang 1).commits.getD r false) = true ∧
    resultOk (g.members.flatMap fun m => (last.ctx m).log) = true ∧ resultOk (g.members.flatMap fun m => (cut.ctx m).log) = false ∧
    g.members.head? = some 0 ∧ (s.ctx 0).handler = false ∧ (tget? s.gangs 1).isSome = true ∧ (s.ra 1).st ≠ .accepted := by decide +kernel

/-- CollectivesComplete: the last member arrives, the first does, a gather whose destinations pass g31. -/
theorem test_meets_CollectivesComplete : let s := on (member [(4, 5)])
    let mine : Coll := ⟨0, 0, 0, 5, 0, none, 3⟩
    let theirs : Coll := ⟨0, 0, 0, 9, 0, none, 4⟩
    let g := { s.gang 1 with colls := [none, some theirs], ncoll := [0, 1] }
    g.members.Nodup ∧ (s.ctx 0).rank < g.members.length ∧ g.members[(s.ctx 0).rank]? = some 0 ∧ g.colls.length = g.members.length ∧
    g.colls.getD 0 none = none ∧ (3#3).toNat < 4 ∧ g.colls.set 0 (some mine) = [mine, theirs].map some ∧ g.ncoll.getD 1 0 = g.ncoll.getD 0 0 + 1 ∧
    theirs.kind = mine.kind ∧ theirs.op = mine.op ∧ theirs.fmt = mine.fmt ∧ (0#64).toNat % 16 < g.members.length ∧ [mine, theirs][0]? = some mine ∧
    32 < (31#5).toNat + g.members.length ∧ (30#5).toNat + g.members.length ≤ 32 ∧ (s.gang 1).colls.getD 1 none = none ∧
    (∀ r < 2, (s.gang 1).commits.getD r false = false) := by decide +kernel

/-- A TRBC.h whose root's handle names a tile. -/
theorem test_meets_CollectivesComplete_handle : let s := tiled 2 4 4 .ready true []
    ((s.ctx 0).rh 2).bound = true ∧ (s.tile? (s.tileKey 0 ((s.ctx 0).rh 2))).isSome = true ∧ (s.gang 1).members[0]? = some 0 := by decide +kernel

/-- The gang of `s` with calls of CSEND. -/
def sends (s : State) (l : List Csend) : State := { s with gangs := [(1, { s.gang 1 with csends := l })], tiles := s.tiles ++ [(7, ⟨2, 4, 4, .empty, 0, 0⟩)] }

/-- TileCopiesBetweenMembers: the first of a pair and the second, on both sides, an open EMPTY tile, and a copy under way. -/
theorem test_meets_TileCopies : let s := sends (tiled 2 4 4 .ready true [(4, 1), (5, 2)]) []
    let t := sends (tiled 2 4 4 .ready true [(4, 1)]) [⟨1, 0, false, 7, false, 0, none⟩]
    let o := sends (tiled 2 4 4 .empty false [(4, 1)]) []
    let z := sends s [⟨0, 1, true, 3, true, 0, none⟩, ⟨1, 0, false, 7, true, 0, none⟩]
    let odd := { t with tiles := [(3, ⟨2, 4, 4, .ready, 0, 0⟩), (7, ⟨2, 4, 3, .empty, 0, 0⟩)] }
    (s.ctx 0).gang = 0 * 65536 + 1 ∧ (1 : Nat) < 65536 ∧ (s.gang 1).members[((s.ctx 0).rg 4).toNat % 16]? = some 8 ∧ (s.gang 1).members[(s.ctx 0).rank]? = some 0 ∧
    odd.tile? 7 ≠ odd.tile? 3 ∧ (odd.gang 1).csend? 1 0 false = some ⟨1, 0, false, 7, false, 0, none⟩ ∧
    (let far : State := { t with stt := t.stt ++ [(sttKey 1 7, ⟨false, false, true, 0, 9, true, false, false⟩)], dir := t.dir ++ [(7, { pages := 1, head := true, owner := 1 })] }
     (tget? far.stt (sttKey 0 3)).any (·.sealed) = true ∧ (tget? far.stt (sttKey 1 7)).any (fun y => !y.sealed && y.core == 0) = true ∧
      (far.dirE 7).owner = 1 ∧ far.writerCore (far.dirE 7) = 0) ∧
    (let gone : State := { t with dir := [(3, { t.dirE 3 with lost := true })], stt := [] }
     (gone.dirE 3).lost = true ∧ tget? gone.stt (sttKey 0 3) = none) ∧
    ((s.ctx 0).rg 0).toNat % 16 = (s.ctx 0).rank ∧ (s.gang 1).members.length ≤ ((s.ctx 0).rg 5).toNat % 16 ∧
    ((s.ctx 0).rg 4).toNat % 16 ≠ (s.ctx 0).rank ∧ ((s.ctx 0).rg 4).toNat % 16 < (s.gang 1).members.length ∧ ((s.ctx 0).rh 2).view = false ∧
    (s.gang 1).csend? 0 1 true = none ∧ (s.gang 1).csend? 1 0 false = none ∧ (t.gang 1).csend? 1 0 false = some ⟨1, 0, false, 7, false, 0, none⟩ ∧
    t.tile? 7 = some ⟨2, 4, 4, .empty, 0, 0⟩ ∧ ((o.ctx 0).rh 2).atom.getLsbD 40 = true ∧ (o.dirE 3).sealed = false ∧
    (z.gang 1).csend? 0 1 true = some ⟨0, 1, true, 3, true, 0, none⟩ ∧ (z.gang 1).csend? 1 0 false = some ⟨1, 0, false, 7, true, 0, none⟩ ∧ 3 + tilePages 2 4 4 ≤ 7 := by decide +kernel

/-- The same where a page has to move first: an open page of the receiver in another core's frame, a sealed page the sender's core has
no copy of. -/
theorem test_meets_TileCopies_waits : let t := sends (tiled 2 4 4 .ready true [(4, 1)]) [⟨1, 0, false, 7, false, 0, none⟩]
    let u : State := { t with dir := t.dir ++ [(7, { pages := 1, head := true, owner := 1, wrank := 1, loc := .scratch 0 9 })] }
    let v : State := { u with dir := tset t.dir 3 { t.dirE 3 with copies := 2, loc := .scratch 1 0 }, stt := [] }
    (match u.copyTile 0 1 1 3 7 0 1 with | .wait w 0 false => (w.dirE 7).loc == Loc.moving | _ => false) = true ∧
    (match v.copyTile 0 1 1 3 7 0 1 with | .wait w 0 true => w.xfers.length == 1 | _ => false) = true := by decide +kernel

/-- A descriptor of an all-reduce of 16 int32 elements over this part alone, at DVA 0x10000, and a plan of the gang. -/
def planned (p : List (Nat × Plan)) : State :=
  { on (member [(4, 0x10000), (5, 0x10001), (6, 3), (7, 8191), (8, 8192)]) with
    mem := mwrite (mwrite [] (4096 * 2 ^ 52) 8 0x0020000000000010) (4096 * 2 ^ 52 + 24) 8 0x0005000000000000, plans := p }
def plan1 : Plan :=
  { gang := 1, launch := 0, rank := 0, key := 5, kind := 0, op := 0, fmt := 2, n := 16, parts := [0], pos := 0, root := 0, src := 0, dst := 0, die := 0
    blocks := 1, joined := true, fires := 3, done := 2 }

/-- CollectivePlans: a legal descriptor, an illegal one, an operator without effects, numbers of no plan, a run in flight and none,
a poisoned run ahead. -/
theorem test_meets_CollectivePlans : let s := planned []
    let t := planned [(8191, plan1), (7, { plan1 with fires := 2, poisoned := some 3 })]
    (s.gang 1).effects = true ∧ ((on (member []) false).gang 1).effects = false ∧ (0x10001#64).toNat % 128 ≠ 0 ∧ (0x10000#64).toNat % 128 = 0 ∧
    good (s.devReadLong 0 0x10000 12) (fun r => (parsePlan (dwords r.2) 0 1 0 0 0).any fun p => p.parts.length == 1 && s.blocksUsed p.die + p.blocks ≤ 128) = true ∧
    good (({ s with mem := [] } : State).devReadLong 0 0x10000 12) (fun r => (parsePlan (dwords r.2) 0 1 0 0 0).isNone) = true ∧
    tget? s.plans 5 = none ∧ 8192 ≤ ((s.ctx 0).rg 8).toNat ∧ tget? s.plans 8191 = none ∧ tget? t.plans 8191 = some plan1 ∧
    plan1.gang = (t.ctx 0).gang ∧ plan1.released = false ∧ ({ plan1 with released := true } : Plan).gang = 1 ∧ plan1.done < plan1.fires ∧ ((t.ctx 0).rg 6).toNat % 2 ^ 32 = plan1.fires ∧
    (2 : Nat) < 3 ∧ (tgetD t.plans 7 plan1).fires ≤ (tgetD t.plans 7 plan1).done := by decide +kernel

/-- The same of two parts, and the entry of a plan that awaits its peer. -/
def planned2 (p : List (Nat × Plan)) : State :=
  { planned p with mem := mwrite (mwrite (planned p).mem (4096 * 2 ^ 52 + 24) 8 0x0005080000000000) (4096 * 2 ^ 52 + 32) 8 0x10000 }
def asked (joined : Bool) : Plan := { plan1 with parts := [0, 1], fires := 0, done := 0, joined := joined }

/-- CollectivePlans: a plan of two parts, not entered, entered and joined, entered and not joined. -/
theorem test_meets_CollectivePlans_peers :
    let p := fun (t : State) => match t.devReadLong 0 0x10000 12 with
      | .ok r => parsePlan (dwords r.2) 0 1 0 0 0
      | .error _ => none
    ((p (planned2 [])).any fun q => q.parts.length == 2 && q.blocks == 1 && !q.joined) = true ∧
    (∀ j : Bool, ((p (planned2 [(9, asked j)])).any fun q =>
      ((planned2 [(9, asked j)]).plans.find? fun e => e.2.awaits q) == some (9, asked j)) = true) ∧
    (asked false).reserved < (asked false).parts.length ∧ (asked true).joined = true ∧ (asked false).joined = false := by decide +kernel

/-! Streams and pushes. -/

/-- A record: 16 int32 words from the address in g9 to the tile in slot 0; its subscription and its push; from an endpoint. -/
def rec1 : List Word := [0x2102400040000000, 0, 0, 0x00030003, 0x0000000800000001, 0, 0, 0]
def recSub1 : List Word := [0x4100000040400000, 0, 0, 0x00030003, 0x0000000800000001, 0, 0, 0]
def recPush1 : List Word := [0x2702400040000000, 0, 0, 0x00030003, 0x0000000800000001, 0, 0, 0]
def recHost1 : List Word := [0x3100C00040000000, 0, 0, 0x00030003, 0x0000000800000001, 0, 0, 0]

/-- A launch with endpoints 3 of 112 and 4 of 111 bytes and a pantry of one stream program. -/
def launch1 (r : List Word) : Launch :=
  { state := 2, pasid := 7, root := some (2 ^ 51 + 0x8000), pantry := { streams := [(1, r)] }
    ends := [{}, {}, {}, { present := true, addr := 0x5000, extent := 112 }, { present := true, addr := 0x5000, extent := 111 }] }
/-- A tile of 4 by 4 int32, the record at DVA 0x10000 and as pantry entry 1, and engine 0 with it. -/
def streaming (r : List Word) (e : Engine) (st : TileSt) (sealed : Bool) : State :=
  { tiled 2 4 4 st sealed [(9, 0x10000), (4, 0x10000), (5, 0x10004)] with
    mem := (r.zipIdx).foldl (fun m w => mwrite m (4096 * 2 ^ 52 + 8 * w.2) 8 w.1.toNat) []
    launches := [(0, launch1 r)]
    engines := [(0, e)] }
def loaded (r : List Word) : Engine := { st := .loaded, record := r, srcBase := 0x10000, ext := [4, 4, 1, 1], str := [1, 8, 0, 0], count := 16 }

/-- StreamProgramsLoad: engines 0 and 4 of a region of one quadrant, a running engine, a legal record from each source, bases aligned. -/
theorem test_meets_StreamProgramsLoad : let s := streaming rec1 {} .ready true
    let x := s.ctx 0
    x.physEngine 0 4 = none ∧ x.physEngine 0 3 = some 3 ∧ (s.engine 3).st = .idle ∧
    ((streaming rec1 { loaded rec1 with st := .running } .ready true).engine 0).st = .running ∧ (x.rg 4).toNat % 64 = 0 ∧ (x.rg 5).toNat % 64 ≠ 0 ∧
    good (s.devReadLong 0 0x10000 8) (fun r => dwords r.2 == rec1 && good (r.1.translate 0 0 0x10000 false) fun _ => true) = true ∧
    tget? (s.launch 0).pantry.streams 1 = some rec1 ∧ tget? (s.launch 0).pantry.streams 2 = none ∧
    recOk rec1 false = true ∧ sideOk x.quads 0 2 9 = true ∧ sideOk x.quads 0 1 0 = true ∧ (0x10000#64).toNat % recSize rec1 = 0 ∧
    s.tile? 3 = some ⟨2, 4, 4, .ready, 0, 0⟩ ∧ 64 * 0 + 64 ≤ tileBytes 2 4 4 ∧ opens (s.pageAccess 0 3 1 false) = true := by decide +kernel

/-- StreamsBindAndStart: an engine in each state, an open EMPTY destination, a READY source, an endpoint that fits and one that does not. -/
theorem test_meets_StreamsBindAndStart : let g := loaded rec1
    let s := streaming rec1 g .empty false
    let u := (s.ctx 0).rh 2
    let q := loaded [0x1200008040000000, 0, 0, 0x00030003, 0x0000000800000001, 0, 0, 0]
    (s.ctx 0).physEngine 0 0 = some 0 ∧ g.st = .loaded ∧ g.extOk = true ∧ recSrcKind rec1 ≠ 4 ∧ recSrcKind recSub1 = 4 ∧ g.bound = false ∧
    ({ g with slot0 := some u } : Engine).bound = true ∧ u.bound = true ∧ recDstKind rec1 = 1 ∧ (recDstSel rec1).toNat = 0 ∧
    u.atom.getLsbD 40 = true ∧ (s.dirE 3).sealed = false ∧ (s.dirE 3).owner = (s.ctx 0).gang ∧ g.tileFits u ⟨2, 4, 4, .empty, 0, 0⟩ g.dstBase true = true ∧
    recSrcKind q.record = 1 ∧ q.tileFits u ⟨2, 4, 4, .ready, 0, 0⟩ 0 false = true ∧ recSrcKind recHost1 = 3 ∧
    (loaded recHost1).hostFits (s.launch 0) 3 0 false = true ∧ (loaded recHost1).hostFits (s.launch 0) 4 0 false = false ∧
    (let o := loaded [0x2302400040000000, 0, 0, 0x00030003, 0x0000000800000001, 0, 0, 0]
     recSrcKind o.record = 2 ∧ recDstKind o.record = 3 ∧ o.hostFits (s.launch 0) (recDstSel o.record) o.dstBase true = false) := by
  decide +kernel

/-- A side that would start at no multiple of the element size. -/
theorem test_meets_StreamsBindAndStart_odd : let u := ((streaming rec1 {} .empty false).ctx 0).rh 2
    recSize rec1 = 4 ∧ u.start (2#64).toInt % (recSize rec1 : Int) ≠ 0 ∧ u.start (4#64).toInt % (recSize rec1 : Int) = 0 := by decide +kernel

/-- StreamsStopWaitAndCount and StreamsAdvance: a push of the gang and of another, an engine in each state, a recorded fault, a
destination being filled, the last element but one, all delivered, and a source without a translation. -/
theorem test_meets_StreamsAdvance : let u := (streaming rec1 {} .empty false |>.ctx 0).rh 2
    let g : Engine := { loaded rec1 with st := .running, slot0 := some u, n := 15 }
    let s := streaming rec1 g .filling false
    let f := streaming rec1 { loaded rec1 with st := .faulted, fault := some (4, 1, 0x30000) } .empty false
    let m := streaming rec1 { g with n := 0, srcBase := 0x30000 } .filling false
    tget? ({ s with pushes := [(1, ⟨1, 0, recPush1, 0, 0, 0, false, 0, 16, 16, 1, []⟩)] } : State).pushes 1 ≠ none ∧ (s.engine 0).st = .running ∧
    (f.engine 0).st = .faulted ∧ (f.engine 0).fault = some (4, 1, 0x30000) ∧ g.dstTile = some u ∧ s.tile? (s.tileKey g.ctx u) = some ⟨2, 4, 4, .filling, 0, 0⟩ ∧
    g.n + g.held.length ≤ g.count ∧ g.n + g.held.length < g.count ∧ ({ g with n := 16 } : Engine).count ≤ ({ g with n := 16 } : Engine).n ∧
    m.burstLen (m.engine 0) = 0 ∧ (m.engine 0).taken < (m.engine 0).count ∧
    (match m.getBurst 0 with | .fault _ code kind a => (code, kind, a) == (4, 1, 0x30000) | _ => false) = true := by decide +kernel

/-- Multicast: a slice that is in the map and one that is not, a loaded subscription with the push's count, a push with a permit, a space
token that completes a permit; an engine that serves a push, and a subscription as it was when SMCAST fixed it and as one loaded since. -/
theorem test_meets_Multicast : let w := { streaming recPush1 { loaded recSub1 with loadedAt := 4 } .filling false with pushes := [(0, ⟨1, 0, recPush1, 0x10000, 0, 0, false, 0, 16, 16, 1, []⟩)] }
    let i : WaitWhy := .mcast recPush1 0x10000 0 [(0, 4)]
    let u := (streaming recPush1 {} .empty false |>.ctx 0).rh 2
    let e : Engine := { loaded recSub1 with slot0 := some u, tokens := 1 }
    let s := streaming recPush1 e .filling false
    let p : Push := ⟨1, 0, recPush1, 0x10000, 0, 0, false, 0, 16, 16, 1, [(0, 0)]⟩
    let t := { s with pushes := [(0, p)] }
    (0 / 2) ∈ (s.part 0).map ∧ (2 / 2) ∉ (s.part 0).map ∧ recOk recPush1 true = true ∧ (0x10000#64).toNat % recSize recPush1 = 0 ∧
    ((s.engines.filter fun e => e.2.st == .loaded && recSrcKind e.2.record == 4 && (recSrcSel e.2.record).toNat == 0 && e.2.bound && e.2.extOk
      && (s.gang 1).members.contains e.2.ctx).map (·.1)) = [0] ∧ prodOf e.ext = prodOf (recExt recPush1) ∧ tget? s.pushes 0 = none ∧
    good (s.devReadLong 0 0x10000 8) (fun r => dwords r.2 == recPush1) = true ∧ tget? t.pushes 0 = some p ∧ 0 < p.permits ∧ p.n < p.count ∧
    (match t.pushWords p.reader 0 16 with | .val r => r.2.2.length == 16 | _ => false) = true ∧ p.subs ≠ [] ∧
    (tget? w.pushes 0).isSome = true ∧ ((some (⟨i, 99999⟩ : Wait)).bind (·.why.mcast?)) = some (recPush1, 0x10000, 0, [(0, 4)]) ∧ w.stillSubs [(0, 4)] ≠ [] ∧ w.stillSubs [(0, 3)] = [] ∧ 0 < (s.engine 0).tokens ∧ recSrcKind (s.engine 0).record = 4 := by decide +kernel

/-! The grid. -/

/-- An image of 32 by 32 elements, one of them of one e.nop, with its SHA-256. -/
def image1Words : List Word := [0x0007DF0000050000, 0x0001000000000000] ++ List.replicate 24 0 ++ [0x0001000000000000, 0, 0]
  ++ [11770275228089466800, 9175189518341199753, 12336949636026061151, 4738063260096300070]
/-- The loaded image: every channel of format int8, window 0 the page at 0x10000, window 1 the tile at page 3. -/
def image1 : Image :=
 { quads := [0], ctx := 0, src := .pantry, proved := true
   img := { ccid := 5, chan := List.replicate 32 0x8000, wins := List.replicate 8 (0, 0), recs := [⟨false, [⟨0, 0, 1, 1⟩], [0]⟩] }
   wins := [⟨true, true, 0x10000, 0x1000, {}⟩, ⟨true, false, 0, 64, ⟨true, tileAtom 2 4 4 false false 3, false, 0, 0, 3⟩⟩] }

/-- Context 0 with the image on quadrant 0 and its element in row 0, column 0. -/
def grid (e : Elem) (im : Image := image1) : State := { on (member [(4, 0x10000)]) with images := [(0, im)], elems := [(0, e)] }

/-- The same with an image that has no valid channel. -/
def bare : State := grid {} { image1 with img := { image1.img with chan := [] } }

/-- An engine of one word to an endpoint of the host whose page is translated, and one of one word to the entry port 0 of edge W. -/
def recOut1 : List Word := [0x2300803040000000, 0, 0, 0x00030003, 0x0000000800000001, 0, 0, 0]
def recPort1 : List Word := [0x25008C0040000000, 0, 0, 0x00030003, 0x0000000800000001, 0, 0, 0]

/-- StreamsAdvance: one burst to the host; a word held for a port that takes it and for one that is closed. -/
theorem test_meets_StreamsAdvance_words : let g : Engine := { loaded recOut1 with st := .running, n := 15, gather := [(100, 7)] }
    let s := { streaming recOut1 g .ready true with dev := { atc := [⟨7, 5, true, true⟩] }
                                                    launches := [(0, { launch1 recOut1 with ends := [{}, {}, {}, { present := true, out := true, addr := 0x5000, extent := 0x10068 }] })] }
    let h : Engine := { loaded recPort1 with st := .running, n := 15, held := [⟨7, 1, 99999, none⟩] }
    let p := { grid {} with engines := [(0, h)] }
    recSrcKind recOut1 = 2 ∧ recDstKind recOut1 = 3 ∧ (recDstSel recOut1).toNat = 3 ∧ g.n + g.gather.length = g.count ∧
    (((s.launch 0).endp? 3 true).any fun e => (decide (0 ≤ g.dstBase.toInt + 100 ∧ g.dstBase.toInt + 100 + 4 ≤ (e.extent : Int)))
      && (s.atcMiss 7 (e.addr.toNat + (g.dstBase.toInt + 100).toNat) 4 true).isNone) = true ∧
    recDstKind recPort1 = 5 ∧ h.count ≤ h.taken ∧ portOf (p.ctx 0).quads (recDstSel recPort1) = some (0, 3, 0) ∧ p.notNext 0 (exitKey 0 0 3 0) 99999 = false ∧ bare.stopsAt 0 0 3 0 1 = true ∧ p.stopsAt 0 0 3 0 1 = false ∧
    (p.offerPort 0 0 3 0 ⟨7, 1, 99999, none⟩).isSome = true ∧ ((grid {} { image1 with portsOpen := false }).offerPort 0 0 3 0 ⟨7, 1, 99999, none⟩).isNone = true ∧
    ({ p with engines := [(0, { h with gather := [(1, 1)], held := List.replicate 4 ⟨7, 1, 0, none⟩ })] } : State).slotFree 0 = false ∧ p.slotFree 0 = true := by
  decide +kernel

/-- A pantry image: the words, a load that the spec's checks pass. -/
theorem test_meets_GridImagesLoad : let s := { on (member [(4, 0x10000), (5, 0x10020)]) with launches := [(0, { state := 2, pantry := { grids := [(1, ⟨0, image1Words⟩), (2, ⟨5, image1Words⟩)] } })] }
    (s.ctx 0).maskQuads 1 = some [0] ∧ (s.ctx 0).maskQuads 2 = none ∧ isRegion [0] = true ∧ isRegion [0, 3] = false ∧
    (tget? (s.launch 0).pantry.grids 1).isSome = true ∧ tget? (s.launch 0).pantry.grids 3 = none ∧ (s.imagesOn 0 [0]) = [] ∧
    good (s.fetchImage 0 .pantry 1 [0]) (fun r => good (checkImage r.2 0 0) (fun g => g == []) && good (r.1.resolveWins 0 (r.1.ctx 0) r.2) fun w => w.2.length == 8) = true ∧
    bad (checkImage { image1.img with recs := [⟨false, [⟨0, 0, 33, 1⟩], [0]⟩] } 0 0) (fun e => e.1 == 1) = true := by decide +kernel

/-- The same words in device memory; a patch of a whole idle image of that CCID; a proof wave at the cycle in which it ends. -/
theorem test_meets_GridImagesLoad_device : let s := { on (member [(4, 0x10000), (5, 0x10020)]) with
      mem := (image1Words.zipIdx).foldl (fun (m : Memory) (w : Word × Nat) => mwrite m (4096 * 2 ^ 52 + 8 * w.2) 8 w.1.toNat) []
      images := [(0, { image1 with proved := false, waveFrom := 100000 - 62, img := { image1.img with chan := List.replicate 32 0, wins := List.replicate 8 (0, 0) } })] }
    ((s.ctx 0).rg 4).toNat % 64 = 0 ∧ ((s.ctx 0).rg 5).toNat % 64 ≠ 0 ∧
    good (s.fetchImage 0 (.device 0x10000) 0 [0]) (fun r => (s.imagesOn 0 [0]).any fun i => s.still i.1 i.2 && good (i.2.img.patched r.2) fun d => good (checkImage d 0 0) fun _ => true) = true ∧
    (match tget? s.images 0 with | some i => decide (s.clock = i.waveFrom + (i.img.rows + i.img.cols - 2)) | none => false) = true ∧
    (patchList [] (5, .device 0x10000)).length ≤ 23 := by decide +kernel

/-- Images that are not quiescent and not still; a patch of another image, and one whose result fails a check. -/
theorem test_meets_GridImagesLoad_waits : let w := [0x40600000003F8000 ||| 0x0200000000000000#64]
    let s := { grid { words := w, qN := { toks := [⟨5, 1, 99990, none⟩] } } with focus := .elem 0 }
    let late := grid { qN := { toks := [⟨5, 1, 100009, none⟩] } }
    let p : ImgData := { image1.img with recs := [⟨false, [⟨0, 0, 1, 1⟩], [0xFF00000000000000]⟩] }
    ((s.imagesOn 0 [0]).all fun i => s.quiescent i.1 i.2) = false ∧ late.still 0 image1 = false ∧
    bad (image1.img.patched { p with chan := [] }) (fun e => e.1 == 1) = true ∧
    good (image1.img.patched p) (fun d => bad (checkImage d 0 0) fun e => e.1 == 2) = true := by
  decide +kernel

/-- An element whose store has fired and waits for its mapping. -/
def pendSt : MemPend := { word := blankEl, op := 1, off := 0, aval := 0, value := 7, outs := [], since := 0, why := .other, dva := true, setL := false, setP := true }
def storing : Elem := { mem := [pendSt] }

/-- GridCommands: whole images, two images, an access that waits and one beyond its window, a seed that enters and one that finds the queue full, a stall counter inside and outside. -/
theorem test_meets_GridCommands : let stuck := grid storing { image1 with wins := [⟨true, true, 0x30000, 0x1000, {}⟩] }
    let beyond := grid { mem := [{ pendSt with off := 0x1000 }] }
    let full : Queue := { toks := List.replicate 4 ⟨0, 0, 0, none⟩ }
    let s := grid { qW := full }
    let x := s.ctx 0
    coversWhole [0] (s.imagesOn 0 [0]) = true ∧ coversWhole [0] [(0, { image1 with quads := [0, 1] })] = false ∧ x.maskQuads 1 = some [0] ∧
    (s.images.map (·.1)).Nodup ∧ (∀ e ∈ (grid {}).imagesOn 0 [0], (grid {}).idle e.1 e.2 = true) ∧ (∃ e ∈ s.imagesOn 0 [0], s.idle e.1 e.2 = true) ∧
    s.effects 0 = true ∧ (on (member []) false).effects 0 = false ∧ acrossEdge 0 3 = none ∧ acrossEdge 0 1 = some 1 ∧ image1.chan 5 = 0x8000 ∧
    (s.settleAll true (s.imagesOn 0 [0])).2 = none ∧ s.accessStuck true (s.imagesOn 0 [0]) = false ∧
    (stuck.settleAll true (stuck.imagesOn 0 [0])).2 = none ∧ stuck.accessStuck true (stuck.imagesOn 0 [0]) = true ∧
    (beyond.settleAll true (beyond.imagesOn 0 [0])).2 = some 4 ∧
    s.heldBefore 0 (exitKey 0 0 3 0) s.clock = false ∧ (s.inPort (exitKey 0 0 3 0)).free (s.cyc 0) 1 = true ∧ bare.stopsAt 0 0 3 0 30 = true ∧
    ((s.elem 0).queue .n).hasRoom (s.cyc 0) = true ∧ (s.elem 0).qW.hasRoom s.clock = false ∧ (s.elem 0).qN.hasRoom s.clock = true ∧ portElem 0 0 3 0 = (0, .w) ∧ regionRows x.quads = 32 ∧
    (0x1000#64) &&& ~~~(0x1F7F : Word) = 0 ∧ (0x1F1F#64) &&& ~~~(0x13F3F : Word) = 0 ∧ ((0x1F1F#64).extractLsb' 8 6).toNat < 32 := by decide +kernel

/-- A fired store of the gang that cannot be performed, and none: the last COMMIT, ABORT, the fault limit. -/
theorem test_meets_stores_that_wait : let c := grid storing { image1 with wins := [⟨true, true, 0x30000, 0x1000, {}⟩] }
    let last := { c with ctxs := tset (tset c.ctxs 0 { c.ctx 0 with log := [⟨0x7000000000000007, false⟩], wait := some ⟨.page 0, 100000 - 54001⟩ }) 8 {},
                         gangs := [(1, { c.gang 1 with commits := [false, true] })] }
    ((List.range 2).all fun r => r == 0 || (last.gang 1).commits.getD r false) = true ∧ resultOk ((last.gang 1).members.flatMap fun m => (last.ctx m).log) = true ∧
    (last.settleAll false (last.gangImages 1)).2 = none ∧ last.accessStuck false (last.gangImages 1) = true ∧
    ((grid { mem := [{ pendSt with off := 0x1000 }] }).settleAll false ((grid {}).gangImages 1)).2 = some 4 ∧ last.endWaits 1 = true ∧ (last.gang 1).ending = none ∧ (last.overLimit 1).isSome = true ∧
    ((grid {}).settleAll false ((grid {}).gangImages 1)).2 = none ∧ (grid {}).accessStuck false ((grid {}).gangImages 1) = false ∧ (grid {}).endWaits 1 = false ∧ (grid {}).storesPending 1 = false := by decide +kernel

/-- A save to 0x10000 that succeeds. -/
theorem test_meets_GridCommands_save : let s := grid {}
    good (({ s with freeCtr := s.freeCtr + 8 } : State).devWriteLong 0 0x10000 [[1, 2, 3, 4, 5, 6, 7, 8]]) (fun _ => true) = true ∧
    (0x10000#64).toNat % 64 = 0 := by decide +kernel

/-- Element 0 acts, with tokens 5 at N and 6 at W. -/
def firing (e : Elem) : State := { grid { e with qN := { toks := [⟨5, 1, 0, none⟩] }, qW := { toks := [⟨6, 2, 0, none⟩] } } with focus := .elem 0 }
/-- Its site. -/
def siteIn (s : State) : Site := ⟨0, 0, image1, s.elem 0⟩
/-- e.add N, W to E; words of memory elements: an offset at N, B at W, the result to E, in window 0. -/
def addNW : ElWord := { blankEl with a := 0, b := 3, dE := 1 }
def memW (win : BitVec 8) : ElWord := { blankEl with a := 0, b := 3, dE := 1, cond := 2, aux := 0x10 + win }

theorem firing_acts (e : Elem) (h1 : e.halted = false) (h2 : e.acted ≠ 100001) : (firing e).acts 0 (siteIn (firing e)) :=
  ⟨rfl, rfl, by simp [siteIn, firing, grid, State.elem, Site.enabled, image1, h1, tgetD, tget?], h2⟩

/-- ElementOpsCompute: the heads and the space are there; W is empty; the neighbour's queue is full; accesses are pending whose results
have its four slots, and a word reads the previous result. -/
theorem test_meets_ElementOpsCompute : let s := firing {}
    let t := siteIn s
    let pending : Site := { t with e := { t.e with mem := List.replicate 4 { pendSt with outs := [(.e, none, 1)] } } }
    let full := { s with elems := s.elems ++ [(1, ({ qW := { toks := List.replicate 4 ⟨0, 0, 0, none⟩ } } : Elem))] }
    t.e.mismatch s.clock 1 addNW = false ∧ t.e.needed s.clock 1 addNW = [.n, .w] ∧ (t.e.head s.clock .n).isSome = true ∧
    (t.e.head s.clock .w).isSome = true ∧ t.gated [.n, .w] [.e] = false ∧ t.out .e = .elem 1 .w ∧ s.roomPast (t.out .e) (t.e.reserved .e) = true ∧
    t.e.awaits addNW = false ∧ pending.e.awaits addNW = false ∧ pending.e.awaits { addNW with a := 6 } = true ∧ pending.e.reserved .e = 4 ∧
    s.roomPast (pending.out .e) (pending.e.reserved .e) = false ∧ full.roomPast (t.out .e) (t.e.reserved .e) = false ∧ ((t.e.deq s.clock [.w]).head s.clock .w).isSome = false := by decide +kernel

/-- MemoryElements: through a DVA window (inside, at its end, aligned) and a TILE window, a retry, a tag that differs, a sink. -/
theorem test_meets_MemoryElements : let s := firing {}
    let t := siteIn s
    let m := s.memPend t 0x20 0 (memW 0) [(.e, 1)]
    let s0 := s.memFired t m [.n, .w] [(.e, 1)]
    let behind : Site := { t with e := { t.e with mem := [pendSt] } }
    s.ready t 0x20 (memW 0) = .go [.n, .w] [(.e, 1)] ∧ s.ready t 0x21 (memW 0) = .go [.n, .w] [(.e, 1)] ∧ t.e.mem = [] ∧ m.off = 20 ∧
    s.ready behind 0x20 (memW 0) = .go [.n, .w] [(.e, 1)] ∧ behind.e.mem = [pendSt] ∧ pendSt.dva = true ∧ t.e.awaits (memW 0) = false ∧
    (20 : Int) + 4 ≤ 0x1000 ∧ ¬ (0xFFD : Int) + 4 ≤ 0x1000 ∧ ((0x10000#64).toInt + 20) % 4 = 0 ∧
    good (s0.devRead 0 0x10014 4) (fun r => r.2.length == 4) = true ∧ good (s0.devWrite 0 none 0x10014 (toBytes 6 4)) (fun _ => true) = true ∧
    t.e.mismatch s.clock 0x27 { memW 0 with imm := 1 } = false ∧ t.e.mismatch s.clock 0x27 { memW 0 with imm := 2 } = true ∧
    s.ready t 0x28 ({ blankEl with a := 0 } : ElWord) = .go [.n] [] := by decide +kernel

/-- The TILE window: READY, EMPTY and open, FILLING; a retry that succeeds and one that finds no translation. -/
theorem test_meets_MemoryElements_tile : let s := { tiled 2 4 4 .ready true [] with images := [(0, image1)], focus := .elem 0 }
    let o := { tiled 2 4 4 .empty false [] with images := [(0, image1)], focus := .elem 0 }
    let m : MemPend := { word := memW 1, op := 0, off := 20, aval := 5, value := 6, outs := [], since := 0, why := .page 0, dva := true, setL := false, setP := true }
    let z : Image := { image1 with wins := [⟨true, true, 0x30000, 0x1000, {}⟩] }
    s.tile? 3 = some ⟨2, 4, 4, .ready, 0, 0⟩ ∧ opens (s.pageAccess 0 3 1 false) = true ∧ o.tile? 3 = some ⟨2, 4, 4, .empty, 0, 0⟩ ∧
    opens (o.pageAccess 0 3 1 true) = true ∧ 44 % pitchOf 2 4 + 4 ≤ 4 * fmtSize 2 ∧ 0 < pitchOf 2 4 ∧ 44 + 4 ≤ tileBytes 2 4 4 ∧
    m.since + 2700 * (s.launch 0).faultLimit < s.clock ∧ ¬ { m with since := 99000 }.since + 2700 * (s.launch 0).faultLimit < s.clock ∧ (s.gang 1).ending = none ∧
    (match s.tryAccess 0 image1 m with | .done _ _ => true | _ => false) = true ∧ (match s.tryAccess 0 image1 { m with dva := false } with | .done _ _ => true | _ => false) = true ∧
    (match s.tryAccess 0 z { m with word := memW 0 } with | .wait _ why d => why == .other && d | _ => false) = true := by decide +kernel

/-- TriggerOpsAndIslands: a trigger that holds, one that does not, room and none, the attached island, wrong operands, a scale token, a
task's last k-step. -/
theorem test_meets_TriggerOpsAndIslands : let w : TrWord := { blankTr with head := 1, deq := 1 }
    let s := firing {}
    let t := siteIn s
    let busy := { s with islands := [(0, { queue := List.replicate 4 (.clear false) })] }
    t.e.trigHolds s.clock w = true ∧ t.e.trigHolds s.clock { w with mask := 1, value := 1 } = false ∧ s.trigRoom t 1 w = true ∧
    busy.trigRoom t 1 w = false ∧ islandAt 0 = some 0 ∧ hdrBad 0 = false ∧ hdrBad 5 = true ∧ (5#32) &&& ~~~(0x007F007F : W32) = 0 ∧
    (0x80#32) &&& ~~~(0x007F007F : W32) ≠ 0 ∧ t.out .w ≠ .elem 0 .e ∧ t.out .n ≠ .elem 0 .n := by decide +kernel

theorem test_meets_Islands : let u : Run := ⟨0, 0, true, 1, 2, List.replicate 32 (0x01010101, 1), List.replicate 32 (0x02020202, 2), []⟩
    let r : Island := { run := some u, lat0 := some ⟨2, 0, 0⟩ }
    let due : Island := { bufB := [.scale 15 0x40000000], run := some { u with started := false, stepA := [] } }
    let s := { grid {} with islands := [(0, r), (1, { bufB := [.scale 15 0x40000000] }), (2, { queue := [.clear true] })] }
    (s.imageAt 0 0).any (fun i => i.2.proved && !i.2.killed && i.2.chanFmt 1 == some 0 && i.2.chanFmt 2 == some 0) = true ∧
    r.latch (hdrBank 0) = some ⟨2, 0, 0⟩ ∧ hdrK 0 ≤ 0 + 1 ∧ r.queue = [] ∧ r.bufA = [] ∧ r.weights = [] ∧ (s.island 1).bufB = [.scale 15 0x40000000] ∧
    (s.island 1).latchDue image1 = false ∧ due.latchDue image1 = true ∧ ((u.stepA ++ u.stepB).all fun y => image1.chanFmt y.2 == some 0) = true ∧
    (s.island 2).queue = [.clear true] ∧ (s.island 2).run = none ∧ (s.imageAt 0 1).isNone = true := by decide +kernel

/-! Launches, the pager, errors, the registers, peers. -/

/-- A pantry of the one symbol 7 and a record that names it, in the pinned aperture. -/
def pantry1 : List Word := [0x8000010000, 0x4000000001, 0, 0, 0, 0, 0, 0, 0x7000000000000007, 0, 0, 0, 0xb2ff271a3eec004b, 0x6f778d8b6e94a073,
  0xf0500878bbc5c56b, 0xfc92b67245d2558f]
def record1 : List Word := [0x8000, 0x0008000000030000, 0, 0, 0, 0, 0, 0, 0x5000, 0x8000000000000040]
/-- Launch slot 0 is loading from DPA 2^51 + 0x20000. -/
def loading : State :=
  let put := fun (m : Memory) (l : List Word) (off : Nat) => (l.zipIdx).foldl (fun m w => mwrite m (4096 * 2 ^ 52 + off + 8 * w.2) 8 w.1.toNat) m
  { parts := [(0, { clusters := 1, ports := 2, map := [0], split := [(0, 0x804)] })], launches := [(0, { state := 1, record := 0x0008000000020000 })]
    mem := put (put [] record1 0x20000) pantry1 0x30000 }

/-- The load of a whole launch: the symbol stands in the first cell and the launch runs. -/
theorem test_launchLoad : nextIs (.launchLoad 0 0) loading (fun t => (t.launch 0).state == 2 && t.row == [(0, ⟨0x7000000000000007, 0⟩)]) = true := by
  decide +kernel

/-- LaunchesLoadPlaceAndCommit, the register and the load: a free slot below full ones and none, a record that is there and one that is not. -/
theorem test_meets_Launches_load : let s := loading
    let four := { s with launches := (List.range 4).map fun i => (i, { state := 2 }) }
    (tget? s.parts 0).isSome = true ∧ (s.launch 0).state = 1 ∧ (s.launch 1).state = 0 ∧ (∀ i < 1, (s.launch i).state ≠ 0) ∧ (∀ i < 4, (four.launch i).state ≠ 0) ∧
    (0xFFFFFFFFFFFF8#64).extractLsb' 52 12 = 0 ∧ (0xFFFFFFFFFFFF8#64).extractLsb' 0 3 = 0 ∧ (1#64).extractLsb' 0 3 ≠ 0 ∧
    (s.readRecord 0 (s.launch 0)).any (fun x => x.pantry.tiles == [] && x.pantry.expr.all (loadSymOk 0) && x.pantry.expr.length ≤ (s.partCells 0).length
      && x.limit == 0 && (s.layout 0 x.gap x.pantry.expr.length).isSome) = true ∧
    (({ s with mem := [] } : State).readRecord 0 (s.launch 0)).isNone = true := by decide +kernel

/-- The passes: one due, one that is not, with an application to mark and with none left; the freeing of a slot that is done. -/
theorem test_meets_Launches_pass : let s := { on (member []) with parts := [(0, { clusters := 1, passDue := true, stepEnd := 100000 })], ras := [], launches := [(0, { state := 2, checked := true })] }
    let e := { s with row := [(8, ⟨0x7000000000000007, 0⟩)], launches := [(0, { state := 2, checked := true, ends := [{ present := true, out := true, extent := 64 }] })] }
    (s.part 0).passDue = true ∧ (s.part 0).stepEnd ≤ s.clock ∧ (s.launch 0).state = 2 ∧ (s.launch 0).checked = true ∧
    (∀ i < 4, i ≠ 0 → (s.launch i).state ≠ 2 ∧ (s.launch i).state ≠ 3) ∧ s.ras = [] ∧ innermost (s.symsOf 0 0) none ≠ [] ∧
    innermost (e.symsOf 0 0) none = [] ∧ (e.resultBytes 0).length ≤ 64 ∧ (e.launch 0).ending = none ∧
    ({ e with dev := { atc := [⟨0, 0, true, true⟩] } } : State).atcMiss 0 0 (e.resultBytes 0).length true = none ∧ ((on (member [])).part 0).passDue = false := by decide +kernel

/-- A placement at the core of the queue, a theft by another core of its cluster at the tick from which it may be, the load of an operator. -/
theorem test_meets_Launches_place : let o : Oper := { gang := 2 }
    let x : RA := { part := 0, slot := 0, cell := 8, agePass := 1, ageCell := 8, st := .queued 0, since := 27 }
    let s := { on (member []) with ctxs := [], gangs := [], ras := [(1, x)], launches := [(0, { state := 2, pantry := { ops := [(7, o)], grids := [] } })] }
    s.raAt 0 0 8 = some (1, x) ∧ x.queue = some 0 ∧ x.saved = none ∧ s.ra 1 = x ∧ x.since + 10 ≤ s.tick 0 ∧
    (s.placement 0 (1, x)).any (fun ms => decide (ms.map (·.1)).Nodup && ms.length == 2) = true ∧
    (s.fitRa (s.busyNow 0 (s.heldFor 0 (1, x))) 1 1).any (fun ms => decide (ms.map (·.1)).Nodup) = true ∧ (s.ras.map (·.1)).Nodup ∧
    (∃ e ∈ (on (member [])).gangs, e.2.op = 1 ∧ ∃ k ∈ e.2.members, coreOf k = 1) := by decide +kernel

/-- A gang that starts, and an accepted result that a commit step takes. -/
theorem test_meets_Launches_commit : let g := { gang1 false with started := false }
    let s := { on { status := .placed, gang := 1, quads := [0] } with gangs := [(1, g)], cores := [(0, { code := [(0, 0, 1)] }), (1, { code := [(0, 0, 1)] })] }
    let r : RA := { part := 0, slot := 0, cell := 8, agePass := 1, ageCell := 8, st := .accepted, result := List.replicate 15 0x7000000000000007 }
    let t := { on (member []) with ras := [(1, r)] }
    (s.ctx 0).status = .placed ∧ (s.gang 1).started = false ∧ (∀ m ∈ g.members, (g.part, g.slot, g.op) ∈ (s.core (coreOf m)).code) ∧
    tget? s.saved 1 = none ∧ g.members.Nodup ∧ t.acceptedRas 0 = [(1, r)] ∧ tget? t.ras 1 = some r ∧ t.waitingRas 0 = [] ∧
    (t.part 0).stepEnd ≤ t.clock ∧ (t.part 0).passDue = false ∧ r.result.length ≤ t.raLen 1 := by decide +kernel

/-- PagerFaultLimitsAndPreemption: a copy that is here and one that is not, an arrival, one at a core whose frames are
held back, a clock with 4,032 frames in use and one more. -/
theorem test_meets_Pager : let s := tiled 2 4 4 .ready true []
    let far := { s with dir := [(3, { s.dirE 3 with copies := 2 })], xfers := [⟨3, .scratch 1 0, 0, false, 0, [0]⟩] }
    let kept := { far with cores := [(0, ({ framesHeld := 4096 } : Core))] }
    let full := { s with frames := s.frames ++ (List.range 4032).map fun i => (1 + i, Frame.page (100 + i) []), dir := [(3, { s.dirE 3 with copies := 3 })], stt := [] }
    let edge := { s with frames := (List.range 4032).map fun i => (i, Frame.page (100 + i) []) }
    (tget? s.dir 3).any (fun e => !e.lost && e.sealed && e.loc != .moving && e.copies.getLsbD 0) = true ∧
    (tget? far.dir 3).any (fun e => !e.lost && e.sealed && !e.copies.getLsbD 0) = true ∧
    far.xfers.find? (fun x => x.page == 3 && x.core == 0) = some ⟨3, .scratch 1 0, 0, false, 0, [0]⟩ ∧ far.freeFrame 0 = some 1 ∧ far.usedFrames 0 + (far.core 0).framesHeld < 4096 ∧ 4096 ≤ far.usedFrames 0 + (kept.core 0).framesHeld ∧
    s.tile? 3 = some ⟨2, 4, 4, .ready, 0, 0⟩ ∧ edge.usedFrames 0 + (edge.core 0).framesHeld ≤ 4032 ∧ 4032 < full.usedFrames 0 + (full.core 0).framesHeld ∧ (full.core 0).hand % 4096 = 0 ∧
    tget? full.frames 0 = some (.page 3 []) ∧ full.clockSkips (.page 3 []) = false ∧ tget? full.stt 3 = none ∧ (full.dirE 3).sealed = true ∧
    (full.dirE 3).copies &&& ~~~(BitVec.ofNat 64 (2 ^ 0)) ≠ 0 := by decide +kernel

/-- A wait that has passed its limit and one at it, with 2 and with 3 strikes; a pre-emption and a resumption of slot 3. -/
theorem test_meets_Preempt : let w := fun (n strikes : Nat) => { on { member [] with wait := some ⟨.page 0, 100000 - n⟩ } with
      ras := [(1, { part := 0, slot := 0, cell := 8, agePass := 1, ageCell := 8, st := .placed 1, strikes := strikes })] }
    let b := { on (member []) with parts := [(0, { clusters := 1, preBusy := true })], gangs := [] }
    (w 54001 2).overLimit 1 = some (.page 0) ∧ (w 53999 2).overLimit 1 = none ∧ tget? (w 54001 3).saved 1 = none ∧ ((w 54001 3).ra 1).strikes = 3 ∧
    ((w 54001 3).ra 1).st ≠ .accepted ∧ ((w 54001 2).ras.map (·.1)).Nodup ∧ (0x81#64).extractLsb' 8 56 = 0 ∧ ((List.range 4).filter fun i => (0x81#64).getLsbD (4 + i)) = [3] ∧
    (0x81#64).extractLsb' 0 2 = 1 ∧ (0x82#64).extractLsb' 0 2 = 2 ∧ (0x83#64).extractLsb' 0 2 = 3 ∧ ((on (member [])).part 0).preBusy = false ∧
    ((on (member [])).launch 0).state = 2 ∧ (b.part 0).preBusy = true ∧ (b.part 0).preHalt = none ∧ b.gangs = [] := by decide +kernel

/-- ErrorsFencingAndMargin: one place for each kind of error. -/
theorem test_meets_Errors : let s := { tiled 2 4 4 .ready true [] with
      images := [(0, { image1 with active := true }), (1, { image1 with quads := [1], active := false })], l1d := [(5, false)], spills := [(7, .page 4 0)], plans := [(0, plan1)] }
    let t := { s with dir := [(3, { s.dirE 3 with loc := .scratch 0 0, copies := 1 }), (4, { sealed := true, loc := .spill 0 7 })] }
    (tget? s.row 8).isSome = true ∧ s.partOf 0 = some 0 ∧ (s.ctx 0).status = .running ∧ (s.imageAt 0 (quadOf 31 31)).isSome = true ∧ (s.ctxs.find? fun e => coreOf e.1 == 0 && e.2.status != .free && e.2.status != .placed && e.2.quads.contains (quadOf 31 31)).isSome = true ∧
    (s.imageAt 0 (1 / 2)).isSome = true ∧ tget? s.l1d (l1dKey 0 (64 * 5)) = some false ∧ s.resolve 0 (64 * (2 ^ 51 / 64)) = some (.mem (4096 * 2 ^ 52)) ∧
    (s.images.find? fun i => i.1 / 4 == 0 && (i.2.active || !i.2.proved) && i.2.quads.any fun j => (1#4).getLsbD j) = some (0, { image1 with active := true }) ∧
    (s.images.find? fun i => i.1 / 4 == 0 && (i.2.active || !i.2.proved) && i.2.quads.any fun j => (2#4).getLsbD j) = none ∧ image1.errors = 0 ∧
    tget? t.frames 0 = some (.page 3 []) ∧ (t.dirE 3).loc = .scratch 0 0 ∧ (t.dirE 3).copies = BitVec.ofNat 64 (2 ^ 0) ∧ (t.dirE 3).backed = false ∧
    tget? t.spills 7 = some (.page 4 0) ∧ (t.dirE 4).sealed = true ∧ (t.dirE 4).copies = 0 ∧ (t.dirE 4).backed = false ∧
    tget? s.plans 0 = some plan1 ∧ plan1.done < plan1.fires ∧ plan1.poisoned = none ∧ (tget? s.dir 3).isSome = true := by decide +kernel

/-- A clean line of an L2 and a dirty one, the pinned aperture's lines; a unit that is there and one that is not, a bin that does not do. -/
theorem test_meets_Errors_lines : let s := { on (member []) with l2 := [(l2Key 0 5, false), (l2Key 0 6, true)], dev := { fencedSlices := 2 } }
    tget? s.l2 (l2Key 0 5) = some false ∧ s.lineUnit 0 6 = some (sliceUnit 0) ∧ s.lineUnit 0 5 = none ∧ s.lineUnit 0 (2 ^ 51 / 64) = some (sliceUnit 0) ∧
    s.unitPresent 127 = true ∧ s.unitPresent 65 = false ∧ s.unitPresent 128 = false ∧ ([(0, 3), (64, 4)].map (·.1) : List Nat).Nodup := by decide +kernel

/-- A configuration error whose image the pantry gives back. -/
theorem test_meets_Errors_reload : let s := { on (member []) with launches := [(0, { state := 2, pantry := { grids := [(5, ⟨0, image1Words⟩)] } })], images := [(0, { image1 with active := true })] }
    (((s.countError 0).cfgDrop 0 0 5 true).reloadImage 0 [0] { image1 with active := true }).isOk = true := by decide +kernel

/-- The fencing of a core and of a slice, the hours of the margin planner, a port that goes down and one that trains. -/
theorem test_meets_Fencing : let d : Device := { bootsts := 3, ports := [(1, ⟨true, false, false⟩)] }
    let c : Tab Core := [(0, { fenced := true }), (64, { fenced := true })]
    let s := { on (member []) with gangs := [], cores := c, parts := [(0, { clusters := 1, map := [0, 1] })], dev := d, clock := 9720000000000 * 2000 }
    s.fenceBegun 0 = true ∧ s.fenceBegun 1 = false ∧ s.partOf 0 = some 0 ∧ s.gangsOn 0 = [] ∧ s.xfers = [] ∧ s.pageFrames 0 = [] ∧
    (s.core (sliceUnit 0)).fenced = true ∧ s.partOfSlice 0 = some 0 ∧ 0 ∈ (s.part 0).map ∧ (∃ j ∈ (s.part 0).map, j ≠ 0) ∧
    s.corePresent 63 = true ∧ s.dev.planHour + 2000 ≤ s.hours ∧ ([(0, 3), (63, 0)].map (·.1) : List Nat).Nodup ∧
    (tgetD s.dev.ports 1 {}).up = true ∧ tgetD s.dev.ports 31 {} ≠ ⟨true, false, false⟩ := by decide +kernel

/-- RegistersPartitionsAndBoot: the last granule and slice, the largest split and one beyond it, a staged map, an invalidation, a busy map,
the longest and the shortest firmware, definitions of partitions 15 and 0. -/
theorem test_meets_Registers : let s := { on (member []) with dev := { bootsts := 3, pending := 1 }, parts := [(0, { clusters := 0x8000, ports := 2, slmap := [(0, 0xBF)] })] }
    (tget? s.parts 0).isSome = true ∧ 2047 < 2048 ∧ (0x8FF8000000000003#64).extractLsb' 0 32 &&& ~~~((s.part 0).ports ||| 1) = 0 ∧
    (4#64).extractLsb' 0 32 &&& ~~~((s.part 0).ports ||| 1) ≠ 0 ∧ (s.part 0).clusters.getLsbD (63 / 4) = true ∧ s.sliceLive 63 = true ∧
    pinnedMiB 0x804 + spillMiB 0x804 ≤ 12 ∧ ¬ pinnedMiB 0x80F + spillMiB 0x80F ≤ 12 ∧ (0x804#64).extractLsb' 12 52 = 0 ∧ (0x804#64).extractLsb' 4 4 = 0 ∧
    (s.part 0).staged = some [63] ∧ dvinvOk 0x0000123456789000 = true ∧ (∀ g ∈ s.gangs, s.dvinvHits 0 0x0000123456789000 g.2 = true → s.storesPending g.1 = false) ∧ (∀ i ∈ (s.part 0).dvinvRas, (s.ra i).st ≠ .waiting) ∧
    (∀ e ∈ s.dvinvEngines 0 0x0000123456789000, ∀ r ∈ (s.engine e).runs, dvinvMeets 0x0000123456789000 (4096 * r.page) (4096 * r.count) = false) ∧ (s.part 0).dvinv = none ∧
    16225 ≤ (16225#64).toNat ∧ (524288#64).toNat ≤ 524288 ∧ ¬ 16225 ≤ (16224#64).toNat ∧ (0x8000000000000001#64).getLsbD 63 = true ∧
    tget? s.parts 15 = none ∧ (0x8000000000000001#64).extractLsb' 0 16 &&& (s.part 0).clusters = 0 ∧ (∀ i < 4, ({ s with launches := [] } : State).launch i = {}) ∧
    (s.launch 0).state ≠ 0 ∧ s.dev.pending.getLsbD 0 = true ∧ (95 : Nat) < 96 := by decide +kernel

/-- Of the same: boot states 0 and 1, a map change under way, an invalidation under way. -/
theorem test_meets_Registers_busy : let s := { on (member []) with dev := { bootsts := 1 }, parts := [(0, { clusters := 1, slBusy := true, slmap := [(1, 0x80)], dvinv := some 0x1000000000000000 })] }
    s.dev.bootsts = 1 ∧ State.reset.dev.bootsts = 0 ∧ (s.part 0).slBusy = true ∧ s.spills = [] ∧ s.dir = [] ∧ (s.part 0).dvinv = some 0x1000000000000000 ∧ (s.part 0).staged = none := by
  decide +kernel

theorem test_meets_RegisterWindows : (15 : Nat) < 16 ∧ (tget? ({ on (member []) with parts := [(15, {})], dev := { bootsts := 3 } } : State).parts 15).isSome = true ∧
    (0x10004 : Nat) % 8 ≠ 0 ∧ (0xFFF8 : Nat) < 0x10000 ∧ tget? ({ on (member []) with parts := [(15, {})] } : State).parts 14 = none ∧
    ((0x7FFF8 : Nat) + 8 ≤ 0x80000) ∧ State.reset.dev.bootsts = 0 ∧ (4 : Nat) ≠ 8 := by decide

/-- PeersHostPagesAndAttestation: the last bytes of a line, a request over several lines, one that leaves the aperture, the trigger
aperture, a poisoned line. -/
theorem test_meets_Peers : let s := planned [(5, plan1)]
    s.resolve 0 (2 ^ 51 + 56) = some (.mem (4096 * 2 ^ 52 + 56)) ∧ 56 + 200 ≤ (s.part 0).pinnedCap ∧ ¬ 0x2FFFFFF8 + 16 ≤ (s.part 0).pinnedCap ∧ (0 : Nat) ∉ s.poison ∧ (56 : Nat) % 8 = 0 ∧
    s.resolve 0 (2 ^ 51 + (2 ^ 32 + 40)) = some (.trig 5) ∧ tget? s.plans 5 = some plan1 ∧ tget? s.plans 6 = none ∧ plan1.dropped = false ∧ (List.replicate 64 (0 : Byte)).length = 64 ∧ (4096 * 2 ^ 52) % 64 = 0 ∧
    s.resolve 0 (2 ^ 51 + 0x400000) = none ∧ (4096 * 2 ^ 52 + 56) / 64 ∉ s.poison ∧
    (4096 * 2 ^ 52 + 56) / 64 ∈ ({ s with poison := [(4096 * 2 ^ 52 + 56) / 64] } : State).poison := by decide +kernel

/-- A translation request, a page request group, 31 and 32 groups, an engine that waits for the page, at its limit and before it. -/
theorem test_meets_HostPages : let g : Engine := { loaded recHost1 with st := .running, srcBase := 0, hostOk := true, wait := some ⟨.other, 0⟩, hostWait := some (3, 5, false) }
    let q : HostReq := { part := 0, pasid := 7, page := 5, write := false, since := 46000 }
    let s := { streaming recHost1 g .empty false with dev := { transReqs := [q], pageReqs := [q] } }
    let full := { s with dev := { pageReqs := List.replicate 32 { q with page := 9 } } }
    let more := { s with dev := { pageReqs := [q], pageWait := [{ q with page := 6 }] } }
    s.dev.transReqs.find? (·.names 7 5) = some q ∧ s.dev.pageReqs.find? (·.names 7 5) = some q ∧
    s.prgs 0 < 32 ∧ s.dev.pageWait = [] ∧ more.dev.pageWait.find? (fun e => e.part == 0) = some { q with page := 6 } ∧
    more.prgs 0 ≤ 32 ∧ 32 ≤ full.prgs 0 ∧ s.hostUse g 7 5 false = some 3 ∧ g.wait.isSome = true ∧ 0 + 2700 * (s.launch 0).faultLimit ≤ s.clock ∧ (s.engines.map (·.1)).Nodup ∧ recSrcKind g.record ≠ 4 ∧
    46000 + 2700 * (s.launch 0).faultLimit ≤ s.clock ∧ ¬ 46001 + 2700 * (s.launch 0).faultLimit ≤ s.clock ∧ (1 : Nat) ≤ 5 := by decide +kernel

/-- A turn of context 0: one word, two words, words that are no instruction, a PC outside the code, a second word outside it. -/
theorem test_meets_StepRuns : let o : Oper := { code := [0x30000000, 0x14040000, 5, 0xFE000000, 0x14040000] }
    let s := fun (pc : Word) => { on { member [] with pc := pc } with agenda := [.cp 0 0], launches := [(0, { state := 2, pantry := { ops := [(1, o)] } })] }
    ((s 0).ctx 0).status = .running ∧ ((s 0).oper 0).word? 0 = some 0x30000000 ∧ (decodeWord 0x30000000 0).toOption = some (.br no 0) ∧ isTwoWords 0x30000000 = false ∧
    ((s 4).oper 0).word? 4 = some 0x14040000 ∧ isTwoWords 0x14040000 = true ∧ ((s 4).oper 0).word? 8 = some 5 ∧ (decodeWord 0x14040000 5).toOption = some (.ldi no 4 5) ∧
    ((s 12).oper 0).word? 12 = some 0xFE000000 ∧ isTwoWords 0xFE000000 = false ∧ (decodeWord 0xFE000000 0).toOption = none ∧
    ((s 16).oper 0).word? 16 = some 0x14040000 ∧ ((s 16).oper 0).word? 20 = none ∧
    (decodeWord 0x14040000 0).isOk = true ∧ (decodeWord 0x15040000 0).isOk = false ∧ isTwoWords 0x15040000 = true ∧
    ((s 16).ctx 0).guardHolds (guardOf 0x14040000) = true ∧ (decodeWord 0x14240000 0).isOk = true ∧ ((s 16).ctx 0).guardHolds (guardOf 0x14240000) = false := by
  decide +kernel

/-- StepsNeverStop and MemoryStaysCanonical: a state with an agenda, memory and an input, and a step from it. -/
theorem test_meets_invariants : let s := { planned [] with agenda := [.cp 0 0, .event .firmwareCheck, .advance], inputs := [(5, .event (.msixUnmask 3)), (6, .maskVector 3)] }
    s.agendaOk ∧ s.memWf ∧ s.dev.gradeOk = true ∧ (match step s with | .next t => t.mem.wf && t.host.wf && t.dir.all (fun e => e.2.data.wf) | _ => false) = true := by
  unfold State.agendaOk State.memWf; decide +kernel

/-- The steps of a program: LDI then NOP, run by step from the fetch. -/
theorem test_withFetchWord : (match step (State.reset.withFetchWord 64 0x0000000514040000) with | .next t => ((t.ctx 0).rg 4, (t.ctx 0).status == .running) | _ => (0, false)) =
    (5, true) := by decide +kernel

/-- EncodeDecodeRoundTrip: well-formed instructions of each kind, one word and two. -/
theorem test_meets_EncodeDecodeRoundTrip : ∀ i ∈ [Instr.ldiHi no 31 0xFFFFFFFF, .fcvt no 3 4 9 true 5 0, .eAdd addNW, .tHalt blankTr, .sagenTile no 15 15 31],
    i.wellFormed = true ∧ (i.guard?.isSome = true ∨ i.isElementOp = true ∨ i.isTriggerOp = true) := by decide

/-! What the statements say of trigger apertures, patches, islands, kneads, open pages, checkpoints and held reads. -/

/-- PredicateOperations: the words of the four operations. -/
theorem test_meets_PredicateOperations_words : ([0x1E010880#32, 0x1E010881, 0x1E010882, 0x1E010803].all fun w =>
    w.extractLsb' 25 7 == 0x0F#7 && w.extractLsb' 19 2 == 0 && w.extractLsb' 14 2 == 0 && w.extractLsb' 9 2 == 0 &&
    decide ((⟨w.getLsbD 24, w.extractLsb' 21 3⟩ : Guard) ≠ ⟨true, 0⟩) && (w.extractLsb' 0 6 != 3#6 || w.extractLsb' 6 3 == 0)) = true := by decide +kernel

/-- The state of `on` whose TLB also has a peer's trigger aperture, through granule 0, at 0x50000. -/
def firesPeer (fx : Bool) : State :=
  { on (member [(9, 0x20028), (4, 0x50028)]) fx with
    plans := [(5, plan1), (6, { plan1 with dropped := true })]
    parts := [(0, { clusters := 1, ports := 2, map := [0], split := [(0, 0x804)], routes := [(0, 0x8018000000000002)] })]
    dev := { ports := [(1, ⟨true, false, false⟩)], peers := [3] }
    tlb := [⟨0, 0, 0, 2, 16, 2 ^ 51 + 2 ^ 32, true, 0, true⟩, ⟨0, 0, 0, 5, 16, 2 ^ 32, true, 0, true⟩] }

/-- EffectsStoresPerform, RestartableStoresAreLogged, AccessesTrap: the own trigger aperture with a plan that runs, a dropped one and
none, a peer's; the keys under which they are logged, and a log line of each. -/
theorem test_meets_trigger_stores : ∀ fx : Bool, let s := firesPeer fx
    s.focus = .ctx 0 ∧ s.effects 0 = fx ∧ s.mem.wf = true ∧ (s.gangOf 0).part = 0 ∧ 2 ^ (3#2).toNat = 8 ∧
    reaches s 0x20028 true (2 ^ 51 + 2 ^ 32 + 40) (.trig 5) = true ∧ tget? s.plans (0 * 8192 + 5) = some plan1 ∧ plan1.dropped = false ∧
    reaches s 0x20030 true (2 ^ 51 + 2 ^ 32 + 48) (.trig 6) = true ∧ (tget? s.plans (0 * 8192 + 6)).any (·.dropped) = true ∧
    reaches s 0x20038 true (2 ^ 51 + 2 ^ 32 + 56) (.trig 7) = true ∧ tget? s.plans (0 * 8192 + 7) = none ∧
    reaches s 0x50028 true (2 ^ 32 + 40) (.peer 3 5) = true ∧ 2 ^ (2#2).toNat ≠ 8 ∧ (0x20028#64).toNat % 8 = 0 ∧ (0x50028#64).toNat % 8 = 0 ∧
    ((8192 + 0) * 2 ^ 52 + 8 * 5) % 8 = 0 ∧ ((16384 + 3) * 2 ^ 52 + 8 * 5) % 8 = 0 ∧
    (∀ owner ∈ [8192, 16387], let l : LogLine := ⟨owner * 2 ^ 46 + 0, 0, [], (List.range 8).map fun e => (40 + e, 7), false, false⟩
      l.line = owner * 2 ^ 46 + 0 ∧ (∀ e < 64, (tget? l.bytes e).isSome = decide (e / 8 = 5))) := by decide +kernel

/-- A joined plan of this part alone: 16 int32 elements from 0x10000 to 0x10100. -/
def plan2 : Plan := { plan1 with src := 0x10000, dst := 0x10100 }

/-- CollectivePlans: the places of its elements and of its results, apart from each other, and a fire that has not run. -/
theorem test_meets_CollectivePlans_run : let s := planned [(5, plan2)]
    tget? s.plans (0 * 8192 + 5) = some plan2 ∧ plan2.joined = true ∧ plan2.done < plan2.fires ∧ plan2.parts.length = 1 ∧ plan2.pos = 0 ∧ plan2.root = 0 ∧
    s.mem.wf = true ∧ fmtSize plan2.fmt = 4 ∧
    ((List.range plan2.n).all fun i => good (s.translate 0 plan2.launch (plan2.src + BitVec.ofNat 64 (i * 4)) false) fun r =>
      decide (r = (s, ⟨2 ^ 51 + i * 4, .mem (4096 * 2 ^ 52 + i * 4), 0⟩)) && (s.tlbHit 0 plan2.launch (plan2.src + BitVec.ofNat 64 (i * 4)) false).isSome) = true ∧
    ((List.range plan2.n).all fun i => good (s.translate 0 plan2.launch (plan2.dst + BitVec.ofNat 64 (i * 4)) true) fun r =>
      decide (r = (s, ⟨2 ^ 51 + 256 + i * 4, .mem (4096 * 2 ^ 52 + 256 + i * 4), 0⟩)) && (s.tlbHit 0 plan2.launch (plan2.dst + BitVec.ofNat 64 (i * 4)) true).isSome) = true ∧
    ∀ i < plan2.n, ∀ j < plan2.n, i ≠ j → 256 + i * 4 + 4 ≤ 256 + j * 4 ∨ 256 + j * 4 + 4 ≤ 256 + i * 4 := by decide +kernel

/-- GridImagesLoad: a patch that names a rectangle that no loaded record has, and one that names one of two. -/
theorem test_meets_GridImagesLoad_patch : let d : ImgData := { image1.img with recs := [⟨false, [⟨0, 0, 1, 1⟩, ⟨1, 0, 1, 1⟩], [0]⟩] }
    let p : ImgData := { d with recs := [⟨false, [⟨1, 0, 1, 1⟩], [1]⟩] }
    let q : ImgData := { d with recs := [⟨false, [⟨2, 0, 1, 1⟩], [1]⟩] }
    (∃ r ∈ q.recs, ∃ x ∈ r.rects, ∀ z ∈ d.recs, x ∉ z.rects) ∧ (¬ ∃ r ∈ p.recs, ∃ x ∈ r.rects, ∀ z ∈ d.recs, x ∉ z.rects) ∧
    good (d.patched p) (fun e => e.recs == [⟨false, [⟨0, 0, 1, 1⟩], [0]⟩, ⟨false, [⟨1, 0, 1, 1⟩], [1]⟩]) = true := by decide +kernel

/-- GridCommands: banks at rest, an island whose clear is queued, one whose task runs. -/
theorem test_meets_GridCommands_rests : let s := { grid {} with islands := [(0, { queue := [.drain false 1] }), (1, { queue := [.drain false 1, .clear true] }),
      (2, { queue := [.task 0 0] })] }
    let rests := fun (qs : List Nat) (l : List (Nat × Island)) => ∀ i ∈ l, i.1 / 8 = 0 → i.1 % 8 / 2 ∈ qs →
      i.2.run = none ∧ ∀ o ∈ i.2.queue, (match o with | .task _ _ => false | .clear _ => false | _ => true) = true
    ¬ rests [0] s.islands ∧ rests [0] (s.islands.eraseIdx 1) ∧ s.banksRest 0 [0] = false ∧
    ({ s with islands := s.islands.eraseIdx 1 } : State).banksRest 0 [0] = true ∧ (grid {}).idle 0 image1 = true := by decide +kernel

/-- The image with every channel of a format. -/
def imageOf (f : Nat) : Image := { image1 with img := { image1.img with chan := List.replicate 32 (BitVec.ofNat 16 (0x8000 + 16 * f)) } }
/-- A task under way whose k-step is whole: n words each of A and B; an NQ4 task of 128 steps at its step k; their islands. -/
def floatRun (n : Nat) : Run := ⟨0, 0, true, 1, 2, List.replicate n (0x38383838, 1), List.replicate n (0x38383838, 2), []⟩
def nq4Run (k : Nat) : Run := ⟨127 <<< 12, k, true, 1, 2, List.replicate 64 (0x38383838, 1), [], []⟩
def nq4Island (k : Nat) : Island := { run := some (nq4Run k), lat0 := some ⟨5, 0, 0⟩, weights := [List.replicate 2113 ⟨0x77777777, 2, 0, none⟩] }

/-- TriggerOpsAndIslands: a whole k-step of each pair of float formats. -/
theorem test_meets_Islands_float : ∀ y ∈ ([(5, 1, 32), (6, 1, 32), (8, 3, 64), (7, 4, 64)] : List (Nat × Nat × Nat)),
    let r : Island := { run := some (floatRun y.2.2), lat0 := some ⟨y.2.1, 0, 0⟩ }
    let s := { grid {} (imageOf y.1) with islands := [(0, r)] }
    (s.imageAt 0 0).any (fun i => i.2.proved && !i.2.killed && i.2.chanFmt 1 == some y.1 && i.2.chanFmt 2 == some y.1) = true ∧
    s.island 0 = r ∧ r.bufA = [] ∧ r.bufB = [] ∧ r.weights = [] ∧ r.queue = [] ∧ (floatRun y.2.2).started = true ∧ (floatRun y.2.2).stepA.length = y.2.2 ∧
    (floatRun y.2.2).stepB.length = y.2.2 ∧ ((floatRun y.2.2).stepA ++ (floatRun y.2.2).stepB).all (fun z => (imageOf y.1).chanFmt z.2 == some y.1) = true ∧
    r.latch (hdrBank 0) = some ⟨y.2.1, 0, 0⟩ ∧ (0 : Nat) < 128 / y.2.2 := by decide +kernel

/-- A whole pair of k-steps with an NQ4 tile: inside a block of 64, at its end, and at the end of the tile. -/
theorem test_meets_Islands_nq4 : ∀ k ∈ [0, 60, 62, 126], let u := nq4Run k
    let r := nq4Island k
    let s := { grid {} (imageOf 5) with islands := [(0, r)] }
    (s.imageAt 0 0).any (fun i => i.2.proved && !i.2.killed && i.2.chanFmt u.tagA == some 5) = true ∧ s.island 0 = r ∧ r.run = some u ∧ r.bufA = [] ∧
    r.bufB = [] ∧ r.queue = [] ∧ (r.weights.headD []).length = 2113 ∧ u.started = true ∧ hdrK u.header = 128 ∧ u.k < 128 ∧ u.k % 2 = 0 ∧ u.stepA.length = 64 ∧
    u.stepB = [] ∧ (u.stepA.all fun y => (imageOf 5).chanFmt y.2 == some 5) = true ∧ r.latch (hdrBank u.header) = some ⟨5, 0, 0⟩ := by decide +kernel

/-- A drain that begins, one under way with a lane whose queue is full and lanes at their last word and over; a read with room and
without; an entry that waits for the task of its bank. -/
theorem test_meets_Islands_drain : let q : Queue := { toks := List.replicate 4 ⟨0, 0, 0, none⟩ }
    let full : Elem := { qN := q, qE := q, qS := q, qW := q }
    let r : Island := { queue := [.drain false 3] }
    let d : Island := { queue := [.drain false 3], drainPos := 5 :: 1023 :: List.replicate 14 1024 }
    let e : Island := { queue := [.read true 127 127 0 0 .e 4], lat1 := some ⟨1, 0x40000000, 0x3F800000⟩ }
    let u : Run := ⟨0, 0, true, 1, 2, [], [], []⟩
    let w : Island := { run := some u, queue := [.clear (hdrBank 0)] }
    let s := { grid {} with islands := [(0, r), (1, e)] }
    let t := { s with elems := [((attached 0 0 0).1, full), (1, full)] }
    (0 : Nat) < 8 ∧ r.run = none ∧ r.drainPos = [] ∧ d.drainPos.length = 16 ∧ d.drainBank = false ∧ r.bufA = [] ∧ r.bufB = [] ∧ r.weights = [] ∧
    ((s.elem (attached 0 0 0).1).queue (attached 0 0 0).2).hasRoom (s.cyc 0) = true ∧ ((t.elem (attached 0 0 0).1).queue (attached 0 0 0).2).hasRoom (t.cyc 0) = false ∧
    (1023 : Nat) < 1024 ∧ d.drainPos.getD 1 0 = 1023 ∧ d.drainPos.getD 15 0 = 1024 ∧
    s.room ((⟨elemKey 0 0 0, 0, image1, s.elem (elemKey 0 0 0)⟩ : Site).out .e) = true ∧ t.room ((⟨elemKey 0 0 0, 0, image1, t.elem (elemKey 0 0 0)⟩ : Site).out .e) = false ∧
    (s.imageAt 0 0).any (fun i => i.2.proved && !i.2.killed) = true ∧ e.latch true = some ⟨1, 0x40000000, 0x3F800000⟩ ∧
    w.run = some u ∧ u.stepA = [] ∧ (IslOp.clear (hdrBank 0)).bankOf = hdrBank u.header := by decide +kernel

/-- LaunchesLoadPlaceAndCommit, a result longer than its span: room for it, none in a running and in a pre-empted launch. -/
theorem test_meets_Launches_knead : let r : RA := { part := 0, slot := 0, cell := 8, agePass := 1, ageCell := 8, gang := 1, st := .accepted, result := List.replicate 17 0x7000000000000007 }
    let s : State := { on (member []) false with ras := [(1, r), (2, { part := 0, slot := 0, cell := 24, agePass := 1, ageCell := 24, st := .marked })], row := tset (on (member [])).row 24 ⟨0x7000000000000001, 0⟩ }
    let full := fun (st : Nat) => { s with launches := [(0, { state := st, limit := 8 })] }
    s.acceptedRas 0 = [(1, r)] ∧ tget? s.ras 1 = some r ∧ s.waitingRas 0 = [] ∧ (s.part 0).stepEnd ≤ s.treeNow 0 ∧ (s.part 0).passDue = false ∧
    s.raLen 1 = 15 ∧ s.raLen 1 < r.result.length ∧ (s.ras.map (·.1)).Nodup ∧
    (s.kneadOf 1).any (fun k => k.moves.any fun m => (tget? s.row m.1).isSome && (s.cellsBetween 0 0 24 (s.raLast 2)).contains m.1) = true ∧
    (s.kneadOf 1).any (fun k => decide (0 < s.moveBound k)) = true ∧
    (∀ st ∈ [2, 3], (full st).kneadOf 1 = none ∧ (full st).acceptedRas 0 = [(1, r)] ∧ ((full st).launch 0).state = st ∧ (full st).waitingRas 0 = []) ∧
    (s.gang 1).effects = false ∧ (tget? s.gangs r.gang).isSome = true ∧ (s.gang 1).ra = 1 ∧ (s.gang 1).ending = none := by decide +kernel

/-- PagerFaultLimitsAndPreemption: an open page that stands at another core than its writer's, and its arrival. -/
theorem test_meets_Pager_open : let t := tiled 2 4 4 .empty false []
    let s := { t with dir := [(3, { t.dirE 3 with loc := .scratch 1 5 })] }
    let m := { t with dir := [(3, { t.dirE 3 with loc := .moving })], xfers := [⟨3, .scratch 1 5, 0, true, 0, [0, 1]⟩] }
    (tget? s.dir 3).any (fun e => !e.lost && !e.sealed && e.loc == .scratch 1 5 && s.writerCore e == 0) = true ∧ s.xfers = [] ∧
    m.xfers.find? (fun x => x.page == 3 && x.core == 0) = some ⟨3, .scratch 1 5, 0, true, 0, [0, 1]⟩ ∧
    (tget? m.dir 3).any (fun e => !e.sealed && e.loc == .moving && m.writerCore e == 0) = true ∧ m.freeFrame 0 = some 1 ∧ m.usedFrames 0 + (m.core 0).framesHeld < 4096 ∧ ([0, 1] : List Nat).Nodup := by decide +kernel

/-- A gang of effects that is closing: its members hold no quadrant, the first has a barrier of it. -/
def closing : State :=
  let x : Ctx := { member [(4, 7)] with quads := [], event := true }
  { on x with
    parts := [(0, { clusters := 1, ports := 2, map := [0], split := [(0, 0x804)], preBusy := true })]
    gangs := [(1, { gang1 true with closing := some 99000 })]
    ctxs := [(0, x), (8, { x with rank := 1 })]
    bars := [(3, ⟨some 1, 2, 1, true⟩)] }

/-- The checkpoint of a gang, the only one of its partition. -/
theorem test_meets_checkpoint : let s := closing
    (s.part 0).preBusy = true ∧ (s.part 0).preHalt = none ∧ (s.gang 1).part = 0 ∧ (s.gang 1).slot = 0 ∧ (s.gang 1).closing = some 99000 ∧ s.gangs.length = 1 ∧
    (s.gang 1).members.Nodup ∧ (∀ m ∈ (s.gang 1).members, (s.ctx m).gang = 1) ∧ s.closed 1 99000 = true ∧ s.tokensOver 1 = false ∧
    (s.launch 0).nextPage + ((s.gang 1).members.map s.memberPages).sum ≤ 2 ^ 37 ∧ (s.saveMembers 1 (s.gang 1).members).isSome = true ∧
    coreOf 0 ≠ coreOf 8 ∧ (s.bar 3).gang = some 1 := by decide +kernel

/-- The resume of what that checkpoint saves, with its pages at hand. -/
theorem test_meets_resume : (match closing.saveMembers 1 [0, 8] with
    | none => false
    | some a =>
      let g : Gang := { gang1 true with started := false }
      let sg : SavedGang := ⟨g, a.2, []⟩
      let s : State := { a.1 with
        gangs := [(1, g)], saved := [(1, sg)], ctxs := [(0, { status := .placed, gang := 1 }), (8, { status := .placed, gang := 1, rank := 1 })]
        cores := [(0, { code := [(0, 0, 1)] }), (1, { code := [(0, 0, 1)] })] }
      let ms := g.members.zip sg.members
      (s.ctx 0).status == .placed && !g.started && (g.members.all fun m => (s.core (coreOf m)).code.contains (g.part, g.slot, g.op)) && sg.members.length == 2
        && (ms.all fun m => m.2.engines == [] && decide (m.2.bars.map (·.1)).Nodup) && (ms.map fun m => m.2.bars.length) == [1, 0]
        && (ms.all fun m => m.2.bars.all fun z => decide (z.1 < 32) && ((s.bar (coreOf m.1 * 32 + z.1)).gang == some 1 || (s.bar (coreOf m.1 * 32 + z.1)).gang == none))
        && (s.bringAll ms).2 && !sg.pageLost (s.bringAll ms).1 0 && ((s.bringAll ms).1.restoreRegions ms).toOption.isSome) = true := by decide +kernel

/-- StepRunsTheDecodedInstruction: a read of the application while a knead holds it, another instruction then, and the read once it is over. -/
theorem test_meets_StepRuns_held : let s := fun (code : List W32) (till : Nat) => { on { member [] with pc := 0 } with
      agenda := [.cp 0 0], launches := [(0, { state := 2, pantry := { ops := [(1, { code := code })] } })]
      ras := [(1, { part := 0, slot := 0, cell := 8, agePass := 1, ageCell := 8, st := .placed 1, heldUntil := till })] }
    let read := 0x60140005
    ((s [read] 200000).ctx 0).status = .running ∧ ((s [read] 200000).oper 0).word? 0 = some read ∧ ((decodeWord read 0).toOption.map (· == .gets no 20 5)) = some true ∧
    (s [read] 200000).readHeld 0 0 = true ∧ (s [0x30000000] 200000).readHeld 0 0 = false ∧ (s [read] 0).readHeld 0 0 = false := by decide +kernel

/-- Every fire of a plan of one partition that has not run completes in the cycle (R7, R252). -/
theorem test_planRuns_all_complete :
    ((planned [(5, { plan2 with done := 0 })]).waitEvents.filter (· == .planRunComplete 0 5)).length = 3 := by decide +kernel

/-- A released image's islands: the bank of the task under way is lost, the other bank stays (R260). -/
theorem test_release_keeps_the_bank_at_rest :
    let i : Island := { run := some (floatRun 32), queue := [.clear true], bank1 := [(7, 7)], lat1 := some ⟨1, 0, 0⟩, bank0 := [(9, 9)], lat0 := some ⟨5, 0, 0⟩ }
    i.unload.run = none ∧ i.unload.queue = [] ∧ i.unload.bank1 = [(7, 7)] ∧ i.unload.lat1 = some ⟨1, 0, 0⟩ ∧ i.unload.bank0 = [] ∧ i.unload.lat0 = none := by
  decide +kernel

/-- GKILL performs the access of a load that has fired, and the registers take its value (R122, R139). -/
theorem test_gkill_performs_loads : let s := grid { prev := 9, lreg := 9, mem := [{ pendSt with word := memW 0, op := 0, off := 20, setL := true }] }
    (s.settleAll true (s.imagesOn 0 [0])).2 = none ∧ ((s.settleAll true (s.imagesOn 0 [0])).1.elem 0).prev = 0 ∧
    ((s.settleAll true (s.imagesOn 0 [0])).1.elem 0).lreg = 0 ∧ ((s.settleAll true (s.imagesOn 0 [0])).1.elem 0).mem = [] := by decide +kernel

end Sys2Proof.Tests
end

section
/-! PROOFS. The memories keep their canonical form and the fuses their values in every step (R1, R71, R216, R222). -/

namespace Sys2Proof.Machine
open Sys2Proof

/-- What a step may not change of a state: the fuses, and the canonical form of the memories where it held. Unlike
`State.Kept` it says nothing of the agenda and the inputs, which a step takes from. -/
structure State.Preserves (s t : State) : Prop where
  fuses : t.dev.fuses = s.dev.fuses
  mem : s.memWf → t.memWf

theorem State.Preserves.trans {s t u : State} (h : s.Preserves t) (k : t.Preserves u) : s.Preserves u :=
  ⟨k.fuses.trans h.fuses, fun w => k.mem (h.mem w)⟩

theorem State.Kept.preserves {s t : State} (h : s.Kept t) : s.Preserves t := ⟨congrArg Prod.snd h.inputs, h.mem⟩

/-- The grade is read off the fuses alone (R1). -/
theorem State.Preserves.gradeOk {s t : State} (h : s.Preserves t) : t.dev.gradeOk = s.dev.gradeOk := by
  obtain ⟨hg, hf⟩ := Prod.mk.inj h.fuses
  obtain ⟨hc, hs⟩ := Prod.mk.inj hf
  simp only [Device.gradeOk, hg, hc, hs]

/-- A reset keeps the fuses too, although it clears the agenda (R337). -/
theorem preserves_exec {s t : State} {i : Instr} (h : exec i s = .next t) : s.Preserves t := by
  refine ⟨?_, fun w => memWf_exec w h⟩
  by_cases hi : i = .reset
  · subst hi
    cases h
    rfl
  · exact (kept_exec hi (State.Kept.refl s) t h).preserves.fuses

/-! ### Instructions in the focus of an agent -/

theorem kept_focusOn (s : State) (f : Focus) : s.Kept (s.focusOn f) := ⟨rfl, rfl, id⟩

theorem kept_turnOf (s : State) (core ctx : Nat) : s.Kept (s.turnOf core ctx) := kept_updCore (kept_focusOn s _)

theorem preserves_exec_focusOn {s t : State} {i : Instr} {f : Focus} (h : exec i (s.focusOn f) = .next t) : s.Preserves t :=
  (kept_focusOn s f).preserves.trans (preserves_exec h)

theorem preserves_issue {s t : State} {core ctx : Nat} (h : s.issue core ctx = .next t) : s.Preserves t := by
  unfold State.issue at h
  split at h
  · exact (kept_turnOf s core ctx).preserves.trans (preserves_exec h)
  · cases h
    exact (State.Kept.refl s).preserves

/-- A turn that is not taken gives the cores back as they were (R190, R309). -/
theorem preserves_withCores {s t : State} (h : s.Preserves t) (cores : Tab Core) : s.Preserves { t with cores := cores } :=
  ⟨h.fuses, h.mem⟩

theorem preserves_takeIssue {s t : State} {core ctx : Nat} (h : s.takeIssue core ctx = .next t) : s.Preserves t := by
  unfold State.takeIssue at h
  split at h
  next s1 hs =>
    cases h
    split
    · exact preserves_withCores (preserves_issue hs) _
    · exact preserves_issue hs
  next => exact preserves_issue h

theorem preserves_retry {s t : State} {core ctx : Nat} (h : s.retry core ctx = .next t) : s.Preserves t := by
  unfold State.retry at h
  split at h
  next s1 hs =>
    split at h
    · cases h
      exact preserves_withCores (preserves_issue hs) _
    · cases h
      exact (State.Kept.refl s).preserves
  next => exact preserves_issue h

/-- An element tries its accesses again, and then acts or stalls (R116, R133). -/
theorem preserves_runElement {s t : State} {k : Nat} (h : s.runElement k = .next t) : s.Preserves t := by
  have tried : s.Preserves (s.retryMem k) := (kept_retryMem (State.Kept.refl s)).preserves
  have focused : s.Kept ((s.retryMem k).focusOn (.elem k)) :=
    (kept_retryMem (State.Kept.refl s)).trans (kept_focusOn _ _)
  unfold State.runElement at h
  dsimp only at h
  split at h
  next => cases h; exact focused.preserves
  next =>
    split at h
    · cases h
      exact focused.preserves
    · split at h
      · split at h
        · split at h
          · exact tried.trans (preserves_exec_focusOn h)
          · cases h
            exact focused.preserves
        · cases h
          exact (kept_stallAt focused).preserves
      · split at h
        · exact tried.trans (preserves_exec_focusOn h)
        · cases h
          exact focused.preserves

/-! ### The outside and the core cycle -/

theorem preserves_outside {s t : State} {o : Outside} (h : s.outside o = .next t) : s.Preserves t := by
  cases o with
  | event i => exact preserves_exec_focusOn h
  | hostWrite pasid addr data =>
    cases h
    exact ⟨rfl, fun ⟨hmem, hhost, hdir⟩ => ⟨hmem, wf_msetN _ _ hhost, hdir⟩⟩
  | maskVector vec =>
    cases h
    exact ⟨rfl, id⟩
  | planDrop part plan =>
    cases h
    exact (kept_peerDrop (State.Kept.refl s)).preserves

theorem kept_nextCycle (s : State) : s.Kept s.nextCycle := by
  have ticked : s.Kept { s with clock := s.clock + 1, cores := s.slowCores, parts := s.tickParts } := ⟨rfl, rfl, id⟩
  have filled := kept_holdFrames (kept_fillQueues ticked)
  exact kept_foldl (fun _ _ h => kept_finish h) (kept_foldl (fun _ _ h => kept_rowFullAll h) (kept_retrySaved filled))

theorem kept_passOver {s t : State} {core : Nat} (h : s.Kept t) : s.Kept (t.passOver core) :=
  kept_foldl (fun _ _ h => kept_updCtx h) h

/-- A new agenda is made from the contexts that gave up a turn and the inputs that have come (R233). -/
theorem preserves_schedule (s : State) : s.Preserves s.schedule := by
  have passed : s.Kept (s.runningCores.foldl State.passOver s) := kept_foldl (fun _ _ h => kept_passOver h) (State.Kept.refl s)
  exact ⟨passed.preserves.fuses, passed.mem⟩

/-! ### Steps -/

theorem preserves_run {s t : State} {i : Item} (h : s.run i = .next t) : s.Preserves t := by
  cases i with
  | cp core ctx => exact preserves_takeIssue h
  | retry core ctx => exact preserves_retry h
  | element core row col => exact preserves_runElement h
  | event i => exact preserves_exec_focusOn h
  | outside o => exact preserves_outside h
  | advance =>
    have ended : s.nextCycle = t := Host.Outcome.next.inj h
    exact ended ▸ (kept_nextCycle s).preserves

theorem preserves_step {s t : State} (h : step s = .next t) : s.Preserves t := by
  unfold step at h
  split at h
  · cases h
    exact preserves_schedule s
  next i r _ =>
    have taken : s.Preserves { s with agenda := r } := ⟨rfl, id⟩
    exact taken.trans (preserves_run h)

/-- Settles O59: every item of the agenda, and the making of a new agenda, keeps the memories canonical and the fuses. -/
theorem memoryStaysCanonical : Obligations.MemoryStaysCanonical := by
  unfold Obligations.MemoryStaysCanonical
  intro s t h
  have kept := preserves_step h
  exact ⟨kept.mem, fun ok => kept.gradeOk.trans ok⟩

/-- Settles O60: reset lists no byte, no item and no input, and no fuse of it is blown. -/
theorem resetMeetsTheInvariants : Obligations.ResetMeetsTheInvariants := by
  unfold Obligations.ResetMeetsTheInvariants
  refine ⟨⟨wf_nil, wf_nil, rfl⟩, ⟨rfl, rfl⟩, ?_⟩
  decide

end Sys2Proof.Machine
end

section
/-! PROOFS. What a fencing leaves in the TLB of its core (R319). -/

namespace Sys2Proof.Machine
open Sys2Proof

/-! ### A state that a fencing leaves with a translation of the fenced core

Partition 0 holds cores 0 to 3; cores 1 to 3 are fenced and core 0 is about to be. The launch still lists gang 1, whose one
member is context 8, on core 1. The table of images lists quadrant 0 of core 0 twice: for context 0 and, after that, for context
8, so that a look-up of the quadrant answers the image of context 0 while gang 1 counts it among its own. The keys of a table are
meant to rise strictly, but the statement speaks of every state. -/

/-- A store of an element that has fired and is not performed. -/
def firedStore : MemPend :=
  { word := ⟨0, 0, 0, 0, 0, 0, 0, 0, 0, 0, 0, 0, 0⟩, op := 1, off := 0, aval := 0, value := 1, outs := [], since := 0, why := .other
    dva := true, setL := false, setP := false }

/-- An image of a context in quadrant 0, with a window of 8 bytes at DVA 0x2000. -/
def windowImage (ctx : Nat) : Image :=
  { quads := [0], ctx := ctx, img := {}, src := .pantry, wins := [{ valid := true, isDva := true, base := 0x2000, extent := 8 }] }

/-- The root table, at the start of the pinned aperture, names the table at 0x1000 there, whose first entry is a writable leaf
of 1 GiB (R27). -/
def twoLevelTables : Memory :=
  mwrite (mwrite [] (4096 * 2 ^ 52) 8 (2 ^ 51 + 0x1001)) (4096 * 2 ^ 52 + 0x1000) 8 (2 ^ 51 + 0x7)

def twiceListedImage : State :=
  { dev := { fencedCores := 0xE }
    parts := [(0, { clusters := 1, map := [0], split := [(0, 0x401)] })]
    launches := [(0, { state := 2, root := some (2 ^ 51) })]
    mem := twoLevelTables
    gangs := [(1, { part := 0, slot := 0, op := 1, ra := 0, effects := false, members := [8] })]
    cores := [(0, { fenced := true })]
    elems := [(0, { mem := [firedStore] })]
    images := [(0, windowImage 0), (0, windowImage 8)] }

/-- Whether an outcome is a next state whose TLBs hold an entry of a core. -/
def outcomeTranslates (core : Nat) (o : Host.Outcome State Fault Refusal) : Bool :=
  match o with
  | .next t => t.tlb.any fun e => e.core == core
  | _ => false

theorem exists_tlb_of_outcomeTranslates {core : Nat} {t : State} (h : outcomeTranslates core (.next t) = true) :
    ∃ e ∈ t.tlb, e.core = core := by
  simpa [outcomeTranslates] using h

/-- With no core left in the partition the launch stops, and the end of gang 1 performs the stores of the quadrant that its image
names: for context 0, which enters the translation in the TLB of core 0 after the fencing has cleared it. -/
theorem fenceCore_twiceListedImage_translates : outcomeTranslates 0 (exec (.fenceCore 0) twiceListedImage) = true := by
  decide +kernel

/-- Refutes O51: the fencing of core 0 in `twiceListedImage`, whose table of images lists one key twice, meets every premise of
the clause on a core's fencing and leaves a TLB entry of core 0. -/
theorem not_errorsFencingAndMargin : ¬ Obligations.ErrorsFencingAndMargin := by
  unfold Obligations.ErrorsFencingAndMargin
  rintro ⟨-, -, -, fencing, -⟩
  have noGang : twiceListedImage.gangsOn 0 = [] := by decide +kernel
  obtain ⟨t, fenced, -, -, -, cleared⟩ := (fencing twiceListedImage 0 0 (by decide)).2 (by decide +kernel) (by decide +kernel)
    noGang (by simp [twiceListedImage]) (by simp [twiceListedImage]) (by decide +kernel)
  have translates := fenceCore_twiceListedImage_translates
  rw [fenced] at translates
  obtain ⟨e, listed, ofCore⟩ := exists_tlb_of_outcomeTranslates translates
  exact cleared e listed ofCore

end Sys2Proof.Machine
end

section
/-! PROOFS. The fields of an instruction word: what the decoder reads of a word that one of the forms of R102 lays out. -/

namespace Sys2Proof

/-! ### Bits of an append -/

theorem getLsbD_append_low {v u i : Nat} {x : BitVec v} {y : BitVec u} (h : i < u) : (x ++ y).getLsbD i = y.getLsbD i := by
  rw [BitVec.getLsbD_append, if_pos h]

theorem getLsbD_append_high {v u i : Nat} {x : BitVec v} {y : BitVec u} (h : u ≤ i) :
    (x ++ y).getLsbD i = x.getLsbD (i - u) := by
  rw [BitVec.getLsbD_append, if_neg (Nat.not_lt.2 h)]

theorem getLsbD_ofBool_zero (b : Bool) : (BitVec.ofBool b).getLsbD 0 = b := by
  cases b <;> rfl

/-- A field of a field is a field of the word. -/
theorem extractLsb'_fld {w : W32} {hi hi' lo n i k : Nat} (h : i + k ≤ n) :
    (fld w hi lo n).extractLsb' i k = fld w hi' (lo + i) k := by
  ext j hj
  simp [fld, Nat.add_assoc, show i + j < n by omega]

/-! ### The head of a word: its major opcode and its guard (R101) -/

theorem major_of_head {w : W32} {m : BitVec 7} {c : Guard} (head : fld w 31 21 11 = hd m c) : fld w 31 25 7 = m := by
  have major : fld w 31 25 7 = (fld w 31 21 11).extractLsb' 4 7 := Eq.symm (extractLsb'_fld (by decide))
  rw [major, head]
  unfold hd
  rw [BitVec.extractLsb'_append_eq_of_le (by decide), BitVec.extractLsb'_append_eq_left]

theorem guardOf_of_head {w : W32} {m : BitVec 7} {c : Guard} (head : fld w 31 21 11 = hd m c) : guardOf w = c := by
  have p : fld w 23 21 3 = (fld w 31 21 11).extractLsb' 0 3 := Eq.symm (extractLsb'_fld (by decide))
  have neg : w.getLsbD 24 = (fld w 31 21 11).getLsbD 3 := by simp [fld]
  unfold guardOf
  rw [p, neg, head]
  unfold hd
  rw [BitVec.extractLsb'_append_eq_right, getLsbD_append_high (by decide), getLsbD_append_low (by decide), getLsbD_ofBool_zero]

/-! ### The forms (R102) -/

section Forms
variable (m : BitVec 7) (c : Guard) (d a b : BitVec 5) (fn : BitVec 6)

theorem head_fmtA : fld (fmtA m c d a b fn) 31 21 11 = hd m c := by
  simp (disch := decide) only [fld, fmtA, BitVec.extractLsb'_append_eq_of_le, Nat.reduceSub, BitVec.extractLsb'_eq_self]

theorem head_fmtI (imm : BitVec 11) : fld (fmtI m c d a imm) 31 21 11 = hd m c := by
  simp (disch := decide) only [fld, fmtI, BitVec.extractLsb'_append_eq_of_le, Nat.reduceSub, BitVec.extractLsb'_eq_self]

theorem head_fmtM (size : BitVec 2) (off : BitVec 9) : fld (fmtM m c d a size off) 31 21 11 = hd m c := by
  simp (disch := decide) only [fld, fmtM, BitVec.extractLsb'_append_eq_of_le, Nat.reduceSub, BitVec.extractLsb'_eq_self]

theorem head_fmtP (p cc : BitVec 3) (imm : BitVec 10) : fld (fmtP m c p cc a imm) 31 21 11 = hd m c := by
  simp (disch := decide) only [fld, fmtP, BitVec.extractLsb'_append_eq_of_le, Nat.reduceSub, BitVec.extractLsb'_eq_self]

/-- BR and BRL: the offset takes every bit below the guard (R103). -/
theorem head_branch (off : BitVec 21) : fld (hd m c ++ off) 31 21 11 = hd m c := BitVec.extractLsb'_append_eq_left

/-- A command that names a pantry entry: the entry takes the fields a and b (R254, R260). -/
theorem head_pantry (q : BitVec 4) (entry : BitVec 10) : fld (hd m c ++ (0#1 ++ q) ++ entry ++ fn) 31 21 11 = hd m c := by
  unfold fld
  rw [BitVec.extractLsb'_append_eq_of_le (by decide), BitVec.extractLsb'_append_eq_of_le (by decide)]
  exact BitVec.extractLsb'_append_eq_left

theorem guardOf_fmtA : guardOf (fmtA m c d a b fn) = c := guardOf_of_head (head_fmtA ..)
theorem guardOf_fmtI (imm : BitVec 11) : guardOf (fmtI m c d a imm) = c := guardOf_of_head (head_fmtI ..)
theorem guardOf_fmtM (size : BitVec 2) (off : BitVec 9) : guardOf (fmtM m c d a size off) = c := guardOf_of_head (head_fmtM ..)
theorem guardOf_fmtP (p cc : BitVec 3) (imm : BitVec 10) : guardOf (fmtP m c p cc a imm) = c := guardOf_of_head (head_fmtP ..)
theorem guardOf_branch (off : BitVec 21) : guardOf (hd m c ++ off) = c := guardOf_of_head (head_branch ..)
theorem guardOf_pantry (q : BitVec 4) (entry : BitVec 10) : guardOf (hd m c ++ (0#1 ++ q) ++ entry ++ fn) = c :=
  guardOf_of_head (head_pantry ..)

theorem function_fmtA : fld (fmtA m c d a b fn) 5 0 6 = fn := BitVec.extractLsb'_append_eq_right
theorem immediate_fmtI (imm : BitVec 11) : fld (fmtI m c d a imm) 10 0 11 = imm := BitVec.extractLsb'_append_eq_right
theorem function_pantry (q : BitVec 4) (entry : BitVec 10) : fld (hd m c ++ (0#1 ++ q) ++ entry ++ fn) 5 0 6 = fn :=
  BitVec.extractLsb'_append_eq_right

section SubFields
variable {hi lo n : Nat}

theorem fld_fmtA_d (low : 16 ≤ lo) (high : lo + n ≤ 21) : fld (fmtA m c d a b fn) hi lo n = d.extractLsb' (lo - 16) n := by
  unfold fld fmtA
  rw [BitVec.extractLsb'_append_eq_of_le (by omega), BitVec.extractLsb'_append_eq_of_le (by omega),
    BitVec.extractLsb'_append_eq_of_le (by omega), BitVec.extractLsb'_append_eq_of_add_le (by omega), Nat.sub_sub, Nat.sub_sub]

theorem fld_fmtA_a (low : 11 ≤ lo) (high : lo + n ≤ 16) : fld (fmtA m c d a b fn) hi lo n = a.extractLsb' (lo - 11) n := by
  unfold fld fmtA
  rw [BitVec.extractLsb'_append_eq_of_le (by omega), BitVec.extractLsb'_append_eq_of_le (by omega),
    BitVec.extractLsb'_append_eq_of_add_le (by omega), Nat.sub_sub]

theorem fld_fmtA_b (low : 6 ≤ lo) (high : lo + n ≤ 11) : fld (fmtA m c d a b fn) hi lo n = b.extractLsb' (lo - 6) n := by
  unfold fld fmtA
  rw [BitVec.extractLsb'_append_eq_of_le (by omega), BitVec.extractLsb'_append_eq_of_add_le (by omega)]

theorem fld_fmtA_fn (high : lo + n ≤ 6) : fld (fmtA m c d a b fn) hi lo n = fn.extractLsb' lo n :=
  BitVec.extractLsb'_append_eq_of_add_le high

end SubFields

theorem getLsbD_fmtA_fn {i : Nat} (h : i < 6) : (fmtA m c d a b fn).getLsbD i = fn.getLsbD i := getLsbD_append_low h

/-- The saturate bit of FCVT is the low bit of field b (R209). -/
theorem getLsbD_fmtA_6 : (fmtA m c d a b fn).getLsbD 6 = b.getLsbD 0 := by
  unfold fmtA
  rw [getLsbD_append_high (by decide), getLsbD_append_low (by decide)]

/-- The operation of an atomic is the low half of its function field (R222). -/
theorem atomic_fmtA (scope op : BitVec 3) : fld (fmtA m c d a b (scope ++ op)) 2 0 3 = op := by
  rw [fld_fmtA_fn _ _ _ _ _ _ (by decide), BitVec.extractLsb'_append_eq_right]

theorem registers_fmtI (imm : BitVec 11) : fld (fmtI m c d a imm) 20 16 5 = d ∧ fld (fmtI m c d a imm) 15 11 5 = a := by
  simp (disch := decide) only [fld, fmtI, BitVec.extractLsb'_append_eq_of_le, BitVec.extractLsb'_append_eq_of_add_le,
    Nat.reduceSub, BitVec.extractLsb'_eq_self, and_self]

/-- The write bit of PRF is the low bit of field d (R218). -/
theorem writeBit_fmtM (wr : Bool) (size : BitVec 2) (off : BitVec 9) :
    (fmtM m c (0#4 ++ BitVec.ofBool wr) a size off).getLsbD 16 = wr := by
  simp (disch := decide) only [fmtM, getLsbD_append_high, getLsbD_append_low, Nat.reduceSub, getLsbD_ofBool_zero]

end Forms

end Sys2Proof
end

section
/-! PROOFS. The decoder inverts the encoders: of the words of the CP (R101 to R107), of context words (R118) and of trigger
instructions (R132). -/

namespace Sys2Proof
open Sys2Proof.Machine

/-! ### The words of an instruction of the CP -/

/-- Only the words of LDI, major opcode 0x0A, are two (R101). -/
theorem head_of_encode {i : Instr} {c : Guard} {w : W32} {rest : List W32} (h : encode i = w :: rest)
    (guarded : i.guard? = some c) : ∃ m, fld w 31 21 11 = hd m c ∧ (m == 0x0A) = !rest.isEmpty := by
  cases i <;> cases h <;> cases guarded
  case br | brl => exact ⟨_, head_branch .., rfl⟩
  case sagenPantry | gloadPantry | gpatchPantry => exact ⟨_, head_pantry .., rfl⟩
  case cmpi => exact ⟨_, head_fmtP .., rfl⟩
  case ld | ldz | st | prf | cln => exact ⟨_, head_fmtM .., rfl⟩
  case nop | addi | andi | ori | xori | shli | shri | sari | ldi | ldiHi | jmp | jmpl | loop | fnc | gets | sets | sysc | eret
      | eretNext | trap | wfe | yield => exact ⟨_, head_fmtI .., rfl⟩
  all_goals exact ⟨_, head_fmtA .., rfl⟩

theorem isTwoWords_of_encode {i : Instr} {c : Guard} {w : W32} {rest : List W32} (h : encode i = w :: rest)
    (guarded : i.guard? = some c) : isTwoWords w = !rest.isEmpty := by
  obtain ⟨m, head, two⟩ := head_of_encode h guarded
  rw [isTwoWords, major_of_head head, two]

theorem encode_length {i : Instr} {c : Guard} (guarded : i.guard? = some c) :
    (∃ w, encode i = [w]) ∨ ∃ w x, encode i = [w, x] := by
  cases i <;> cases guarded
  case ldi | ldiHi => exact .inr ⟨_, _, rfl⟩
  all_goals exact .inl ⟨_, rfl⟩

theorem encodeWord_of_encode {i : Instr} {w : W32} {rest : List W32} (h : encode i = w :: rest) : encodeWord i = some w := by
  unfold encode at h
  split at h <;> cases h <;> assumption

theorem guardOk_of_wellFormed {i : Instr} {c : Guard} (guarded : i.guard? = some c) (wf : i.wellFormed = true) :
    guardOk c = true := by
  cases ok : guardOk c with
  | true => rfl
  | false =>
    have malformed : i.wellFormed = false := by
      unfold Instr.wellFormed
      cases i <;> cases guarded <;> simp only [ok, Bool.false_and]
    rw [malformed] at wf
    cases wf

/-! ### The fields of a word give its instruction back -/

/-- The major opcode and the function field select an instruction, and its operands stand in the word's fields. -/
theorem ok_of_selected {x : Except DecodeErr Instr} {i j : Instr} (selected : x = .ok j) (operands : j = i) : x = .ok i :=
  operands ▸ selected

theorem bitVec3_cases (k : BitVec 3) : k = 0 ∨ k = 1 ∨ k = 2 ∨ k = 3 ∨ k = 4 ∨ k = 5 ∨ k = 6 ∨ k = 7 := by
  revert k
  decide

/-- For each form of R102: once the major opcode and the function field are read, the decoder's arm is found by evaluation,
and what remains is to read the operands. Of a function field that holds an operand too, the width bit of an integer operation
and the predicate of SEL are split by value first, and of an atomic the low half selects. -/
theorem decodeFields_of_encode {i : Instr} {w : W32} {rest : List W32} (h : encode i = w :: rest) :
    decodeFields w (rest.headD 0) = .ok i := by
  unfold decodeFields
  cases i <;> cases h
  case br | brl =>
    rewrite [major_of_head (head_branch ..)]
    refine ok_of_selected rfl ?_
    simp only [guardOf_branch, fld, BitVec.extractLsb'_append_eq_right]
  case sagenPantry | gloadPantry | gpatchPantry =>
    rewrite [major_of_head (head_pantry ..), function_pantry]
    refine ok_of_selected rfl ?_
    simp (disch := decide) only [guardOf_pantry, fld, BitVec.extractLsb'_append_eq_of_le, BitVec.extractLsb'_append_eq_of_add_le,
      Nat.reduceSub, BitVec.extractLsb'_eq_self]
  case cmpi =>
    rewrite [major_of_head (head_fmtP ..)]
    refine ok_of_selected rfl ?_
    simp (disch := decide) only [↓guardOf_fmtP, fld, fmtP, BitVec.extractLsb'_append_eq_of_le,
      BitVec.extractLsb'_append_eq_of_add_le, Nat.reduceSub, BitVec.extractLsb'_eq_self]
  case ld | ldz | st | prf | cln =>
    rewrite [major_of_head (head_fmtM ..)]
    refine ok_of_selected rfl ?_
    simp (disch := decide) only [↓guardOf_fmtM, ↓writeBit_fmtM, fld, fmtM, BitVec.extractLsb'_append_eq_of_le,
      BitVec.extractLsb'_append_eq_of_add_le, Nat.reduceSub, BitVec.extractLsb'_eq_self]
  case nop | addi | andi | ori | xori | shli | shri | sari | ldi | ldiHi | jmp | jmpl | loop | fnc | gets | sets | sysc | eret
      | eretNext | trap | wfe | yield =>
    rewrite [major_of_head (head_fmtI ..), immediate_fmtI]
    refine ok_of_selected rfl ?_
    simp (disch := decide) only [↓guardOf_fmtI, ↓registers_fmtI, fld, fmtI, BitVec.extractLsb'_append_eq_of_le,
      BitVec.extractLsb'_append_eq_of_add_le, Nat.reduceSub, BitVec.extractLsb'_eq_self, List.headD_cons]
  all_goals rewrite [major_of_head (head_fmtA ..), function_fmtA]
  case' add | sub | mul | mulh | mulhz | div | divz | rem | remz | and | or | xor | shl | shr | sar | min | max | abs | clz | popc
      | sext | zext => cases ‹Bool›
  case' sel _ _ _ _ k => rcases bitVec3_cases k with rfl | rfl | rfl | rfl | rfl | rfl | rfl | rfl
  case' aadd | amin | amax | aand | aor | axch | acas | afadd => rewrite [atomic_fmtA]
  all_goals
    refine ok_of_selected rfl ?_
    simp (disch := decide) only [guardOf_fmtA, fld_fmtA_d, fld_fmtA_a, fld_fmtA_b, fld_fmtA_fn, getLsbD_fmtA_fn, getLsbD_fmtA_6,
      Nat.reduceSub, fnW, BitVec.extractLsb'_append_eq_of_le, BitVec.extractLsb'_append_eq_of_add_le,
      BitVec.extractLsb'_eq_self, getLsbD_append_low, getLsbD_append_high, getLsbD_ofBool_zero]

theorem decodeWord_of_encode {i : Instr} {c : Guard} {w : W32} {rest : List W32} (h : encode i = w :: rest)
    (guarded : i.guard? = some c) (wf : i.wellFormed = true) : decodeWord w (rest.headD 0) = .ok i := by
  obtain ⟨m, head, -⟩ := head_of_encode h guarded
  unfold decodeWord
  rw [guardOf_of_head head, if_pos (guardOk_of_wellFormed guarded wf), decodeFields_of_encode h]
  simp only [encodeWord_of_encode h, wf, if_true]

/-! ### Bytes (R93) -/

theorem takeWord_wordBytes (w : W32) (rest : List Byte) : takeWord (wordBytes w ++ rest) = some (w, rest) := by
  have glued : w.extractLsb' 24 8 ++ w.extractLsb' 16 8 ++ w.extractLsb' 8 8 ++ w.extractLsb' 0 8 = w := by
    rw [BitVec.extractLsb'_append_extractLsb'_eq_extractLsb' (show 24 = 16 + 8 from rfl),
      BitVec.extractLsb'_append_extractLsb'_eq_extractLsb' (show 16 = 8 + 8 from rfl),
      BitVec.extractLsb'_append_extractLsb'_eq_extractLsb' (show 8 = 0 + 8 from rfl)]
    exact BitVec.extractLsb'_eq_self
  exact congrArg (fun v => some (v, rest)) glued

theorem decode_encode {i : Instr} {c : Guard} (guarded : i.guard? = some c) (wf : i.wellFormed = true) (rest : List Byte) :
    decode ((encode i).flatMap wordBytes ++ rest) = .ok (i, rest) := by
  unfold decode
  rcases encode_length guarded with ⟨w, words⟩ | ⟨w, x, words⟩
  · have decoded : decodeWord w 0 = .ok i := decodeWord_of_encode words guarded wf
    have single : isTwoWords w = false := isTwoWords_of_encode words guarded
    simp only [words, List.flatMap_cons, List.flatMap_nil, List.append_nil, takeWord_wordBytes, single, decoded]
    rfl
  · have decoded : decodeWord w x = .ok i := decodeWord_of_encode words guarded wf
    have double : isTwoWords w = true := isTwoWords_of_encode words guarded
    simp only [words, List.flatMap_cons, List.flatMap_nil, List.append_nil, List.append_assoc, takeWord_wordBytes, double, decoded]
    rfl

/-! ### Context words (R118) -/

theorem op_packEl (op : BitVec 7) (e : ElWord) : (packEl op e).extractLsb' 57 7 = op := by
  simp (disch := decide) only [packEl, BitVec.extractLsb'_append_eq_of_le, Nat.reduceSub, BitVec.extractLsb'_eq_self]

theorem elFields_packEl (op : BitVec 7) (e : ElWord) : elFields (packEl op e) = e := by
  simp (disch := decide) only [elFields, packEl, BitVec.extractLsb'_append_eq_of_le, BitVec.extractLsb'_append_eq_of_add_le,
    Nat.reduceSub, BitVec.extractLsb'_eq_self]

theorem decodeElem_of_encodeElem {i : Instr} {w : Word} (h : encodeElem i = some w) : decodeElem w = some i := by
  cases i <;> cases h
  case eNop => rfl
  all_goals
    unfold decodeElem
    rw [op_packEl, elFields_packEl]
    rfl

theorem encodeElem_isSome {i : Instr} (elem : i.isElementOp = true) : (encodeElem i).isSome = true := by
  cases i <;> cases elem <;> rfl

/-! ### Trigger instructions (R132) -/

theorem valid_packTr (op : BitVec 7) (t : TrWord) : (packTr op t).getLsbD 63 = true := by
  simp (disch := decide) only [packTr, getLsbD_append_high, Nat.reduceSub]
  rfl

theorem op_packTr (op : BitVec 7) (t : TrWord) : (packTr op t).extractLsb' 28 7 = op := by
  simp (disch := decide) only [packTr, BitVec.extractLsb'_append_eq_of_le, BitVec.extractLsb'_append_eq_of_add_le, Nat.reduceSub,
    BitVec.extractLsb'_eq_self]

theorem trFields_packTr (op : BitVec 7) (t : TrWord) : trFields (packTr op t) = t := by
  simp (disch := decide) only [trFields, packTr, BitVec.extractLsb'_append_eq_of_le, BitVec.extractLsb'_append_eq_of_add_le,
    Nat.reduceSub, BitVec.extractLsb'_eq_self, getLsbD_append_low, getLsbD_append_high, getLsbD_ofBool_zero]

theorem decodeTrig_of_encodeTrig {i : Instr} {w : Word} (h : encodeTrig i = some w) : decodeTrig w = some i := by
  cases i <;> cases h
  all_goals
    unfold decodeTrig
    rw [if_pos (valid_packTr ..), op_packTr, trFields_packTr]
    rfl

theorem encodeTrig_isSome {i : Instr} (trig : i.isTriggerOp = true) : (encodeTrig i).isSome = true := by
  cases i <;> cases trig <;> rfl

/-- Settles O55: each encoder lays out fields from which the decoder reads the operands back, and a well-formed instruction
meets the decoder's checks. -/
theorem encodeDecodeRoundTrip : Obligations.EncodeDecodeRoundTrip := by
  unfold Obligations.EncodeDecodeRoundTrip
  intro i wf
  refine ⟨fun cp rest => ?_, fun elem => ?_, fun trig => ?_⟩
  · obtain ⟨c, guarded⟩ := Option.isSome_iff_exists.1 cp
    exact decode_encode guarded wf rest
  · obtain ⟨w, encoded⟩ := Option.isSome_iff_exists.1 (encodeElem_isSome elem)
    exact ⟨w, encoded, decodeElem_of_encodeElem encoded⟩
  · obtain ⟨w, encoded⟩ := Option.isSome_iff_exists.1 (encodeTrig_isSome trig)
    exact ⟨w, encoded, decodeTrig_of_encodeTrig encoded⟩

end Sys2Proof
end

section
/-! PROOFS. An instruction whose guard fails goes on past itself, and the guard 1000 is reserved (R10). -/

namespace Sys2Proof
open Sys2Proof.Machine

/-- The guard 1000 reads as the negation of p0. -/
theorem guardOf_reserved {word : W32} (h : word.extractLsb' 21 4 = 8#4) : guardOf word = ⟨true, 0⟩ := by
  have bits : fld word 24 21 4 = 8#4 := h
  have p : fld word 23 21 3 = (fld word 24 21 4).extractLsb' 0 3 := Eq.symm (extractLsb'_fld (by decide))
  have neg : word.getLsbD 24 = (fld word 24 21 4).getLsbD 3 := by simp [fld]
  unfold guardOf
  rw [p, neg, bits]
  rfl

theorem decodeWord_reservedGuard {word : W32} (h : word.extractLsb' 21 4 = 8#4) (ext : W32) :
    decodeWord word ext = .error .badGuard := by
  unfold decodeWord
  rw [guardOf_reserved h]
  exact if_neg (by decide)

end Sys2Proof

namespace Sys2Proof.Machine
open Sys2Proof

/-- Every instruction of the CP evaluates to the frame `State.cpLen` over a body of its own, and the frame does not come to the
body of an instruction whose guard fails. -/
theorem exec_skips {i : Instr} {c : Guard} {s : State} {k : Nat} (guarded : i.guard? = some c) (focus : s.focus = .ctx k)
    (fails : (s.ctx k).guardHolds c = false) :
    exec i s = .next (s.goesTo k ((s.ctx k).pc + BitVec.ofNat 64 i.bytes)) := by
  cases i <;> cases guarded
  all_goals
    conv => lhs; whnf
    rw [focus]
    exact if_neg (Bool.eq_false_iff.1 fails)

theorem guardHolds_always (x : Ctx) : x.guardHolds .always = true :=
  congrArg (· != false) x.rp_zero

/-- Settles O1: the frame of an instruction asks for the guard before anything else, and the decoder refuses the guard 1000
before it reads another field. -/
theorem failedGuardHasNoEffect : Obligations.FailedGuardHasNoEffect := by
  unfold Obligations.FailedGuardHasNoEffect
  exact ⟨fun _ _ _ _ => exec_skips, guardHolds_always, fun _ ext h => decodeWord_reservedGuard h ext⟩

end Sys2Proof.Machine
end

section
/-! PROOFS. Records that a list of updates leaves, each update of one record of a table: the contexts of a gang, the engines of a
push. -/

namespace Sys2Proof.Machine

section Folds
variable {σ β ρ : Type} {read : σ → ρ} {upd : σ → β → σ} {l : List β}

/-- A record that none of the updates writes. -/
theorem foldl_keeps (keeps : ∀ s, ∀ y ∈ l, read (upd s y) = read s) (s : σ) : read (l.foldl upd s) = read s := by
  induction l generalizing s with
  | nil => rfl
  | cons y l ih =>
    rw [List.foldl_cons, ih fun s z hz => keeps s z (.tail _ hz)]
    exact keeps s y (.head _)

/-- A record that exactly one of the updates writes. -/
theorem foldl_updates_once {key : β → Nat} {e : β} {f : ρ → ρ} (mem : e ∈ l) (nodup : (l.map key).Nodup)
    (self : ∀ s, read (upd s e) = f (read s)) (other : ∀ s y, key y ≠ key e → read (upd s y) = read s) (s : σ) :
    read (l.foldl upd s) = f (read s) := by
  induction l generalizing s with
  | nil => cases mem
  | cons y l ih =>
    obtain ⟨fresh, nodup⟩ := List.nodup_cons.1 nodup
    rw [List.foldl_cons]
    cases mem with
    | head =>
      rw [foldl_keeps fun s z hz => other s z fun same => fresh (same ▸ List.mem_map_of_mem hz), self]
    | tail _ mem =>
      rw [ih mem nodup, other s y fun same => fresh (same ▸ List.mem_map_of_mem mem)]

/-- What one of the updates brings about where an invariant holds, and none of them undoes. -/
theorem foldl_reaches {inv goal : σ → Prop} {e : β} (mem : e ∈ l) (keeps : ∀ s y, inv s → inv (upd s y))
    (sets : ∀ s, inv s → goal (upd s e)) (stays : ∀ s y, goal s → goal (upd s y)) {s : σ} (start : inv s) :
    goal (l.foldl upd s) := by
  have stay : ∀ (l : List β) (s : σ), goal s → goal (l.foldl upd s) := fun l s h => List.foldlRecOn l upd h fun s h y _ => stays s y h
  induction l generalizing s with
  | nil => cases mem
  | cons y l ih =>
    cases mem with
    | head => exact stay l _ (sets s start)
    | tail _ mem => exact ih mem (keeps s y start)

end Folds

end Sys2Proof.Machine
end

section
/-! PROOFS. The gang collectives complete in every member when the last one issues (R51, R247, R248). -/

namespace Sys2Proof.Machine
open Sys2Proof

/-! ### A member issues a collective -/

/-- A gang that has noted the collective which a member issues (R247). -/
def Gang.noted (g : Gang) (rank : Nat) (c : Coll) : Gang :=
  { g with colls := lset g.colls rank (some c), ncoll := lset g.ncoll rank (g.ncoll.getD rank 0 + 1) }

/-- Whether a collective of a member is the same as that of another (R247). -/
def Coll.agrees (o c : Coll) : Prop := o.kind = c.kind ∧ o.op = c.op ∧ o.fmt = c.fmt

/-- A collective that clashes with none is noted; the last one completes it (R247). -/
theorem collRes_of_agrees {s : State} {k : Nat} {x : Ctx} {c : Coll} {g : Gang} (gang : s.gang x.gang = g)
    (own : g.colls.getD x.rank none = none)
    (early : ∀ r < g.members.length, r ≠ x.rank → g.commits.getD r false = false ∨ g.ncoll.getD x.rank 0 + 1 ≤ g.ncoll.getD r 0)
    (agree : ∀ r < g.members.length, r ≠ x.rank → ∀ o, g.colls.getD r none = some o →
      g.ncoll.getD r 0 = g.ncoll.getD x.rank 0 + 1 → o.agrees c) :
    s.collRes k x c =
      let s1 := s.setGang x.gang (g.noted x.rank c)
      if (lset g.colls x.rank (some c)).all (·.isSome) then .stop (s1.collDone x.gang) else .wait s1 .other := by
  subst gang
  have others {r n : Nat} (mem : r ∈ (List.range n).filter (· != x.rank)) : r < n ∧ r ≠ x.rank := by simpa using mem
  unfold State.collRes
  dsimp only
  rw [if_neg (Option.not_isSome_iff_eq_none.2 own), if_neg]
  · rfl
  rw [Bool.or_eq_true, List.any_eq_true, List.any_eq_true]
  rintro (⟨r, mem, late⟩ | ⟨r, mem, clash⟩)
  · obtain ⟨lt, ne⟩ := others mem
    obtain ⟨committed, less⟩ := Bool.and_eq_true_iff.1 late
    obtain running | issued := early r lt ne
    · exact Bool.false_ne_true (running.symm.trans committed)
    · exact Nat.not_lt.2 issued (of_decide_eq_true less)
  · obtain ⟨lt, ne⟩ := others mem
    split at clash
    next o issued =>
      rw [Bool.and_eq_true, beq_iff_eq] at clash
      obtain ⟨same, differs⟩ := clash
      obtain ⟨kind, op, fmt⟩ := agree r lt ne o issued same
      simp [kind, op, fmt] at differs
    next => cases clash

/-! ### The collective completes -/

/-- What the members of a gang write when their collective completes (R248). -/
def State.collWritten (s : State) (members : List Nat) (cs : List Coll) (root : Coll) : State :=
  (members.zip cs).foldl (fun s e => s.updCtx e.1 fun x => (collWrite x e.2 root ((members.map coreOf).zip cs)).goOn (x.pc + 4)) s

/-- A gang with no collective under way. -/
def Gang.cleared (g : Gang) : Gang := { g with colls := g.colls.map fun _ => none }

/-- The collectives of a gang of which every member has issued one. -/
theorem filterMap_issued (cs : List Coll) : ((cs.map some).filterMap fun c => c) = cs := by
  induction cs with
  | nil => rfl
  | cons c cs ih => exact congrArg (c :: ·) ih

/-- A collective whose root is a member, with the handle of a tile where it is TRBC.h, completes in every member (R247, R248). -/
theorem collDone_eq_collWritten {s : State} {gk : Nat} {cs : List Coll} {first root : Coll} {rootIx : Nat}
    (issued : (s.gang gk).colls = cs.map some) (head : cs.head? = some first) (ix : rootIx = first.root.toNat % 16)
    (isRoot : cs[rootIx]? = some root) (inGang : first.kind ≤ 1 → rootIx < (s.gang gk).members.length)
    (live : first.kind = 1 → ∃ h m, root.hsrc = some h ∧ (s.gang gk).members[rootIx]? = some m ∧ (s.tile? (s.tileKey m h)).isSome = true) :
    s.collDone gk = (s.setGang gk (s.gang gk).cleared).collWritten (s.gang gk).members cs root := by
  have all : ((s.gang gk).colls.filterMap fun c => c) = cs := issued ▸ filterMap_issued cs
  unfold State.collDone State.collWritten
  simp only [all, head, Option.map_some, Option.getD_some, ← ix, List.getD_eq_getElem?_getD, isRoot]
  rw [if_neg fun h => Nat.not_le.2 (inGang h.1) h.2]
  split
  next isHandle =>
    obtain ⟨h, m, source, member, tile⟩ := live isHandle
    rw [source]
    simp only [member, Option.getD_some]
    exact if_neg fun freed => Option.not_isSome_iff_eq_none.2 (Option.isNone_iff_eq_none.1 freed) tile
  next => rfl

@[simp] theorem collWritten_mem (s : State) (ms : List Nat) (cs : List Coll) (root : Coll) : (s.collWritten ms cs root).mem = s.mem :=
  foldl_keeps (read := State.mem) (upd := fun s (e : Nat × Coll) => s.updCtx e.1 _) (fun _ _ _ => rfl) _

theorem collWritten_ctx {s : State} {ms : List Nat} {cs : List Coll} {root o : Coll} {r m : Nat} (nodup : ms.Nodup)
    (len : cs.length = ms.length) (member : ms[r]? = some m) (own : cs[r]? = some o) :
    (s.collWritten ms cs root).ctx m = (collWrite (s.ctx m) o root ((ms.map coreOf).zip cs)).goOn ((s.ctx m).pc + 4) := by
  have mem : (m, o) ∈ ms.zip cs := List.mem_of_getElem? (i := r) (by rw [List.getElem?_zip_eq_some]; exact ⟨member, own⟩)
  have keys : ((ms.zip cs).map Prod.fst).Nodup := by rwa [List.map_fst_zip (Nat.le_of_eq len.symm)]
  unfold State.collWritten
  exact foldl_updates_once (read := fun t => State.ctx t m) (f := fun x => (collWrite x o root _).goOn (x.pc + 4)) mem keys
    (fun t => State.updCtx_ctx_self ..) (fun t y ne => State.updCtx_ctx_other _ _ _ (Ne.symm ne)) _

/-! ### What a member writes -/

theorem collWrite_trbc {x : Ctx} {c root : Coll} {all : List (Nat × Coll)} (h : c.kind = 0) :
    collWrite x c root all = x.wg (BitVec.ofNat 5 c.dst) root.value := by
  unfold collWrite
  rw [h]
  rfl

theorem collWrite_trbcH {x : Ctx} {c root : Coll} {all : List (Nat × Coll)} (h : c.kind = 1) :
    collWrite x c root all = x.wh (BitVec.ofNat 4 c.dst) (root.hsrc.getD {}) := by
  unfold collWrite
  rw [h]
  rfl

/-- The format of TRRED's unit field, of which the width of a value follows (R248). -/
theorem trFmt_eq : ∀ fmt : BitVec 3, fmt.toNat < 4 → trFmt fmt.toNat = [2, 4, 9, 8].getD fmt.toNat 8 ∧
    (trFmt fmt.toNat = 2 ↔ fmt = 0) ∧ (trFmt fmt.toNat = 9 ↔ fmt = 2) := by decide

theorem collWrite_trred {x : Ctx} {c root : Coll} {all : List (Nat × Coll)} {fmt op : BitVec 3} (h : c.kind = 2)
    (oper : c.op = op.toNat) (unit : c.fmt = fmt.toNat) (lt : fmt.toNat < 4) :
    collWrite x c root all = x.wg (BitVec.ofNat 5 c.dst)
      (let v := BitVec.ofNat 64 (treeReduce op.toNat ([2, 4, 9, 8].getD fmt.toNat 8)
        (all.map fun e => (e.1, e.2.value.toNat % 2 ^ (if fmt = 0 ∨ fmt = 2 then 32 else 16))))
      if fmt = 0 then (v.setWidth 32).signExtend 64 else v) := by
  obtain ⟨format, int32, fp32⟩ := trFmt_eq fmt lt
  unfold collWrite
  rw [h, oper, unit]
  simp only [← format, ← int32, ← fp32]
  rfl

theorem collWrite_trgath {x : Ctx} {c root : Coll} {ms : List Nat} {cs : List Coll} (h : c.kind = 3) (len : cs.length = ms.length) :
    collWrite x c root ((ms.map coreOf).zip cs) = (List.range cs.length).foldl
      (fun z q => z.wg (BitVec.ofNat 5 (c.dst + q)) ((cs[q]?.map fun w : Coll => w.value).getD 0)) x := by
  have seconds (q : Nat) : ((ms.map coreOf).zip cs)[q]?.map (·.2) = cs[q]? := by
    rw [← List.getElem?_map, List.map_snd_zip (by simp [len])]
  unfold collWrite
  rw [h]
  simp only [List.length_zip, List.length_map, len, Nat.min_self, ← seconds, Option.map_map]
  rfl

theorem collWrite_trbar {x : Ctx} {c root : Coll} {all : List (Nat × Coll)} (h : c.kind = 4) : collWrite x c root all = x := by
  unfold collWrite
  rw [h]
  rfl

/-! ### The five collectives -/

/-- The instructions of R248 in a context, each with what it asks of its gang. -/
def collectives (x : Ctx) (c : Guard) (d a b : BitVec 5) (hd ha : BitVec 4) (fmt op : BitVec 3) : List (Instr × Coll) :=
  [(.trbc c d a b, ⟨0, 0, 0, x.rg a, x.rg b, none, d.toNat⟩),
    (.trbcH c hd ha b, ⟨1, 0, 0, 0, x.rg b, if (x.rh ha).bound then some (x.rh ha) else none, hd.toNat⟩),
    (.trred c d a fmt op, ⟨2, op.toNat, fmt.toNat, x.rg a, 0, none, d.toNat⟩), (.trgath c d a, ⟨3, 0, 0, x.rg a, 0, none, d.toNat⟩),
    (.trbar c, ⟨4, 0, 0, 0, 0, none, 0⟩)]

section
variable {s : State} {k : Nat} {c : Guard} {d a b : BitVec 5} {hd ha : BitVec 4} {fmt op : BitVec 3} {i : Instr} {mine : Coll}

/-- TRGATH takes ILLEGAL where its registers reach beyond g31 (R248). -/
theorem exec_collective_illegal (h : s.issues k c) (mem : (i, mine) ∈ collectives (s.ctx k) c d a b hd ha fmt op) (gathers : mine.kind = 3)
    (beyond : 32 < d.toNat + (s.gang (s.ctx k).gang).members.length) : exec i s = .next (s.takeTrap k ⟨0x01, 0, 0⟩) := by
  simp only [collectives, List.mem_cons, List.not_mem_nil, or_false, Prod.mk.injEq] at mem
  obtain ⟨rfl, rfl⟩ | ⟨rfl, rfl⟩ | ⟨rfl, rfl⟩ | ⟨rfl, rfl⟩ | ⟨rfl, rfl⟩ := mem <;> cases gathers
  refine (cp_issues h : execTrgath c d a s = _).trans ?_
  rw [if_pos beyond]
  rfl

/-- Any other collective is issued to the gang (R247). -/
theorem exec_collective (h : s.issues k c) (mem : (i, mine) ∈ collectives (s.ctx k) c d a b hd ha fmt op)
    (fits : mine.kind = 3 → d.toNat + (s.gang (s.ctx k).gang).members.length ≤ 32) :
    exec i s = .next ((s.collRes k (s.ctx k) mine).finish s k (s.ctx k).pc 4) := by
  simp only [collectives, List.mem_cons, List.not_mem_nil, or_false, Prod.mk.injEq] at mem
  obtain ⟨rfl, rfl⟩ | ⟨rfl, rfl⟩ | ⟨rfl, rfl⟩ | ⟨rfl, rfl⟩ | ⟨rfl, rfl⟩ := mem
  · exact (cp_issues h : execTrbc c d a b s = _)
  · exact (cp_issues h : execTrbcH c hd ha b s = _)
  · exact (cp_issues h : execTrred c d a fmt op s = _)
  · refine (cp_issues h : execTrgath c d a s = _).trans ?_
    rw [if_neg (Nat.not_lt.2 (fits rfl))]
  · exact (cp_issues h : execTrbar c s = _)

/-- What TRRED asks for is an operator and a format (R248). -/
theorem trred_of_collectives (mem : (i, mine) ∈ collectives (s.ctx k) c d a b hd ha fmt op) (reduces : mine.kind = 2) :
    mine.op = op.toNat ∧ mine.fmt = fmt.toNat := by
  simp only [collectives, List.mem_cons, List.not_mem_nil, or_false, Prod.mk.injEq] at mem
  obtain ⟨rfl, rfl⟩ | ⟨rfl, rfl⟩ | ⟨rfl, rfl⟩ | ⟨rfl, rfl⟩ | ⟨rfl, rfl⟩ := mem <;> cases reduces
  exact ⟨rfl, rfl⟩

end

/-! ### The last member issues, or another has not -/

section
variable {s : State} {k : Nat} {x : Ctx} {c : Coll} {g : Gang}

/-- What the gang has noted once every member has issued the collective, of the other members. -/
theorem coll_of_issued {colls : List (Option Coll)} {cs : List Coll} {rank r : Nat} {o : Coll}
    (issued : colls.set rank (some c) = cs.map some) (ne : r ≠ rank) (own : colls.getD r none = some o) : cs[r]? = some o := by
  have noted : (colls.set rank (some c))[r]? = some (some o) := by
    rw [List.getElem?_set_ne ne.symm]
    rw [List.getD_eq_getElem?_getD] at own
    exact Option.getD_eq_iff.1 own |>.resolve_right fun h => nomatch h.2
  rw [issued, List.getElem?_map] at noted
  simpa using noted

theorem length_of_issued {colls : List (Option Coll)} {cs : List Coll} {rank : Nat}
    (issued : colls.set rank (some c) = cs.map some) : cs.length = colls.length := by
  simpa using (congrArg List.length issued).symm

/-- Every member has issued a collective that agrees with the one of the member that issues last. -/
theorem agrees_of_issued {colls : List (Option Coll)} {cs : List Coll} {rank r : Nat} {o : Coll}
    (issued : colls.set rank (some c) = cs.map some) (agree : ∀ r < cs.length, r ≠ rank → ∀ o, cs[r]? = some o → o.agrees c)
    (own : cs[r]? = some o) : o.agrees c := by
  have lt : r < cs.length := (List.getElem?_eq_some_iff.1 own).1
  by_cases ne : r = rank
  · have noted : (colls.set rank (some c))[rank]? = some (some o) := by rw [issued, List.getElem?_map, ← ne, own]; rfl
    rw [List.getElem?_set_self (length_of_issued issued ▸ ne ▸ lt)] at noted
    cases noted
    exact ⟨rfl, rfl, rfl⟩
  · exact agree r lt ne o own

/-- The tiles that handles name do not depend on what a gang notes. -/
theorem tileKey_noted (gang : s.gang x.gang = g) (m rank : Nat) (u : Handle) :
    (s.setGang x.gang (g.noted rank c)).tileKey m u = s.tileKey m u := by
  subst gang
  unfold State.tileKey State.launchOf State.gangOf
  rw [State.setGang_ctx]
  by_cases same : (s.ctx m).gang = x.gang
  · rw [same, State.setGang_gang_self]
    rfl
  · rw [State.setGang_gang_other _ _ _ same]

/-- The member that issues last completes the collective in every member (R247, R248). -/
theorem collRes_last {cs : List Coll} {rootIx : Nat} {root : Coll} (gang : s.gang x.gang = g) (len : g.colls.length = g.members.length)
    (own : g.colls.getD x.rank none = none)
    (issued : g.colls.set x.rank (some c) = cs.map some)
    (agree : ∀ r < g.members.length, r ≠ x.rank →
      g.ncoll.getD r 0 = g.ncoll.getD x.rank 0 + 1 ∧ ∀ o, cs[r]? = some o → o.agrees c)
    (ix : rootIx = ((cs.head?.map fun z : Coll => z.root).getD 0).toNat % 16)
    (inGang : c.kind ≤ 1 → rootIx < g.members.length) (isRoot : cs[rootIx]? = some root)
    (live : c.kind = 1 → ∃ u m, root.hsrc = some u ∧ g.members[rootIx]? = some m ∧ (s.tile? (s.tileKey m u)).isSome = true) :
    s.collRes k x c = .stop (((s.setGang x.gang (g.noted x.rank c)).setGang x.gang
      (g.noted x.rank c).cleared).collWritten g.members cs root) := by
  rw [collRes_of_agrees gang own (fun r lt ne => .inr (Nat.le_of_eq (agree r lt ne).1.symm))
    fun r lt ne o other _ => (agree r lt ne).2 o (coll_of_issued issued ne other)]
  have size := (length_of_issued issued).trans len
  obtain ⟨first, head⟩ : ∃ first, cs.head? = some first :=
    Option.isSome_iff_exists.1 (List.isSome_head?.2 fun none => by rw [none] at isRoot; cases isRoot)
  obtain ⟨kind, -, -⟩ : first.agrees c :=
    agrees_of_issued issued (fun r lt ne => (agree r (size ▸ lt) ne).2) (List.head?_eq_getElem? ▸ head)
  dsimp only
  rw [if_pos (by rw [lset, issued]; simp), collDone_eq_collWritten (first := first) (rootIx := rootIx) (root := root),
    State.setGang_gang_self]
  · rfl
  · rw [State.setGang_gang_self]
    exact issued
  · exact head
  · rw [ix, head]
    rfl
  · exact isRoot
  · rw [State.setGang_gang_self, kind]
    exact inGang
  · rw [State.setGang_gang_self, kind]
    intro isHandle
    obtain ⟨u, m, source, member, tile⟩ := live isHandle
    exact ⟨u, m, source, member, by rw [tileKey_noted gang]; exact tile⟩

/-- A member that issues before another waits, its operands noted (R247). -/
theorem collRes_early {r : Nat} (gang : s.gang x.gang = g) (len : g.colls.length = g.members.length)
    (own : g.colls.getD x.rank none = none) (lt : r < g.members.length) (ne : r ≠ x.rank)
    (missing : g.colls.getD r none = none)
    (running : ∀ r < g.members.length, g.commits.getD r false = false)
    (agree : ∀ r < g.members.length, ∀ o : Coll, g.colls.getD r none = some o →
      g.ncoll.getD r 0 = g.ncoll.getD x.rank 0 + 1 → o.agrees c) :
    s.collRes k x c = .wait (s.setGang x.gang (g.noted x.rank c)) .other := by
  rw [collRes_of_agrees gang own (fun r lt _ => .inl (running r lt)) fun r lt _ => agree r lt]
  refine if_neg fun all => ?_
  have mem : (none : Option Coll) ∈ lset g.colls x.rank (some c) := by
    refine List.mem_of_getElem? (i := r) ?_
    have lt : r < g.colls.length := len ▸ lt
    rw [List.getD_eq_getElem?_getD, List.getElem?_eq_getElem lt, Option.getD_some] at missing
    rw [lset, List.getElem?_set_ne ne.symm, List.getElem?_eq_getElem lt, missing]
  cases List.all_eq_true.1 all _ mem

end

/-- Settles O36: a collective that agrees with those of the other members is noted; where it is the last, `State.collDone` updates the
members one by one, each once, and where it is not, its member waits. -/
theorem collectivesComplete : Obligations.CollectivesComplete := by
  unfold Obligations.CollectivesComplete
  intro s k c d a b hd ha fmt op h x g n bound width format nodup _ _ len own units i mine mem
  have mem : (i, mine) ∈ collectives (s.ctx k) c d a b hd ha fmt op := mem
  refine ⟨exec_collective_illegal h mem, fun fits => ⟨?last, ?early⟩⟩
  case last =>
    intro cs issued agree rootIx inGang root isRoot live
    refine ⟨_, (exec_collective h mem fits).trans (congrArg (fun r => Host.Outcome.next (Res.finish r s k x.pc 4))
      (collRes_last rfl len own issued agree rfl inGang isRoot live)), by simp, fun r m member o isOwn => ?_⟩
    have size := (length_of_issued issued).trans len
    obtain ⟨kind, oper, unit⟩ : o.agrees mine := agrees_of_issued issued (fun r lt ne => (agree r (size ▸ lt) ne).2) isOwn
    rw [finish_stop, collWritten_ctx nodup size member isOwn, State.setGang_ctx, State.setGang_ctx]
    refine congrArg (fun z => Ctx.goOn z ((s.ctx m).pc + 4)) ?_
    have fields (reduces : mine.kind = 2) : o.op = op.toNat ∧ o.fmt = fmt.toNat :=
      (trred_of_collectives mem reduces).imp oper.trans unit.trans
    simp only [collectives, List.mem_cons, List.not_mem_nil, or_false, Prod.mk.injEq] at mem
    obtain ⟨-, rfl⟩ | ⟨-, rfl⟩ | ⟨-, rfl⟩ | ⟨-, rfl⟩ | ⟨-, rfl⟩ := mem
    · exact collWrite_trbc kind
    · exact collWrite_trbcH kind
    · exact collWrite_trred kind (fields rfl).1 (fields rfl).2 units
    · exact collWrite_trgath kind size
    · exact collWrite_trbar kind
  case early =>
    rintro ⟨r, lt, ne, missing⟩ running agree
    refine ⟨_, (exec_collective h mem fits).trans (congrArg (fun r => Host.Outcome.next (Res.finish r s k x.pc 4))
      (collRes_early rfl len own lt ne missing running agree)), ?_, ?_⟩
    · rw [finish_wait, State.updCtx_ctx_self, State.setGang_ctx]
    · rw [finish_wait, State.updCtx_gang, State.setGang_gang_self]
      rfl

end Sys2Proof.Machine
end

section
/-! PROOFS. What stopping an engine and ending a push change, and the commands to a stream engine (R49, R65, R68, R256, R257). -/

namespace Sys2Proof.Machine
open Sys2Proof

/-! ### The state of a tile -/

/-- An update of the entries of a table at their places. -/
theorem tget_map {α : Type} (t : Tab α) (f : Nat × α → Nat × α) (keys : ∀ e, (f e).1 = e.1) (k : Nat) :
    tget? (t.map f) k = (tget? t k).map fun v => (f (k, v)).2 := by
  induction t with
  | nil => rfl
  | cons e t ih =>
    rw [List.map_cons, tget_cons, tget_cons, keys, ih]
    split
    next same => rw [← same]; rfl
    next => rfl

/-- A change of the state of a tile is an event of the contexts that have a handle of it (R232). -/
theorem tileEvent_ctx (s : State) (key k : Nat) : ∃ b, (s.tileEvent key).ctx k = { s.ctx k with event := b } := by
  unfold State.tileEvent State.ctx tgetD
  rw [tget_map _ _ fun e => by split <;> rfl]
  cases tget? s.ctxs k with
  | none => exact ⟨_, rfl⟩
  | some x =>
    dsimp only [Option.map_some, Option.getD_some]
    split
    · exact ⟨_, rfl⟩
    · exact ⟨_, rfl⟩

/-- Everything that a change of the state of a tile can do. -/
theorem setTileSt_cases (s : State) (key : Nat) (st : TileSt) : s.setTileSt key st = s ∨ ∃ t stt, s.tile? key = some t ∧
    s.setTileSt key st = State.tileEvent { s with tiles := tset s.tiles key { t with st := st }, stt := stt } key := by
  unfold State.setTileSt
  split
  · exact .inl rfl
  next t found =>
    split
    · exact .inl rfl
    · exact .inr ⟨t, _, found, rfl⟩

@[simp] theorem setTileSt_engines (s : State) (key : Nat) (st : TileSt) : (s.setTileSt key st).engines = s.engines := by
  obtain h | ⟨t, stt, -, h⟩ := setTileSt_cases s key st <;> rw [h]
  rfl

@[simp] theorem setTileSt_pushes (s : State) (key : Nat) (st : TileSt) : (s.setTileSt key st).pushes = s.pushes := by
  obtain h | ⟨t, stt, -, h⟩ := setTileSt_cases s key st <;> rw [h]
  rfl

@[simp] theorem setTileSt_mem (s : State) (key : Nat) (st : TileSt) : (s.setTileSt key st).mem = s.mem := by
  obtain h | ⟨t, stt, -, h⟩ := setTileSt_cases s key st <;> rw [h]
  rfl

theorem setTileSt_ctx (s : State) (key : Nat) (st : TileSt) (k : Nat) :
    ∃ b, (s.setTileSt key st).ctx k = { s.ctx k with event := b } := by
  obtain h | ⟨t, stt, -, h⟩ := setTileSt_cases s key st <;> rw [h]
  · exact ⟨_, rfl⟩
  · exact tileEvent_ctx _ key k

theorem setTileSt_tile {s : State} {key : Nat} {st : TileSt} {t : Tile} (found : s.tile? key = some t) :
    (s.setTileSt key st).tile? key = some { t with st := st } := by
  unfold State.setTileSt
  rw [found]
  dsimp only
  split
  next same => rw [found, ← same]
  next => exact tget_tset_same ..

/-! ### An engine stops -/

/-- A destination tile that is not FILLING stays as it is (R65). -/
theorem emptyDst_cases (s : State) (e : Engine) : s.emptyDst e = s ∨ ∃ key, s.emptyDst e = s.setTileSt key .empty := by
  unfold State.emptyDst
  split
  · exact .inl rfl
  · dsimp only
    split
    · split
      · exact .inr ⟨_, rfl⟩
      · exact .inl rfl
    · exact .inl rfl

theorem emptyDst_tile {s : State} {e : Engine} {u : Handle} {t : Tile} (dst : e.dstTile = some u)
    (found : s.tile? (s.tileKey e.ctx u) = some t) (filling : t.st = .filling) :
    (s.emptyDst e).tile? (s.tileKey e.ctx u) = some { t with st := .empty } := by
  have empties : s.emptyDst e = s.setTileSt (s.tileKey e.ctx u) .empty := by
    unfold State.emptyDst
    rw [dst]
    dsimp only
    rw [show s.tile? (pageKey (s.launchOf e.ctx) (atomPage u.atom)) = some t from found]
    exact if_pos filling
  rw [empties]
  exact setTileSt_tile found

/-- A key that a table lacks is not there after entries have changed or gone. -/
theorem tget_filterMap_none {α β : Type} {t : Tab α} {f : Nat × α → Option (Nat × β)} {k : Nat} (keys : ∀ e d, f e = some d → d.1 = e.1)
    (absent : tget? t k = none) : tget? (t.filterMap f) k = none := by
  induction t with
  | nil => rfl
  | cons e t ih =>
    rw [tget_cons] at absent
    split at absent
    next => cases absent
    next ne =>
      rw [List.filterMap_cons]
      split
      next => exact ih absent
      next d kept => rw [tget_cons, if_neg (keys e d kept ▸ ne), ih absent]

/-- A push that has ended is not there again after a subscription has left its own. -/
theorem leavePush_none {s : State} {p : Nat} (k : Nat) (ended : tget? s.pushes p = none) : tget? (s.leavePush k).pushes p = none := by
  refine tget_filterMap_none (fun u v left => ?_) ended
  dsimp only at left
  split at left
  · cases left
  · split at left <;> cases left <;> rfl

/-- An engine that is idle, or holds a recorded fault, has stopped already (R256). -/
theorem haltEngine_stopped {s : State} {k : Nat} (h : (s.engine k).st = .idle ∨ (s.engine k).st = .faulted) : s.haltEngine k = s := by
  unfold State.haltEngine
  dsimp only
  obtain h | h := h <;> rw [h]

/-- A loaded or running engine ends its program (R65, R256). -/
theorem haltEngine_active {s : State} {k : Nat} (h : (s.engine k).st = .loaded ∨ (s.engine k).st = .running) :
    s.haltEngine k = ((s.leavePush k).emptyDst (s.engine k)).setEngine k ((s.engine k).ended_ .idle) := by
  unfold State.haltEngine
  dsimp only
  obtain h | h := h <;> rw [h]

theorem engine_stopped_or_active (e : Engine) : (e.st = .idle ∨ e.st = .faulted) ∨ (e.st = .loaded ∨ e.st = .running) := by
  cases e.st <;> simp

@[simp] theorem haltEngine_mem (s : State) (k : Nat) : (s.haltEngine k).mem = s.mem := by
  obtain h | h := engine_stopped_or_active (s.engine k)
  · rw [haltEngine_stopped h]
  · rw [haltEngine_active h, State.setEngine_mem]
    obtain h | ⟨key, h⟩ := emptyDst_cases (s.leavePush k) (s.engine k) <;> rw [h]
    · rfl
    · exact setTileSt_mem ..

theorem haltEngine_ctx (s : State) (k j : Nat) : ∃ b, (s.haltEngine k).ctx j = { s.ctx j with event := b } := by
  obtain h | h := engine_stopped_or_active (s.engine k)
  · exact ⟨_, by rw [haltEngine_stopped h]⟩
  · rw [haltEngine_active h, State.setEngine_ctx]
    obtain h | ⟨key, h⟩ := emptyDst_cases (s.leavePush k) (s.engine k) <;> rw [h]
    · exact ⟨_, rfl⟩
    · exact setTileSt_ctx (s.leavePush k) key .empty j

theorem haltEngine_pushes_none {s : State} {p : Nat} (k : Nat) (ended : tget? s.pushes p = none) :
    tget? (s.haltEngine k).pushes p = none := by
  obtain h | h := engine_stopped_or_active (s.engine k)
  · rwa [haltEngine_stopped h]
  · rw [haltEngine_active h, State.setEngine_pushes]
    obtain h | ⟨key, h⟩ := emptyDst_cases (s.leavePush k) (s.engine k) <;> rw [h]
    · exact leavePush_none k ended
    · rw [setTileSt_pushes]
      exact leavePush_none k ended

theorem haltEngine_engine_self {s : State} {k : Nat} (h : (s.engine k).st = .loaded ∨ (s.engine k).st = .running) :
    (s.haltEngine k).engine k = (s.engine k).ended_ .idle := by
  rw [haltEngine_active h, State.setEngine_engine_self]

theorem haltEngine_engine_other {s : State} {k j : Nat} (ne : j ≠ k) : (s.haltEngine k).engine j = s.engine j := by
  obtain h | h := engine_stopped_or_active (s.engine k)
  · rw [haltEngine_stopped h]
  · rw [haltEngine_active h, State.setEngine_engine_other _ _ _ ne]
    obtain h | ⟨key, h⟩ := emptyDst_cases (s.leavePush k) (s.engine k) <;> rw [h]
    · rfl
    · exact congrArg (tgetD · j {}) (setTileSt_engines ..)

/-- An engine without a recorded fault is idle after SHALT, with the count that it had (R256). -/
theorem haltEngine_idle {s : State} {k : Nat} (h : (s.engine k).st ≠ .faulted) :
    ((s.haltEngine k).engine k).st = .idle ∧ ((s.haltEngine k).engine k).n = (s.engine k).n := by
  obtain stopped | active := engine_stopped_or_active (s.engine k)
  · rw [haltEngine_stopped stopped]
    exact ⟨stopped.resolve_right h, rfl⟩
  · rw [haltEngine_engine_self active]
    exact ⟨rfl, rfl⟩

/-- The destination tile of an engine that is halted is EMPTY again (R65). -/
theorem haltEngine_tile {s : State} {k : Nat} {u : Handle} {t : Tile} (active : (s.engine k).st = .loaded ∨ (s.engine k).st = .running)
    (dst : (s.engine k).dstTile = some u) (found : s.tile? (s.tileKey (s.engine k).ctx u) = some t) (filling : t.st = .filling) :
    (s.haltEngine k).tile? (s.tileKey (s.engine k).ctx u) = some { t with st := .empty } := by
  rw [haltEngine_active active]
  exact emptyDst_tile (s := s.leavePush k) dst found filling

/-! ### The end of a push -/

theorem endPush_eq {s : State} {p : Nat} {u : Push} (found : tget? s.pushes p = some u) :
    s.endPush p = u.subs.foldl (fun s x => s.haltEngine x.1) { s with pushes := tdel s.pushes p } := by
  unfold State.endPush
  rw [found]

/-- A push that has ended is gone (R49). -/
theorem endPush_none {s : State} {p : Nat} {u : Push} (found : tget? s.pushes p = some u) : tget? (s.endPush p).pushes p = none := by
  rw [endPush_eq found]
  exact List.foldlRecOn _ _ (motive := fun t : State => tget? t.pushes p = none) ((tget_tdel ..).trans (if_pos rfl))
    fun t ended y _ => haltEngine_pushes_none y.1 ended

/-- The subscriptions of a push that has ended are idle, but for those with a recorded fault (R49; log 30). -/
theorem endPush_idle {s : State} {p : Nat} {u : Push} {y : Nat × Nat} (found : tget? s.pushes p = some u) (mem : y ∈ u.subs)
    (sound : (s.engine y.1).st ≠ .faulted) : ((s.endPush p).engine y.1).st = .idle := by
  rw [endPush_eq found]
  refine foldl_reaches (inv := fun t : State => (t.engine y.1).st ≠ .faulted)
    (goal := fun t => (t.engine y.1).st = .idle) mem ?_
    (fun t sound => (haltEngine_idle sound).1) ?_ sound
  · intro t z sound
    by_cases same : y.1 = z.1
    · rw [← same, (haltEngine_idle sound).1]
      decide
    · rwa [haltEngine_engine_other same]
  · intro t z idle
    by_cases same : y.1 = z.1
    · rwa [haltEngine_stopped (.inl (same ▸ idle))]
    · rwa [haltEngine_engine_other same]

/-! ### A command to an engine -/

section
variable {s : State} {k e : Nat} {x : Ctx} {v : BitVec 4} {f : Nat → Engine → Res}

/-- A virtual engine outside the region (R52). -/
theorem withEngine_none (h : x.physEngine k v = none) : s.withEngine k x v f = .trap ⟨0x01, 0, 0⟩ := by
  unfold State.withEngine
  rw [h]
  rfl

theorem withEngine_sound (h : x.physEngine k v = some e) (sound : (s.engine e).st ≠ .faulted) :
    s.withEngine k x v f = f e (s.engine e) := by
  unfold State.withEngine
  rw [h]
  dsimp only
  split
  next faulted _ => exact absurd faulted sound
  next => rfl

/-- A recorded fault traps, and the engine is idle (R68). -/
theorem withEngine_faulted {code kind : Nat} {addr : Word} (h : x.physEngine k v = some e) (faulted : (s.engine e).st = .faulted)
    (fault : (s.engine e).fault = some (code, kind, addr)) :
    s.withEngine k x v f = .stop ((s.setEngine e { s.engine e with st := .idle, fault := none }).takeTrap k ⟨code, kind, addr⟩) := by
  unfold State.withEngine
  rw [h]
  dsimp only
  rw [faulted, fault]

end

section
variable {s : State} {k e : Nat} {c : Guard}

/-- The stream commands to an engine, which find it first (R253 to R257). -/
def streamCommands (c : Guard) (eng h : BitVec 4) (d a slot : BitVec 5) (scope : BitVec 3) (entry : BitVec 10) : List Instr :=
  [.sagen c eng a, .sagenPantry c eng entry, .sbind c eng h slot, .sbindHost c eng, .sgo c eng, .shalt c eng, .swait c eng scope,
    .scnt c d eng, .sagenTile c eng h a]

theorem exec_streamCommand {eng h : BitVec 4} {d a slot : BitVec 5} {scope : BitVec 3} {entry : BitVec 10} {i : Instr}
    (issues : s.issues k c) (mem : i ∈ streamCommands c eng h d a slot scope entry) :
    ∃ f, exec i s = .next ((s.withEngine k (s.ctx k) eng f).finish s k (s.ctx k).pc 4) := by
  simp only [streamCommands, List.mem_cons, List.not_mem_nil, or_false] at mem
  obtain rfl | rfl | rfl | rfl | rfl | rfl | rfl | rfl | rfl := mem
  · exact ⟨_, (cp_issues issues : execSagen c eng a s = _)⟩
  · exact ⟨_, (cp_issues issues : execSagenPantry c eng entry s = _)⟩
  · exact ⟨_, (cp_issues issues : execSbind c eng h slot s = _)⟩
  · exact ⟨_, (cp_issues issues : execSbindHost c eng s = _)⟩
  · exact ⟨_, (cp_issues issues : execSgo c eng s = _)⟩
  · exact ⟨_, (cp_issues issues : execShalt c eng s = _)⟩
  · exact ⟨_, (cp_issues issues : execSwait c eng scope s = _)⟩
  · exact ⟨_, (cp_issues issues : execScnt c d eng s = _)⟩
  · exact ⟨_, (cp_issues issues : execSagenTile c eng h a s = _)⟩

/-- SHALT of an engine without a recorded fault (R256). -/
theorem exec_shalt {eng : BitVec 4} (issues : s.issues k c) (found : (s.ctx k).physEngine k eng = some e)
    (sound : (s.engine e).st ≠ .faulted) : exec (.shalt c eng) s = .next ((s.haltEngine e).goesTo k ((s.ctx k).pc + 4)) := by
  refine (cp_issues issues : execShalt c eng s = _).trans ?_
  rw [withEngine_sound found sound]
  rfl

/-- SCNT of an engine without a recorded fault (R257). -/
theorem exec_scnt {d : BitVec 5} {eng : BitVec 4} (issues : s.issues k c) (found : (s.ctx k).physEngine k eng = some e)
    (sound : (s.engine e).st ≠ .faulted) : exec (.scnt c d eng) s = .next (s.wroteG k d (BitVec.ofNat 64 (s.engine e).n)) := by
  refine (cp_issues issues : execScnt c d eng s = _).trans ?_
  rw [withEngine_sound found sound, finish_setsG]

/-- SWAIT of an engine without a recorded fault (R257). -/
theorem exec_swait {eng : BitVec 4} {scope : BitVec 3} (issues : s.issues k c) (found : (s.ctx k).physEngine k eng = some e)
    (sound : (s.engine e).st ≠ .faulted) : exec (.swait c eng scope) s = .next
      (if (s.engine e).st = .running then s.updCtx k fun x => x.waiting .other s.clock
        else if (s.engine e).st = .loaded then s.takeTrap k ⟨0x01, 0, 0⟩ else s.goesTo k ((s.ctx k).pc + 4)) := by
  refine (cp_issues issues : execSwait c eng scope s = _).trans ?_
  rw [withEngine_sound found sound]
  cases (s.engine e).st <;> rfl

/-- SHALT.push of a number at which a push of the gang runs (R49, R256). -/
theorem exec_shaltPush {a : BitVec 5} {u : Push} (issues : s.issues k c) (found : tget? s.pushes ((s.ctx k).rg a).toNat = some u)
    (own : u.gang = (s.ctx k).gang) :
    exec (.shaltPush c a) s = .next ((s.endPush ((s.ctx k).rg a).toNat).goesTo k ((s.ctx k).pc + 4)) := by
  refine (cp_issues issues : execShaltPush c a s = _).trans ?_
  rw [found]
  dsimp only
  rw [if_pos own]
  rfl

/-- SHALT.push of any other number (R256). -/
theorem exec_shaltPush_illegal {a : BitVec 5} (issues : s.issues k c)
    (other : ∀ u, tget? s.pushes ((s.ctx k).rg a).toNat = some u → u.gang ≠ (s.ctx k).gang) :
    exec (.shaltPush c a) s = .next (s.takeTrap k ⟨0x01, 0, 0⟩) := by
  refine (cp_issues issues : execShaltPush c a s = _).trans ?_
  split
  next u found =>
    rw [if_neg (other u found)]
    rfl
  next => rfl

end

/-- Settles O41: `State.haltEngine` and `State.endPush` say what SHALT and SHALT.push leave, and a command comes to an engine
through `State.withEngine`, which looks for a recorded fault first. -/
theorem streamsStopWaitAndCount : Obligations.StreamsStopWaitAndCount := by
  unfold Obligations.StreamsStopWaitAndCount
  intro s k c eng h d a slot scope entry e issues x g
  refine ⟨fun u found own => ⟨_, exec_shaltPush issues found own, ?_, endPush_none found, fun y mem sound =>
      endPush_idle found mem sound⟩,
    exec_shaltPush_illegal issues, fun outside i mem => ?_, fun found => ⟨fun sound => ⟨?_, exec_scnt issues found sound, ?_⟩, ?_⟩⟩
  · rw [goesTo_ctx_self, Ctx.goOn_pc]
  · have mem : i ∈ streamCommands c eng h d a slot scope entry := by
      simp only [List.mem_cons, List.not_mem_nil, or_false] at mem
      obtain rfl | rfl | rfl := mem <;> simp [streamCommands]
    obtain ⟨f, runs⟩ := exec_streamCommand issues mem
    rw [runs, withEngine_none outside, finish_trap]
  · obtain ⟨b, ctx⟩ := haltEngine_ctx s e k
    obtain ⟨idle, count⟩ := haltEngine_idle sound
    refine ⟨_, exec_shalt issues found sound, ?_, haltEngine_mem s e, idle, count, fun busy => ?_⟩
    · rw [goesTo_ctx_self, ctx]
      rfl
    · have active := (engine_stopped_or_active g).resolve_left fun stopped => stopped.elim busy sound
      have ended : ((s.haltEngine e).goesTo k (x.pc + 4)).engine e = g.ended_ .idle := haltEngine_engine_self active
      rw [ended]
      exact ⟨rfl, rfl, rfl, fun u tl dst tile filling => haltEngine_tile active dst tile filling⟩
  · rw [exec_swait issues found sound]
    refine ⟨fun idle => ?_, fun running => ?_, fun loaded => ?_⟩
    · rw [show (s.engine e).st = .idle from idle]
      rfl
    · rw [if_pos running]
    · rw [show (s.engine e).st = .loaded from loaded]
      rfl
  · intro code kind addr faulted fault i mem
    obtain ⟨f, runs⟩ := exec_streamCommand issues (h := h) (slot := slot) (entry := entry) mem
    rw [runs, withEngine_faulted found faulted fault, finish_stop]

end Sys2Proof.Machine
end

section
/-! PROOFS. A read of device memory on behalf of a context changes the tables, the caches and the TLB, and no context (R26, R30, R32). -/

namespace Sys2Proof.Machine
open Sys2Proof

@[simp] theorem l2Touch_ctxs (s : State) (p dpa : Nat) (dirty : Bool) : (s.l2Touch p dpa dirty).ctxs = s.ctxs := by
  unfold State.l2Touch
  split
  · rfl
  · dsimp only
    split <;> rfl

@[simp] theorem ptcFill_ctxs (s : State) (core launch dva l table : Nat) : (s.ptcFill core launch dva l table).ctxs = s.ctxs := by
  unfold State.ptcFill
  split
  · rfl
  · dsimp only
    split <;> rfl

@[simp] theorem tlbFill_ctxs (s : State) (core launch : Nat) (dva : Word) (write : Bool) (f : Leaf) :
    (s.tlbFill core launch dva write f).ctxs = s.ctxs := by
  unfold State.tlbFill
  dsimp only
  split <;> rfl

/-- Everything that a level of the walk can come to: a leaf, with A and D set in its entry, or the table below (R28, R30). -/
theorem walkFrom_cases {s t : State} {core launch dva l table : Nat} {write : Bool} {f : Leaf}
    (h : s.walkFrom core launch dva write l table = .ok (t, f)) :
    (∃ mem at_, t = State.l2Touch { s with mem := mem } (launch / 4) at_ true)
    ∨ ∃ l' at_ a, l = l' + 1
        ∧ ((s.l2Touch (launch / 4) at_ false).ptcFill core launch dva (l' + 1) a).walkFrom core launch dva write l' a = .ok (t, f) := by
  unfold State.walkFrom at h
  generalize (if write = true then _ else _ : Word) = accessed at h
  dsimp only at h
  split at h
  · split at h
    · cases h
    · split at h
      · cases h
        exact .inl ⟨_, _, rfl⟩
      · split at h
        · cases h
        · split at h
          · cases h
          · exact .inr ⟨_, _, _, rfl, h⟩
  · cases h

theorem walkFrom_ctxs {s t : State} {core launch dva l table : Nat} {write : Bool} {f : Leaf}
    (h : s.walkFrom core launch dva write l table = .ok (t, f)) : t.ctxs = s.ctxs := by
  induction l generalizing s table with
  | zero =>
    obtain ⟨mem, at_, rfl⟩ | ⟨l', at_, a, level, -⟩ := walkFrom_cases h
    · exact l2Touch_ctxs ..
    · cases level
  | succ l ih =>
    obtain ⟨mem, at_, rfl⟩ | ⟨l', at_, a, level, below⟩ := walkFrom_cases h
    · exact l2Touch_ctxs ..
    · cases level
      rw [ih below, ptcFill_ctxs, l2Touch_ctxs]

theorem walk_ctxs {s t : State} {core launch : Nat} {dva : Word} {write : Bool} {f : Leaf}
    (h : s.walk core launch dva write = .ok (t, f)) : t.ctxs = s.ctxs := by
  unfold State.walk at h
  split at h
  · cases h
  · split at h
    · cases h
    · exact walkFrom_ctxs h

theorem translate_ctxs {s t : State} {core launch : Nat} {dva : Word} {write : Bool} {x : Xlat}
    (h : s.translate core launch dva write = .ok (t, x)) : t.ctxs = s.ctxs := by
  unfold State.translate at h
  split at h
  · cases h
  · split at h
    · cases h
    · split at h
      · cases h
        rfl
      · split at h
        · cases h
        next walked =>
          cases h
          rw [tlbFill_ctxs, walk_ctxs walked]

theorem readAt_state {s t : State} {k n : Nat} {x : Xlat} {bs : List Byte} (h : s.readAt k x n = .ok (t, bs)) : t = s := by
  unfold State.readAt at h
  split at h
  · split at h <;> cases h
    rfl
  · cases h

theorem devRead_ctxs {s t : State} {k n : Nat} {a : Word} {bs : List Byte} (h : s.devRead k a n = .ok (t, bs)) : t.ctxs = s.ctxs := by
  unfold State.devRead at h
  split at h
  · cases h
  next translated => rw [readAt_state h, translate_ctxs translated]

theorem devReadLong_ctxs {s t : State} {k n : Nat} {a : Word} {bs : List Byte} (h : s.devReadLong k a n = .ok (t, bs)) :
    t.ctxs = s.ctxs := by
  induction n generalizing s a bs with
  | zero =>
    cases h
    rfl
  | succ n ih =>
    unfold State.devReadLong at h
    split at h
    · cases h
    next read =>
      split at h
      · cases h
      next rest =>
        cases h
        rw [ih rest, devRead_ctxs read]

theorem devReadLong_ctx {s t : State} {k n : Nat} {a : Word} {bs : List Byte} (h : s.devReadLong k a n = .ok (t, bs)) (j : Nat) :
    t.ctx j = s.ctx j := by
  unfold State.ctx
  rw [devReadLong_ctxs h]

end Sys2Proof.Machine
end

section
/-! PROOFS. SMCAST, the units of a push and its permits (R46, R47, R48, R67, R258). -/

namespace Sys2Proof.Machine
open Sys2Proof

/-! ### A push starts -/

/-- The push that an SMCAST of a gang starts (R47, R48, R258). -/
def Push.started (gang k : Nat) (r : List Word) (base idxBase : Word) (subs : Tab Engine) : Push :=
  { gang := gang, ctx := k, record := r, base := base, n := 0, idxBase := idxBase, node := base
    unit := (recExt r).getD 0 1 * (recExt r).getD 1 1
    count := if recCount r = 0 then prodOf (recExt r) else recCount r
    permits := subs.foldl (fun m e => min m (recDepth e.2.record)) 4
    subs := subs.map fun e => (e.1, 0) }

theorem recDepth_le (r : List Word) : recDepth r ≤ 4 := (((r.getD 0 0).extractLsb' 20 2).isLt : _ < 4)

/-- The permits of a push that starts are the least depth of a buffer of its subscriptions (R48). -/
theorem started_permits {gang k : Nat} {r : List Word} {base idxBase : Word} {subs : Tab Engine} (nonempty : subs ≠ []) :
    (∀ e ∈ subs, (Push.started gang k r base idxBase subs).permits ≤ recDepth e.2.record)
      ∧ ∃ e ∈ subs, (Push.started gang k r base idxBase subs).permits = recDepth e.2.record := by
  have depths : subs.map (fun e => recDepth e.2.record) ≠ [] := by simpa using nonempty
  obtain ⟨least, isLeast⟩ := Option.isSome_iff_exists.1 (List.isSome_min?_iff.2 depths)
  obtain ⟨mem, le⟩ := List.min?_eq_some_iff.1 isLeast
  obtain ⟨e, isSub, rfl⟩ := List.mem_map.1 mem
  have permits : (Push.started gang k r base idxBase subs).permits = recDepth e.2.record := by
    show subs.foldl (fun m e => min m (recDepth e.2.record)) 4 = _
    rw [← List.foldl_map (f := fun e : Nat × Engine => recDepth e.2.record) (g := min), List.foldl_min, isLeast]
    exact Nat.min_eq_right (recDepth_le _)
  rw [permits]
  exact ⟨fun y mem => le _ (List.mem_map_of_mem mem), e, isSub, rfl⟩

section
variable {s : State} {k p : Nat} {r : List Word} {base idxBase : Word} {subs : Tab Engine}

@[simp] theorem startPush_nil : s.startPush k p r base idxBase [] = s := rfl

theorem startPush_cons (nonempty : subs ≠ []) : s.startPush k p r base idxBase subs =
    let t := subs.foldl (fun s e => s.setEngine e.1 { e.2 with st := .running }) s
    { t with pushes := tset t.pushes p (Push.started (s.ctx k).gang k r base idxBase subs) } :=
  if_neg (by simpa using nonempty)

theorem startPush_push (nonempty : subs ≠ []) :
    tget? (s.startPush k p r base idxBase subs).pushes p = some (Push.started (s.ctx k).gang k r base idxBase subs) := by
  rw [startPush_cons nonempty]
  exact tget_tset_same ..

/-- The subscriptions of a push that starts run (R258). -/
theorem startPush_running {e : Nat × Engine} (mem : e ∈ subs) : ((s.startPush k p r base idxBase subs).engine e.1).st = .running := by
  rw [startPush_cons (List.ne_nil_of_mem mem)]
  refine foldl_reaches (inv := fun _ : State => True) (goal := fun t => (t.engine e.1).st = .running) mem (fun _ _ _ => trivial)
    (fun t _ => by rw [State.setEngine_engine_self]) (fun t y running => ?_) trivial
  by_cases same : e.1 = y.1
  · rw [same, State.setEngine_engine_self]
  · rwa [State.setEngine_engine_other _ _ _ same]

theorem startPush_engine_other {j : Nat} (other : ∀ e ∈ subs, e.1 ≠ j) : (s.startPush k p r base idxBase subs).engine j = s.engine j := by
  cases subs with
  | nil => rw [startPush_nil]
  | cons e subs =>
    rw [startPush_cons (List.cons_ne_nil e subs)]
    exact foldl_keeps (read := fun t => State.engine t j) (fun t y mem => State.setEngine_engine_other _ _ _ (other y mem).symm) s

end

/-! ### SMCAST -/

/-- The base of a push record (R46, R55). -/
theorem sideBase_dva (x : Ctx) (sel : BitVec 10) (w : Word) :
    sideBase x 2 sel (off48 w) = x.rg (sel.extractLsb' 0 5) + (w.extractLsb' 0 48).signExtend 64 := rfl

section
variable {s : State} {k : Nat} {c : Guard} {a b : BitVec 5} {x : Ctx} {p : Nat} (issues : s.issues k c) (ctx : s.ctx k = x)
  (number : (x.rg a).toNat = p)
include issues ctx number

/-- SMCAST to a push engine of no slice of the map (R258). -/
theorem exec_smcast_illegal (outside : p / 2 ∉ (s.part (s.gang x.gang).part).map) :
    exec (.smcast c a b) s = .next (s.takeTrap k ⟨0x01, 0, 0⟩) := by
  subst ctx number
  refine (cp_issues issues : execSmcast c a b s = _).trans ?_
  rw [if_pos (by simpa using outside)]
  rfl

/-- An SMCAST that has waited goes on with what it has fixed (R258; log 64). -/
theorem exec_smcast_again {r : List Word} {base idx : Word} {l : List (Nat × Nat)}
    (slice : p / 2 ∈ (s.part (s.gang x.gang).part).map) (fixed : x.wait.bind (·.why.mcast?) = some (r, base, idx, l)) :
    exec (.smcast c a b) s = .next (if (tget? s.pushes p).isSome then s.updCtx k fun x => x.waiting (.mcast r base idx l) s.clock
      else (s.startPush k p r base idx (s.stillSubs l)).goesTo k (x.pc + 4)) := by
  subst ctx number
  refine (cp_issues issues : execSmcast c a b s = _).trans ?_
  rw [if_neg (by simpa using slice), fixed]
  dsimp only
  split <;> rfl

/-- An SMCAST that has not waited, with a record and subscriptions that pass the checks (R258). -/
theorem exec_smcast_first {s1 : State} {bs : List Byte} {r : List Word} {base : Word} {subs : Tab Engine} (record : dwords bs = r)
    (isBase : sideBase x 2 (recSrcSel r) (off48 (r.getD 1 0)) = base) (isSubs : s.subscribers (s.gang x.gang) p = subs)
    (slice : p / 2 ∈ (s.part (s.gang x.gang).part).map) (aligned : (x.rg b).toNat % 64 = 0)
    (fresh : x.wait.bind (·.why.mcast?) = none) (read : s.devReadLong k (x.rg b) 8 = .ok (s1, bs)) (nonempty : subs ≠ [])
    (few : subs.length ≤ 16) (legal : recOk r true = true)
    (counts : ∀ e ∈ subs, prodOf e.2.ext = if recCount r = 0 then prodOf (recExt r) else recCount r)
    (based : base.toNat % recSize r = 0) :
    exec (.smcast c a b) s =
      let idx := x.rg (recIdxReg r) + BitVec.ofInt 64 (off48 (r.getD 7 0))
      .next (if (tget? s.pushes p).isSome
        then s1.updCtx k fun x => x.waiting (.mcast r base idx (subs.map fun e => (e.1, e.2.loadedAt))) s.clock
        else (s1.startPush k p r base idx subs).goesTo k (x.pc + 4)) := by
  subst ctx number record isBase isSubs
  refine (cp_issues issues : execSmcast c a b s = _).trans ?_
  rw [if_neg (by simpa using slice), fresh]
  dsimp only
  rw [if_neg (by simpa using ⟨nonempty, few⟩), if_neg (by simpa using aligned), read]
  dsimp only
  rw [if_neg (by simpa [legal] using fun i e mem => counts (i, e) mem), if_neg (by simpa using based)]
  split <;> rfl

end

/-! ### The units of a push and its permits -/

/-- A push with a permit and words to send sends a unit (R47, R48). -/
theorem exec_pushUnit {s s1 : State} {push : Nat} {u : Push} {r : Engine} {ws : List Word} (found : tget? s.pushes push = some u)
    (permit : 0 < u.permits) (more : u.n < u.count)
    (words : s.pushWords u.reader u.n (min u.unit (u.count - u.n)) = .val (s1, r, ws)) :
    exec (.pushUnit push) s =
      let s2 := u.subs.foldl (fun s x => s.updEngine x.1 fun h => h.receive ws u.unit) s1
      let u2 := { u with n := u.n + min u.unit (u.count - u.n), permits := u.permits - 1, node := r.node, ended := r.ended }
      .next { s2 with pushes := tset s2.pushes push u2 } := by
  show execPushUnit push s = _
  unfold execPushUnit
  rw [found]
  dsimp only
  rw [if_neg (by omega), words]

/-- A subscription that has nothing to drop takes the words of a unit into its buffer (R47). -/
theorem receive_rbuf {g : Engine} (fresh : g.skip = 0) (ws : List Word) (unit : Nat) : (g.receive ws unit).rbuf = g.rbuf ++ ws := by
  show g.rbuf ++ ws.drop (Nat.min g.skip ws.length) = _
  rw [fresh]
  exact congrArg (g.rbuf ++ List.drop · ws) (Nat.zero_min _)

/-- The joins forward as many tokens as every subscription holds (R48). -/
theorem join_eq {u : Push} (nonempty : u.subs ≠ []) :
    ∃ n, u.join = { u with subs := u.subs.map fun y => (y.1, y.2 - n), permits := u.permits + n }
      ∧ (∀ y ∈ u.subs, n ≤ y.2) ∧ ∃ y ∈ u.subs, y.2 = n := by
  have tokens : u.subs.map (·.2) ≠ [] := by simpa using nonempty
  obtain ⟨n, least⟩ := Option.isSome_iff_exists.1 (List.isSome_min?_iff.2 tokens)
  obtain ⟨mem, le⟩ := List.min?_eq_some_iff.1 least
  refine ⟨n, ?_, fun y mem => le _ (List.mem_map_of_mem mem), List.mem_map.1 mem⟩
  unfold Push.join
  rw [least]
  rfl

theorem exec_spaceToken {s : State} {core eng : Nat} {u : Push} (token : 0 < (s.engine (core * 16 + eng)).tokens)
    (subscribes : recSrcKind (s.engine (core * 16 + eng)).record = 4)
    (found : tget? s.pushes (recSrcSel (s.engine (core * 16 + eng)).record).toNat = some u) :
    exec (.spaceToken core eng) s =
      let g := s.engine (core * 16 + eng)
      let u1 : Push := { u with subs := u.subs.map fun y => if y.1 = core * 16 + eng then (y.1, y.2 + 1) else y }
      .next (State.setEngine { s with pushes := tset s.pushes (recSrcSel g.record).toNat u1.join } (core * 16 + eng)
        { g with tokens := g.tokens - 1 }) := by
  show execSpaceToken core eng s = _
  unfold execSpaceToken
  dsimp only
  rw [if_neg fun none => none.elim (Nat.ne_of_gt token) (· subscribes), found]

/-- Settles O43: `State.startPush` sets up the push and runs its subscriptions, each unit is one `Engine.receive` of each, and
`Push.join` takes the least number of tokens. -/
theorem multicast : Obligations.Multicast := by
  unfold Obligations.Multicast
  intro s k c a b issues x p g
  refine ⟨?starts, ?waits, ?again, exec_smcast_illegal issues rfl rfl, ?unit, ?token⟩
  case starts =>
    intro slice aligned fresh s1 bs read r count base subs legal based nonempty few counts idle
    have runs := (exec_smcast_first issues rfl rfl rfl (sideBase_dva ..) rfl slice aligned fresh read nonempty few legal counts based).trans
      (congrArg Host.Outcome.next (if_neg (Option.not_isSome_iff_eq_none.2 idle)))
    obtain ⟨least, attained⟩ := started_permits (gang := (s1.ctx k).gang) (k := k) (r := r) (base := base)
      (idxBase := x.rg (recIdxReg r) + BitVec.ofInt 64 (off48 (r.getD 7 0))) nonempty
    refine ⟨_, _, runs, ?_, startPush_push nonempty, ?_, rfl, rfl, rfl, rfl, least, attained, ?_, fun e mem => startPush_running mem⟩
    · rw [goesTo_ctx_self, Ctx.goOn_pc]
    · exact congrArg Ctx.gang (devReadLong_ctx read k)
    · exact List.map_map
  case waits =>
    intro slice aligned fresh s1 bs read r subs legal based nonempty few counts busy
    refine (exec_smcast_first issues rfl rfl rfl (sideBase_dva ..) rfl slice aligned fresh read nonempty few legal counts based).trans
      (congrArg Host.Outcome.next ((if_pos busy).trans ?_))
    unfold State.updCtx
    rw [devReadLong_ctx read k]
    rfl
  case again =>
    intro r base idx l slice fixed subs
    have runs := exec_smcast_again (b := b) issues rfl rfl slice fixed
    refine ⟨fun busy => runs.trans (congrArg Host.Outcome.next (if_pos busy)), fun idle =>
      ⟨_, runs.trans (congrArg Host.Outcome.next (if_neg (Option.not_isSome_iff_eq_none.2 idle))), ?_,
      fun e mem => startPush_running mem, fun e other => startPush_engine_other other, fun nonempty =>
      ⟨_, startPush_push nonempty, rfl, rfl, rfl, rfl, List.map_map⟩⟩⟩
    rw [goesTo_ctx_self, Ctx.goOn_pc]
  case unit =>
    intro push u s1 r ws found permit more words nodup
    refine ⟨_, exec_pushUnit found permit more words, tget_tset_same .., fun y mem fresh => ?_⟩
    rw [← receive_rbuf fresh ws u.unit]
    exact congrArg Engine.rbuf (foldl_updates_once (read := fun t => State.engine t y.1) (f := fun h => h.receive ws u.unit) mem nodup
      (fun t => State.setEngine_engine_self ..) (fun t z ne => State.setEngine_engine_other _ _ _ (Ne.symm ne)) s1)
  case token =>
    intro core eng u e gg token subscribes found subs
    refine ⟨_, exec_spaceToken token subscribes found, State.setEngine_engine_self .., _, tget_tset_same .., fun nonempty => ?_⟩
    exact join_eq (u := { u with subs := subs }) (by simpa [subs] using nonempty)

end Sys2Proof.Machine
end

section
/-! PROOFS. Every step answers a next state, whose agenda and inputs list only what they may (R68, R108, R198, R235, R310, R317). -/

namespace Sys2Proof

/-! ### What a decoder answers is an instruction of the agent it decodes for -/

theorem guard_of_encodeWord {i : Instr} {w : W32} (h : encodeWord i = some w) : ∃ c, i.guard? = some c := by
  cases i <;> cases h
  all_goals exact ⟨_, rfl⟩

/-- The decoder answers only an instruction that it can lay out again as a word of the CP (R107). -/
theorem guard_of_decodeWord {w x : W32} {i : Instr} (h : decodeWord w x = .ok i) : ∃ c, i.guard? = some c := by
  unfold decodeWord at h
  split at h
  · split at h
    · cases h
    · split at h
      next encoded =>
        split at h <;> cases h
        exact guard_of_encodeWord encoded
      next => cases h
  · cases h

theorem isElementOp_of_decodeElem {w : Word} {i : Instr} (h : decodeElem w = some i) : i.isElementOp = true := by
  unfold decodeElem at h
  dsimp only at h
  split at h
  case h_1 => split at h <;> cases h; rfl
  all_goals cases h
  all_goals rfl

theorem isTriggerOp_of_decodeTrig {w : Word} {i : Instr} (h : decodeTrig w = some i) : i.isTriggerOp = true := by
  unfold decodeTrig at h
  dsimp only at h
  split at h
  · split at h
    all_goals cases h
    all_goals rfl
  · cases h

end Sys2Proof

namespace Sys2Proof.Machine
open Sys2Proof

/-! ### Instructions answer, and leave a legal agenda -/

/-- An outcome is a next state whose agenda and inputs list only what they may. -/
def Proceeds (o : Host.Outcome State Fault Refusal) : Prop := ∃ t, o = .next t ∧ t.agendaOk

theorem proceeds_next {s : State} (ok : s.agendaOk) : Proceeds (.next s) := ⟨s, rfl, ok⟩

theorem State.Kept.agendaOk {s t : State} (kept : s.Kept t) (ok : s.agendaOk) : t.agendaOk := by
  have inputs : t.inputs = s.inputs := congrArg Prod.fst kept.inputs
  unfold State.agendaOk
  rw [kept.agenda, inputs]
  exact ok

/-- A reset clears the agenda and keeps the inputs to come (R337); no other instruction writes either. -/
theorem agendaOk_exec {s t : State} {i : Instr} (ok : s.agendaOk) (h : exec i s = .next t) : t.agendaOk := by
  by_cases hi : i = .reset
  · subst hi
    cases h
    exact ⟨rfl, ok.2⟩
  · exact (kept_exec hi (State.Kept.refl s) t h).agendaOk ok

theorem proceeds_exec {s : State} {i : Instr} (ok : s.agendaOk) (answers : Answers (exec i s)) : Proceeds (exec i s) := by
  obtain ⟨t, h⟩ := answers
  exact ⟨t, h, agendaOk_exec ok h⟩

theorem proceeds_event {s : State} {i : Instr} (ok : s.agendaOk) (event : i.isEvent = true) : Proceeds (exec i (s.focusOn .none)) :=
  proceeds_exec ((kept_focusOn s _).agendaOk ok) (answers_exec_event event)

/-! ### The turn of a context -/

/-- What stands at the PC of a context is an instruction of the CP, or the illegal encoding (R93, R107). -/
theorem fetch_cases (s : State) (k : Nat) : (∃ c, (s.fetch k).guard? = some c) ∨ ∃ a, s.fetch k = .illegalEncoding a := by
  have decoded (w x : W32) : (∃ c, (decodeOr w x).guard? = some c) ∨ ∃ a, decodeOr w x = .illegalEncoding a := by
    unfold decodeOr
    split
    next ok => exact .inl (guard_of_decodeWord ok)
    next => exact .inr ⟨_, rfl⟩
  unfold State.fetch
  dsimp only
  split
  · exact .inr ⟨_, rfl⟩
  · split
    · split
      · unfold cutLdi
        split
        · exact .inr ⟨_, rfl⟩
        next ok =>
          split
          · exact .inr ⟨_, rfl⟩
          · exact .inl (guard_of_decodeWord ok)
      · exact decoded _ _
    · exact decoded _ _

theorem answers_exec_fetch {s t : State} {j k : Nat} (focus : t.focus = .ctx k) : Answers (exec (s.fetch j) t) := by
  obtain ⟨c, guarded⟩ | ⟨a, illegal⟩ := fetch_cases s j
  · exact answers_exec_cp guarded focus
  · rw [illegal]
    show Answers (execIllegalEncoding a t)
    unfold execIllegalEncoding
    rw [focus]
    exact answers_next

theorem proceeds_issue {s : State} (ok : s.agendaOk) (core ctx : Nat) : Proceeds (s.issue core ctx) := by
  unfold State.issue
  split
  · exact proceeds_exec ((kept_turnOf s core ctx).agendaOk ok) (answers_exec_fetch rfl)
  · exact proceeds_next ok

/-- A turn that is not taken gives back the cores, and neither the agenda nor the inputs (R190, R309). -/
theorem agendaOk_withCores {s : State} (ok : s.agendaOk) (cores : Tab Core) : ({ s with cores := cores } : State).agendaOk := ok

theorem proceeds_takeIssue {s : State} (ok : s.agendaOk) (core ctx : Nat) : Proceeds (s.takeIssue core ctx) := by
  obtain ⟨s1, issued, ok1⟩ := proceeds_issue ok core ctx
  unfold State.takeIssue
  rw [issued]
  refine proceeds_next ?_
  split
  · exact agendaOk_withCores ok1 _
  · exact ok1

theorem proceeds_retry {s : State} (ok : s.agendaOk) (core ctx : Nat) : Proceeds (s.retry core ctx) := by
  obtain ⟨s1, issued, ok1⟩ := proceeds_issue ok core ctx
  unfold State.retry
  rw [issued]
  dsimp only
  split
  · exact proceeds_next (agendaOk_withCores ok1 _)
  · exact proceeds_next ok

/-! ### The core cycle of an element -/

/-- An element without a site, or one whose context has stopped or that has acted, does nothing; the others act or stall
(R116, R133). -/
theorem proceeds_runElement {s : State} (ok : s.agendaOk) (k : Nat) : Proceeds (s.runElement k) := by
  have tried : ((s.retryMem k).focusOn (.elem k)).agendaOk :=
    ((kept_retryMem (State.Kept.refl s)).trans (kept_focusOn _ _)).agendaOk ok
  unfold State.runElement
  dsimp only
  split
  · exact proceeds_next tried
  · split
    · exact proceeds_next tried
    · split
      · split
        · split
          next trigger => exact proceeds_exec tried (answers_exec_trig (isTriggerOp_of_decodeTrig trigger) rfl)
          next => exact proceeds_next tried
        · exact proceeds_next ((kept_stallAt (State.Kept.refl _)).agendaOk tried)
      · split
        next word => exact proceeds_exec tried (answers_exec_elem (isElementOp_of_decodeElem word) rfl)
        next => exact proceeds_next tried

/-! ### The outside and the items of an agenda -/

theorem proceeds_outside {s : State} {o : Outside} (ok : s.agendaOk) (legal : o.ok = true) : Proceeds (s.outside o) := by
  cases o with
  | event i => exact proceeds_event ok legal
  | hostWrite pasid addr data => exact proceeds_next ok
  | maskVector vec => exact proceeds_next ok
  | planDrop part plan => exact proceeds_next ((kept_peerDrop (State.Kept.refl s)).agendaOk ok)

theorem proceeds_run {s : State} {i : Item} (ok : s.agendaOk) (legal : i.ok = true) : Proceeds (s.run i) := by
  cases i with
  | cp core ctx => exact proceeds_takeIssue ok core ctx
  | retry core ctx => exact proceeds_retry ok core ctx
  | element core row col => exact proceeds_runElement ok _
  | event i => exact proceeds_event ok legal
  | outside o => exact proceeds_outside ok legal
  | advance => exact proceeds_next ((kept_nextCycle s).agendaOk ok)

/-! ### The events of a core cycle -/

/-- A list of events: none of them is an instruction of an agent. -/
def Events (l : List Instr) : Prop := ∀ i ∈ l, i.isEvent = true

theorem events_nil : Events [] := fun _ mem => nomatch mem

theorem events_cons {i : Instr} {l : List Instr} (event : i.isEvent = true) (h : Events l) : Events (i :: l) :=
  List.forall_mem_cons.2 ⟨event, h⟩

theorem events_one {i : Instr} (event : i.isEvent = true) : Events [i] := events_cons event events_nil

theorem events_append {l r : List Instr} (hl : Events l) (hr : Events r) : Events (l ++ r) := List.forall_mem_append.2 ⟨hl, hr⟩

theorem events_ite {c : Prop} [Decidable c] {l r : List Instr} (hl : Events l) (hr : Events r) : Events (if c then l else r) := by
  split
  · exact hl
  · exact hr

theorem events_map {α : Type} {l : List α} {f : α → Instr} (event : ∀ x, (f x).isEvent = true) : Events (l.map f) :=
  List.forall_mem_map.2 fun x _ => event x

theorem events_flatMap {α : Type} {l : List α} {f : α → List Instr} (h : ∀ x, Events (f x)) : Events (l.flatMap f) := by
  intro i mem
  obtain ⟨x, -, listed⟩ := List.mem_flatMap.1 mem
  exact h x i listed

section
variable (s : State)

theorem events_partEvents : Events s.partEvents :=
  events_append (events_append (events_append (events_ite (events_one rfl) events_nil) (events_ite (events_one rfl) events_nil))
    (events_map fun _ => rfl))
    (events_flatMap fun _ => events_ite events_nil (events_ite (events_ite events_nil (events_one rfl))
      (events_ite (events_one rfl) events_nil)))

theorem events_windowEvents (p : Nat) : Events (s.windowEvents p) :=
  events_append (events_append (events_ite (events_one rfl) events_nil) (events_ite (events_one rfl) events_nil))
    (events_ite (events_one rfl) events_nil)

theorem events_treeEvents (p : Nat) : Events (s.treeEvents p) :=
  events_ite events_nil (events_ite (events_one rfl) (events_ite (events_one rfl) events_nil))

/-- Each queued application is placed, stolen or left in its queue (R306 to R308). -/
theorem events_placesOf (p : Nat) (l : List (Nat × RA)) : Events (s.placesOf p l) := by
  induction l generalizing s with
  | nil => exact events_nil
  | cons x r ih =>
    unfold State.placesOf
    split
    · exact events_cons rfl (ih _)
    · split
      · exact events_cons rfl (ih _)
      · exact ih _

theorem events_placeEvents (p : Nat) : Events (s.placeEvents p) := events_ite (events_placesOf s p _) events_nil

theorem events_startEvents : Events s.startEvents := by
  refine events_flatMap fun g => events_append (events_map fun _ => rfl) ?_
  split
  · exact events_one rfl
  · exact events_nil

theorem events_pageEvents : Events s.pageEvents :=
  events_append (events_append (events_append (events_append (events_map fun _ => rfl) (events_map fun _ => rfl))
    (events_map fun _ => rfl)) (events_map fun _ => rfl)) (events_map fun _ => rfl)

theorem events_waitEvents : Events s.waitEvents := by
  refine events_append (events_append (events_flatMap fun p => events_append (events_ite (events_one rfl) events_nil)
    (events_ite (events_map fun _ => rfl) events_nil)) (events_flatMap fun g => events_map fun _ => rfl))
    (events_flatMap fun e => events_append (events_ite (events_one rfl) events_nil) (events_ite ?_ events_nil))
  split
  · exact events_one rfl
  · exact events_nil

theorem events_flowEvents : Events s.flowEvents := by
  refine events_append (events_append (events_append (events_map fun _ => rfl)
    (events_flatMap fun i => events_append ?_ (events_one rfl))) (events_map fun _ => rfl))
    (events_flatMap fun e => events_ite events_nil (events_append (events_append
      (events_append (events_ite events_nil (events_one rfl)) (events_one rfl)) (events_ite (events_one rfl) events_nil)) (events_one rfl)))
  split
  · exact events_one rfl
  · exact events_nil

theorem events_dueEvents : Events s.dueEvents :=
  events_append (events_append (events_append (events_append (events_append (events_append (events_append
    (events_partEvents s)
    (events_flatMap (events_windowEvents s)))
    (events_flatMap (events_treeEvents s)))
    (events_flatMap (events_placeEvents s)))
    (events_startEvents s))
    (events_pageEvents s))
    (events_waitEvents s))
    (events_flowEvents s)

end

/-! ### A new agenda -/

/-- A core lists turns of its contexts and of its elements only. -/
theorem ok_of_mem_coreItems {s : State} {core : Nat} {i : Item} (mem : i ∈ s.coreItems core) : i.ok = true := by
  unfold State.coreItems at mem
  obtain retried | ⟨c, -, taken⟩ := (List.mem_append.1 mem).imp_right List.mem_flatMap.1
  · obtain ⟨c, -, rfl⟩ := List.mem_map.1 retried
    rfl
  · obtain element | chosen := List.mem_append.1 taken
    · obtain ⟨e, -, rfl⟩ := List.mem_map.1 element
      rfl
    · split at chosen
      · cases List.mem_singleton.1 chosen
        rfl
      · cases chosen

/-- The new agenda lists the inputs that have come, due events, turns, and the end of the core cycle. -/
theorem agendaOk_schedule {s : State} (ok : s.agendaOk) : s.schedule.agendaOk := by
  have legal : ∀ e ∈ s.inputs, e.2.ok = true := List.all_eq_true.1 ok.2
  refine ⟨List.all_eq_true.2 fun i mem => ?_, List.all_eq_true.2 fun e mem => legal e (List.mem_filter.1 mem).1⟩
  obtain ((come | due) | turn) | last := (List.mem_append.1 mem).imp_left fun mem =>
    (List.mem_append.1 mem).imp_left List.mem_append.1
  · obtain ⟨o, listed, rfl⟩ := List.mem_map.1 come
    obtain ⟨e, input, rfl⟩ := List.mem_map.1 listed
    exact legal e (List.mem_filter.1 input).1
  · obtain ⟨i, listed, rfl⟩ := List.mem_map.1 due
    exact events_dueEvents s i listed
  · obtain ⟨core, -, listed⟩ := List.mem_flatMap.1 turn
    exact ok_of_mem_coreItems listed
  · cases List.mem_singleton.1 last
    rfl

/-- Settles O58: an item of a legal agenda is a turn, whose decoder answers only instructions that its agent can execute, or an
event, which always answers; none of them lists an item or an input, and a new agenda lists only what it may. -/
theorem stepsNeverStop : Obligations.StepsNeverStop := by
  unfold Obligations.StepsNeverStop
  intro s ok
  unfold step
  split
  · exact proceeds_next (agendaOk_schedule ok)
  next i r listed =>
    obtain ⟨agenda, inputs⟩ := ok
    rw [listed, List.all_cons, Bool.and_eq_true] at agenda
    exact proceeds_run ⟨agenda.2, inputs⟩ agenda.1

end Sys2Proof.Machine
end

section
/-! PROOFS. SAGEN loads a record into an engine, and what the check of its footprint changes (R32, R52 to R56, R68, R254). -/

namespace Sys2Proof.Machine
open Sys2Proof

/-! ### What a translation and an access of a page leave unchanged -/

/-- The contexts and the engines of t are those of s: a translation or a page access changes neither. -/
structure State.SameUnits (s t : State) : Prop where
  ctxs : t.ctxs = s.ctxs
  engines : t.engines = s.engines

theorem State.SameUnits.refl (s : State) : s.SameUnits s := ⟨rfl, rfl⟩

theorem State.SameUnits.trans {s t u : State} (h : s.SameUnits t) (k : t.SameUnits u) : s.SameUnits u :=
  ⟨k.ctxs.trans h.ctxs, k.engines.trans h.engines⟩

theorem State.SameUnits.ctx {s t : State} (h : s.SameUnits t) (k : Nat) : t.ctx k = s.ctx k := by
  unfold State.ctx
  rw [h.ctxs]

theorem State.SameUnits.engine {s t : State} (h : s.SameUnits t) (e : Nat) : t.engine e = s.engine e := by
  unfold State.engine
  rw [h.engines]

@[simp] theorem l2Touch_engines (s : State) (p dpa : Nat) (dirty : Bool) : (s.l2Touch p dpa dirty).engines = s.engines := by
  unfold State.l2Touch
  split
  · rfl
  · dsimp only
    split <;> rfl

@[simp] theorem ptcFill_engines (s : State) (core launch dva l table : Nat) :
    (s.ptcFill core launch dva l table).engines = s.engines := by
  unfold State.ptcFill
  split
  · rfl
  · dsimp only
    split <;> rfl

theorem walkFrom_engines {s t : State} {core launch dva l table : Nat} {write : Bool} {f : Leaf}
    (h : s.walkFrom core launch dva write l table = .ok (t, f)) : t.engines = s.engines := by
  induction l generalizing s table with
  | zero =>
    obtain ⟨mem, at_, rfl⟩ | ⟨l', at_, a, level, -⟩ := walkFrom_cases h
    · exact l2Touch_engines ..
    · cases level
  | succ l ih =>
    obtain ⟨mem, at_, rfl⟩ | ⟨l', at_, a, level, below⟩ := walkFrom_cases h
    · exact l2Touch_engines ..
    · cases level
      rw [ih below, ptcFill_engines, l2Touch_engines]

theorem walk_sameUnits {s t : State} {core launch : Nat} {dva : Word} {write : Bool} {f : Leaf}
    (h : s.walk core launch dva write = .ok (t, f)) : s.SameUnits t := by
  refine ⟨walk_ctxs h, ?_⟩
  unfold State.walk at h
  split at h
  · cases h
  · split at h
    · cases h
    · exact walkFrom_engines h

theorem walkRun_sameUnits {s t : State} {core launch : Nat} {a : Word} {write : Bool} {r : PRun}
    (h : s.walkRun core launch a write = .ok (t, r)) : s.SameUnits t := by
  unfold State.walkRun at h
  split at h
  · cases h
  next walked =>
    cases h
    exact walk_sameUnits walked

@[simp] theorem sttFill_ctxs (s : State) (core key : Nat) (e : SttEnt) : (s.sttFill core key e).ctxs = s.ctxs := by
  unfold State.sttFill
  dsimp only
  split <;> rfl

@[simp] theorem sttRef_ctxs (s : State) (core key : Nat) : (s.sttRef core key).ctxs = s.ctxs := by
  unfold State.sttRef
  split <;> rfl

/-- Where the page is at hand, the walk of the directory only fills the STT (R77). -/
theorem walkDir_ctxs {s t : State} {c key g : Nat} {write : Bool} (h : s.walkDir c key g write = .ok t) : t.ctxs = s.ctxs := by
  unfold State.walkDir at h
  dsimp only at h
  repeat' split at h
  all_goals cases h
  all_goals exact sttFill_ctxs ..

theorem pageAccess_ctxs {s t : State} {c key g : Nat} {write : Bool} (h : s.pageAccess c key g write = .ok t) :
    t.ctxs = s.ctxs := by
  unfold State.pageAccess at h
  split at h
  · split at h
    · cases h
    · split at h
      · cases h
      · split at h
        · exact walkDir_ctxs h
        · cases h
          exact sttRef_ctxs ..
  · exact walkDir_ctxs h

theorem pageAccess_ctx {s t : State} {c key g : Nat} {write : Bool} (h : s.pageAccess c key g write = .ok t) (j : Nat) :
    t.ctx j = s.ctx j := by
  unfold State.ctx
  rw [pageAccess_ctxs h]

/-! ### The footprint of a program (R32) -/

/-- The state that the translation of a footprint leaves, whether or not it meets a fault. -/
def footState (r : Except (State × Nat × Word) (State × List PRun)) : State :=
  match r with
  | .ok (t, _) => t
  | .error (t, _, _) => t

theorem patchRuns_sameUnits (s : State) (core launch : Nat) (lo : Word) (write : Bool) (rs : List PRun) (n : Nat) :
    s.SameUnits (footState (s.patchRuns core launch lo write rs n)) := by
  induction n generalizing s lo rs with
  | zero => exact .refl s
  | succ n ih =>
    unfold State.patchRuns
    split
    · exact .refl s
    next s1 r walked =>
      split
      · exact walkRun_sameUnits walked
      · exact (walkRun_sameUnits walked).trans (ih ..)

theorem sameUnits_of_footState {s : State} {r x : Except (State × Nat × Word) (State × List PRun)} (h : r = x)
    (same : s.SameUnits (footState r)) : s.SameUnits (footState x) := h ▸ same

/-- A side that has nothing to translate adds no run. -/
theorem patchRuns_ite_sameUnits (s : State) (core launch : Nat) (lo : Word) (write : Bool) (rs : List PRun) (n : Nat) {c : Prop}
    [Decidable c] : s.SameUnits (footState (if c then s.patchRuns core launch lo write rs n else .ok (s, rs))) := by
  split
  · exact patchRuns_sameUnits ..
  · exact .refl s

theorem footRuns_sameUnits (s : State) (e : Nat) (g : Engine) : s.SameUnits (footState (s.footRuns e g)) := by
  unfold State.footRuns
  dsimp only
  split
  · exact .refl s
  · split
    next f fault => exact sameUnits_of_footState fault (patchRuns_ite_sameUnits ..)
    next s1 rs runs => exact (sameUnits_of_footState runs (patchRuns_ite_sameUnits ..)).trans (patchRuns_ite_sameUnits ..)

/-- A program without a dva side has no address to translate. -/
theorem footRuns_of_no_dva {s : State} {e : Nat} {g : Engine} (src : recSrcKind g.record ≠ 2) (dst : recDstKind g.record ≠ 2) :
    s.footRuns e g = .ok (s, []) := by
  unfold State.footRuns
  by_cases indexed : recIndexed g.record = true
  · exact if_pos indexed
  · rw [if_neg indexed]
    dsimp only
    rw [if_neg fun dva => src dva.1]
    exact if_neg dst

/-- What the check of the footprint comes to: the extents are not known yet, the runs are patched, or a fault is recorded. -/
theorem checkFoot_cases (s : State) (e : Nat) : s.checkFoot e = s
    ∨ (∃ t rs, s.footRuns e (s.engine e) = .ok (t, rs) ∧ s.checkFoot e = t.updEngine e fun g => { g with runs := rs.take 16 })
    ∨ ∃ t kind a, s.footRuns e (s.engine e) = .error (t, kind, a) ∧ s.checkFoot e = t.faultEngine e 0x04 kind a := by
  unfold State.checkFoot
  dsimp only
  split
  · exact .inl rfl
  · split
    next fault => exact .inr (.inr ⟨_, _, _, fault, rfl⟩)
    next runs => exact .inr (.inl ⟨_, _, runs, rfl⟩)

/-- A loaded engine without a destination tile serves no push and holds no tile in FILLING: its fault changes it alone (R68). -/
theorem faultEngine_loaded {s : State} {e code kind : Nat} {a : Word} (loaded : (s.engine e).st = .loaded)
    (unbound : (s.engine e).dstTile = none) :
    s.faultEngine e code kind a = s.setEngine e { (s.engine e).ended_ .faulted with fault := some (code, kind, a) } := by
  unfold State.faultEngine State.emptyDst
  dsimp only
  rw [unbound, loaded, if_neg fun running => nomatch running.2]

/-- The engine h is g with the runs of its footprint, or with a fault that a dva side of its record has met (R32, R68). -/
def Engine.FootChecked (g h : Engine) : Prop :=
  (∃ runs, h = { g with runs := runs })
    ∨ (recSrcKind g.record = 2 ∨ recDstKind g.record = 2) ∧ ∃ fault, h = { g.ended_ .faulted with fault := fault }

/-- The check of a loaded engine's footprint changes that engine and what the walks set; the contexts are as they were. -/
theorem checkFoot_loaded {s : State} {e : Nat} (loaded : (s.engine e).st = .loaded) (unbound : (s.engine e).dstTile = none) :
    (s.checkFoot e).ctxs = s.ctxs ∧ (s.engine e).FootChecked ((s.checkFoot e).engine e)
      ∧ (recSrcKind (s.engine e).record ≠ 2 → recDstKind (s.engine e).record ≠ 2 → (s.checkFoot e).mem = s.mem) := by
  have same := footRuns_sameUnits s e (s.engine e)
  obtain unknown | ⟨t, rs, runs, checked⟩ | ⟨t, kind, a, fault, checked⟩ := checkFoot_cases s e
  · rw [unknown]
    exact ⟨rfl, .inl ⟨_, rfl⟩, fun _ _ => rfl⟩
  · rw [runs] at same
    rw [checked]
    refine ⟨same.ctxs, .inl ⟨rs.take 16, ?_⟩, fun src dst => ?_⟩
    · unfold State.updEngine
      rw [State.setEngine_engine_self, show t.engine e = s.engine e from same.engine e]
    · cases runs.symm.trans (footRuns_of_no_dva src dst)
      rfl
  · rw [fault] at same
    have engine : t.engine e = s.engine e := same.engine e
    rw [checked, faultEngine_loaded (engine ▸ loaded) (engine ▸ unbound), State.setEngine_engine_self, engine]
    refine ⟨same.ctxs, ?_, fun src dst => nomatch fault.symm.trans (footRuns_of_no_dva src dst)⟩
    by_cases src : recSrcKind (s.engine e).record = 2
    · exact .inr ⟨.inl src, _, rfl⟩
    · by_cases dst : recDstKind (s.engine e).record = 2
      · exact .inr ⟨.inr dst, _, rfl⟩
      · cases fault.symm.trans (footRuns_of_no_dva src dst)

/-! ### Loading a record (R56, R254) -/

/-- The engine holds the program of record r, loaded by context k with the bases sb and db, at its start and with no slot bound. -/
structure Engine.Programmed (g : Engine) (k : Nat) (r : List Word) (sb db : Word) : Prop where
  ctx : g.ctx = k
  record : g.record = r
  srcBase : g.srcBase = sb
  dstBase : g.dstBase = db
  ext : g.ext = recExt r
  str : g.str = recStr r
  count : g.count = if recCount r = 0 then prodOf (recExt r) else recCount r
  n : g.n = 0
  slot0 : g.slot0 = none
  slot1 : g.slot1 = none

theorem Engine.Programmed.dstTile {g : Engine} {k : Nat} {r : List Word} {sb db : Word} (p : g.Programmed k r sb db) :
    g.dstTile = none := by
  unfold Engine.dstTile Engine.slot
  simp only [p.slot0, p.slot1, ite_self]

/-- The check of the footprint leaves the program as it was loaded. -/
theorem Engine.Programmed.footChecked {g h : Engine} {k : Nat} {r : List Word} {sb db : Word} (p : g.Programmed k r sb db)
    (checked : g.FootChecked h) : h.Programmed k r sb db := by
  obtain ⟨runs, rfl⟩ | ⟨-, fault, rfl⟩ := checked
  · exact { p with }
  · exact { p with slot0 := rfl, slot1 := rfl }

/-- The base of a side (R55). -/
theorem sideBase_eq (x : Ctx) (kind : Nat) (sel : BitVec 10) (w : Word) :
    sideBase x kind sel (off48 w) = (if kind = 2 then x.rg (sel.extractLsb' 0 5) else 0) + (w.extractLsb' 0 48).signExtend 64 := by
  unfold sideBase
  split
  · rfl
  · exact (BitVec.zero_add _).symm

theorem not_bne_of_eq {m n : Nat} (h : m = n) : ¬(m != n) = true := fun ne => bne_iff_ne.1 ne h

theorem not_misaligned {kind size : Nat} {b : Word} (aligned : (kind = 1 ∨ kind = 2 ∨ kind = 3) → b.toNat % size = 0) :
    ¬(isMemSide kind && b.toNat % size != 0) = true := by
  intro misaligned
  obtain ⟨side, odd⟩ := Bool.and_eq_true_iff.1 misaligned
  exact bne_iff_ne.1 odd (aligned (by simpa only [isMemSide, Bool.or_eq_true, beq_iff_eq, or_assoc] using side))

/-- A record that passes the checks of R56 on an engine of the region, with the bases sb and db of its sides, aligned where they
are memory sides. -/
structure Loadable (x : Ctx) (e : Nat) (r : List Word) (sb db : Word) : Prop where
  legal : recOk r false = true
  srcSide : sideOk x.quads (engQuad (e % 16)) (recSrcKind r) (recSrcSel r) = true
  dstSide : sideOk x.quads (engQuad (e % 16)) (recDstKind r) (recDstSel r) = true
  srcBase : sideBase x (recSrcKind r) (recSrcSel r) (off48 (r.getD 1 0)) = sb
  dstBase : sideBase x (recDstKind r) (recDstSel r) (off48 (r.getD 2 0)) = db
  srcAligned : (recSrcKind r = 1 ∨ recSrcKind r = 2 ∨ recSrcKind r = 3) → sb.toNat % recSize r = 0
  dstAligned : (recDstKind r = 1 ∨ recDstKind r = 2 ∨ recDstKind r = 3) → db.toNat % recSize r = 0

section
variable {s : State} {k e : Nat} {x : Ctx} {r : List Word} {src : RecSrc} {sb db : Word}

theorem loadEngine_eq (h : Loadable x e r sb db) : ∃ g : Engine, g.st = .loaded ∧ g.Programmed k r sb db
    ∧ s.loadEngine k x e r src = .done (((s.emptyDst (s.engine e)).setEngine e g).checkFoot e) := by
  have passes : ¬(!recOk r false || !sideOk x.quads (engQuad (e % 16)) (recSrcKind r) (recSrcSel r)
      || !sideOk x.quads (engQuad (e % 16)) (recDstKind r) (recDstSel r)) = true := by
    simp only [h.legal, h.srcSide, h.dstSide, Bool.not_true, Bool.or_self, Bool.false_eq_true, not_false_eq_true]
  unfold State.loadEngine
  dsimp only
  rw [if_neg passes, h.srcBase, h.dstBase, if_neg (not_misaligned h.srcAligned), if_neg (not_misaligned h.dstAligned)]
  exact ⟨_, rfl, ⟨rfl, rfl, rfl, rfl, rfl, rfl, rfl, rfl, rfl, rfl⟩, rfl⟩

theorem emptyDst_mem (s : State) (g : Engine) : (s.emptyDst g).mem = s.mem := by
  obtain h | ⟨key, h⟩ := emptyDst_cases s g <;> rw [h]
  exact setTileSt_mem ..

theorem emptyDst_ctx (s : State) (g : Engine) (j : Nat) : ∃ b, (s.emptyDst g).ctx j = { s.ctx j with event := b } := by
  obtain h | ⟨key, h⟩ := emptyDst_cases s g <;> rw [h]
  · exact ⟨_, rfl⟩
  · exact setTileSt_ctx s key .empty j

/-- A legal record is loaded: only the event flag of the context can change, and no byte of memory but by the translation of a dva
side (R32, R232, R254). -/
theorem loadEngine_loads (h : Loadable x e r sb db) : ∃ t b, s.loadEngine k x e r src = .done t
    ∧ t.ctx k = { s.ctx k with event := b } ∧ (t.engine e).Programmed k r sb db
    ∧ ((t.engine e).st = .loaded ∨ (t.engine e).st = .faulted ∧ (recSrcKind r = 2 ∨ recDstKind r = 2))
    ∧ (recSrcKind r ≠ 2 → recDstKind r ≠ 2 → t.mem = s.mem) := by
  obtain ⟨g, loaded, programmed, loads⟩ := loadEngine_eq (s := s) (k := k) (src := src) h
  obtain ⟨b, ctx⟩ := emptyDst_ctx s (s.engine e) k
  have engine : ((s.emptyDst (s.engine e)).setEngine e g).engine e = g := State.setEngine_engine_self ..
  obtain ⟨ctxs, checked, mem⟩ := checkFoot_loaded (engine.symm ▸ loaded) (engine.symm ▸ programmed.dstTile)
  rw [engine] at checked mem
  rw [programmed.record] at mem
  refine ⟨_, b, loads, ?_, programmed.footChecked checked, ?_, fun src dst => (mem src dst).trans (emptyDst_mem ..)⟩
  · unfold State.ctx at ctx ⊢
    rw [ctxs]
    exact ctx
  · obtain ⟨runs, patched⟩ | ⟨dva, fault, faulted⟩ := checked
    · rw [patched]
      exact .inl loaded
    · rw [faulted, ← programmed.record]
      exact .inr ⟨rfl, dva⟩

end

/-! ### The three forms of SAGEN (R254) -/

theorem withTile_bound {s : State} {k : Nat} {h : Handle} {f : Nat → Tile → Res} {t : Tile} (bound : h.bound = true)
    (tile : s.tile? (s.tileKey k h) = some t) : s.withTile k h f = f (s.tileKey k h) t := by
  unfold State.withTile State.withTileIf
  rw [bound, tile]
  rfl

section
variable {s : State} {k e : Nat} {c : Guard} {eng : BitVec 4} (issues : s.issues k c) (found : (s.ctx k).physEngine k eng = some e)
  (sound : (s.engine e).st ≠ .faulted)
include issues found sound

theorem exec_sagen_misaligned {a : BitVec 5} (odd : ((s.ctx k).rg a).toNat % 64 ≠ 0) :
    exec (.sagen c eng a) s = .next (s.takeTrap k ⟨0x03, 0, (s.ctx k).rg a⟩) := by
  refine (cp_issues issues : execSagen c eng a s = _).trans ?_
  rw [withEngine_sound found sound]
  dsimp only
  rw [if_pos (bne_iff_ne.2 odd)]
  rfl

theorem exec_sagen_waits {a : BitVec 5} (aligned : ((s.ctx k).rg a).toNat % 64 = 0) (running : (s.engine e).st = .running) :
    exec (.sagen c eng a) s = .next (s.updCtx k fun x => x.waiting .other s.clock) := by
  refine (cp_issues issues : execSagen c eng a s = _).trans ?_
  rw [withEngine_sound found sound]
  dsimp only
  rw [if_neg (not_bne_of_eq aligned), if_pos running, finish_wait]

theorem exec_sagen_loads {a : BitVec 5} {s1 s2 : State} {bs : List Byte} {t : Xlat} (aligned : ((s.ctx k).rg a).toNat % 64 = 0)
    (idle : (s.engine e).st ≠ .running) (read : s.devReadLong k ((s.ctx k).rg a) 8 = .ok (s1, bs))
    (translated : s1.translate (coreOf k) (s1.launchOf k) ((s.ctx k).rg a) false = .ok (s2, t)) :
    exec (.sagen c eng a) s = .next ((s1.loadEngine k (s.ctx k) e (dwords bs) (.device t.dpa)).finish s k (s.ctx k).pc 4) := by
  refine (cp_issues issues : execSagen c eng a s = _).trans ?_
  rw [withEngine_sound found sound]
  dsimp only
  rw [if_neg (not_bne_of_eq aligned), if_neg idle, read]
  dsimp only
  rw [translated]

/-- SAGEN from a tile waits for the engine, and for the tile to be READY (R254). -/
theorem exec_sagenTile_waits {ha : BitVec 4} {b : BitVec 5} {tl : Tile} (bound : ((s.ctx k).rh ha).bound = true)
    (tile : s.tile? (s.tileKey k ((s.ctx k).rh ha)) = some tl) (running : (s.engine e).st = .running) :
    exec (.sagenTile c eng ha b) s = .next (s.updCtx k fun x => x.waiting .other s.clock) := by
  refine (cp_issues issues : execSagenTile c eng ha b s = _).trans ?_
  rw [withEngine_sound found sound]
  dsimp only
  rw [withTile_bound bound tile, if_pos (.inl running), finish_wait]

theorem exec_sagenTile_loads {ha : BitVec 4} {b : BitVec 5} {tl : Tile} {s1 : State} (bound : ((s.ctx k).rh ha).bound = true)
    (tile : s.tile? (s.tileKey k ((s.ctx k).rh ha)) = some tl) (ready : tl.st = .ready) (idle : (s.engine e).st ≠ .running)
    (inside : 64 * ((s.ctx k).rg b).toNat + 64 ≤ tileBytes tl.fmt tl.rows tl.cols)
    (page : s.pageAccess (coreOf k) (s.tileKey k ((s.ctx k).rh ha) + 64 * ((s.ctx k).rg b).toNat / 2048) (s.ctx k).gang false
      = .ok s1) :
    exec (.sagenTile c eng ha b) s = .next ((s1.loadEngine k (s.ctx k) e
      (dwords (s1.tileGet (s.tileKey k ((s.ctx k).rh ha)) (64 * ((s.ctx k).rg b).toNat) 64))
      (.tile (keyPage (s.tileKey k ((s.ctx k).rh ha))) (64 * ((s.ctx k).rg b).toNat))).finish s k (s.ctx k).pc 4) := by
  refine (cp_issues issues : execSagenTile c eng ha b s = _).trans ?_
  rw [withEngine_sound found sound]
  dsimp only
  rw [withTile_bound bound tile, if_neg (not_or.2 ⟨idle, fun busy => busy ready⟩), if_neg (Nat.not_lt.2 inside), page]
  rfl

theorem exec_sagenPantry_illegal {entry : BitVec 10}
    (absent : entry = 0 ∨ tget? (s.launch (s.launchOf k)).pantry.streams entry.toNat = none) :
    exec (.sagenPantry c eng entry) s = .next (s.takeTrap k ⟨0x01, 0, 0⟩) := by
  refine (cp_issues issues : execSagenPantry c eng entry s = _).trans ?_
  rw [withEngine_sound found sound]
  split
  · rfl
  next r present =>
    have zero : entry = 0 := absent.resolve_right fun none => nomatch present.symm.trans none
    rw [if_pos zero]
    rfl

theorem exec_sagenPantry {entry : BitVec 10} {r : List Word} (nonzero : entry ≠ 0)
    (present : tget? (s.launch (s.launchOf k)).pantry.streams entry.toNat = some r) :
    exec (.sagenPantry c eng entry) s = .next ((if (s.engine e).st = .running then .wait s .other
      else s.loadEngine k (s.ctx k) e r (.pantry entry.toNat)).finish s k (s.ctx k).pc 4) := by
  refine (cp_issues issues : execSagenPantry c eng entry s = _).trans ?_
  rw [withEngine_sound found sound, present]
  dsimp only
  rw [if_neg nonzero]

end

/-- Settles O39: each form of SAGEN comes to `State.loadEngine` with the record that it has read, which changes the engine, the
event flags of the contexts, and what the translation of a footprint sets. -/
theorem streamProgramsLoad : Obligations.StreamProgramsLoad := by
  unfold Obligations.StreamProgramsLoad
  intro s k c eng ha a b entry issues x all
  refine ⟨fun outside i mem => ?illegal, fun e found running => ?waits, fun e found sound =>
    ⟨exec_sagen_misaligned issues found sound, exec_sagenPantry_illegal issues found sound⟩, fun e found sound idle => ?loads⟩
  case illegal =>
    have command : ∃ r, i ∈ streamCommands c eng ha 0 r 0 0 entry := by
      simp only [all, List.mem_cons, List.not_mem_nil, or_false] at mem
      obtain rfl | rfl | rfl := mem
      · exact ⟨a, .head _⟩
      · exact ⟨b, by simp only [streamCommands, List.mem_cons, true_or, or_true]⟩
      · exact ⟨a, .tail _ (.head _)⟩
    obtain ⟨r, command⟩ := command
    obtain ⟨f, runs⟩ := exec_streamCommand issues command
    rw [runs, withEngine_none outside, finish_trap]
  case waits =>
    have sound : (s.engine e).st ≠ .faulted := fun faulted => nomatch running.symm.trans faulted
    refine ⟨fun aligned => exec_sagen_waits issues found sound aligned running, fun bound tile => ?_, fun nonzero present => ?_⟩
    · obtain ⟨tl, tile⟩ := Option.isSome_iff_exists.1 tile
      exact exec_sagenTile_waits issues found sound bound tile running
    · obtain ⟨r, present⟩ := Option.isSome_iff_exists.1 present
      rw [exec_sagenPantry issues found sound nonzero present, if_pos running, finish_wait]
  case loads =>
    intro i r s1 source legal srcSide dstSide base sb db srcAligned dstAligned
    have runs : ∃ src, exec i s = .next ((s1.loadEngine k x e r src).finish s k x.pc 4) ∧ s1.ctx k = x := by
      obtain ⟨rfl, aligned, ⟨bs, read, rfl⟩, s2, t, translated⟩ | ⟨rfl, bound, ⟨tl, tile, ready, inside⟩, page, rfl⟩
        | ⟨rfl, nonzero, rfl, present⟩ := source
      · exact ⟨_, exec_sagen_loads issues found sound aligned idle read translated, devReadLong_ctx read k⟩
      · exact ⟨_, exec_sagenTile_loads issues found sound bound tile ready idle inside page, pageAccess_ctx page k⟩
      · refine ⟨.pantry entry.toNat, (exec_sagenPantry issues found sound nonzero present).trans ?_, rfl⟩
        rw [if_neg idle]
    obtain ⟨src, runs, same⟩ := runs
    have loadable : Loadable x e r sb db :=
      ⟨legal, srcSide, dstSide, sideBase_eq .., sideBase_eq .., srcAligned, dstAligned⟩
    obtain ⟨t, event, loads, ctx, p, st, mem⟩ := loadEngine_loads (s := s1) (k := k) (src := src) loadable
    rw [loads, finish_done] at runs
    refine ⟨_, runs, ?_, p.record, p.srcBase, p.dstBase, p.ctx, p.ext, p.str, p.n, p.slot0, p.slot1, p.count, st, mem⟩
    rw [goesTo_ctx_self, ctx, same]
    rfl

end Sys2Proof.Machine
end
